-- ==== Sys2Proof/Word.lean ====
section
/-!
DEFINITION. The words of the NDV-768, the eight lanes of a token or register (R6) and the finite maps that hold sparse state.
-/
namespace Sys2Proof

/-- A 32-bit lane word (R6). -/
abbrev Word := BitVec 32
/-- A 16-bit half-word of a configuration command (R60). -/
abbrev Half := BitVec 16
/-- A byte of memory (R4). -/
abbrev Byte := BitVec 8

/-- Eight lanes, numbered 0 to 7 (R6). -/
structure Oct (α : Type) where
  l0 : α
  l1 : α
  l2 : α
  l3 : α
  l4 : α
  l5 : α
  l6 : α
  l7 : α
deriving DecidableEq, Repr

namespace Oct

/-- Lane `n`; every number above 6 names lane 7. -/
def get {α : Type} (x : Oct α) (n : Nat) : α :=
  match n with
  | 0 => x.l0
  | 1 => x.l1
  | 2 => x.l2
  | 3 => x.l3
  | 4 => x.l4
  | 5 => x.l5
  | 6 => x.l6
  | _ => x.l7

/-- The eight lanes `f 0` to `f 7`. -/
def ofFn {α : Type} (f : Nat → α) : Oct α := ⟨f 0, f 1, f 2, f 3, f 4, f 5, f 6, f 7⟩

/-- One value in every lane. -/
def all {α : Type} (v : α) : Oct α := ⟨v, v, v, v, v, v, v, v⟩

/-- The lanes in ascending order. -/
def toList {α : Type} (x : Oct α) : List α := [x.l0, x.l1, x.l2, x.l3, x.l4, x.l5, x.l6, x.l7]

/-- The lanes mapped one by one. -/
def map {α β : Type} (f : α → β) (x : Oct α) : Oct β := ofFn fun n => f (x.get n)

theorem get_ofFn {α : Type} (f : Nat → α) {n : Nat} (h : n < 8) : (ofFn f).get n = f n := by
  rcases n with _ | _ | _ | _ | _ | _ | _ | _ | n
  all_goals first | rfl | omega

@[simp] theorem get_all {α : Type} (v : α) (n : Nat) : (all v).get n = v := by
  rcases n with _ | _ | _ | _ | _ | _ | _ | n <;> rfl

theorem ext_get {α : Type} {x y : Oct α} (h : ∀ n, n < 8 → x.get n = y.get n) : x = y := by
  have e0 : x.l0 = y.l0 := h 0 (by omega)
  have e1 : x.l1 = y.l1 := h 1 (by omega)
  have e2 : x.l2 = y.l2 := h 2 (by omega)
  have e3 : x.l3 = y.l3 := h 3 (by omega)
  have e4 : x.l4 = y.l4 := h 4 (by omega)
  have e5 : x.l5 = y.l5 := h 5 (by omega)
  have e6 : x.l6 = y.l6 := h 6 (by omega)
  have e7 : x.l7 = y.l7 := h 7 (by omega)
  cases x; cases y; simp_all

end Oct

/-- A finite map from numbers, kept as a list of rising keys; a key that is not listed reads as its default. -/
abbrev SMap (α : Type) := List (Nat × α)

namespace SMap

/-- The value at `k`, with `d k` where the map lists nothing for `k`. -/
def get {α : Type} (d : Nat → α) : SMap α → Nat → α
  | [], k => d k
  | (j, v) :: r, k => if k = j then v else if k < j then d k else get d r k

/-- The map with `v` at `k`. -/
def set {α : Type} : SMap α → Nat → α → SMap α
  | [], k, v => [(k, v)]
  | (j, w) :: r, k, v =>
    if k = j then (k, v) :: r else if k < j then (k, v) :: (j, w) :: r else (j, w) :: set r k v

/-- The value listed at `k`, if any. -/
def find {α : Type} : SMap α → Nat → Option α
  | [], _ => none
  | (j, v) :: r, k => if k = j then some v else find r k

/-- The map without an entry at `k`. -/
def del {α : Type} (m : SMap α) (k : Nat) : SMap α := m.filter fun p => p.1 != k

/-- The keys the map lists. -/
def keys {α : Type} (m : SMap α) : List Nat := m.map (·.1)

/-- A write is read back. -/
@[simp] theorem get_set_same {α : Type} (d : Nat → α) (m : SMap α) (k : Nat) (v : α) :
    get d (set m k v) k = v := by
  induction m with
  | nil => simp [set, get]
  | cons p r ih =>
    obtain ⟨j, w⟩ := p
    by_cases h1 : k = j
    · simp [set, get, h1]
    · by_cases h2 : k < j
      · simp [set, get, h1, h2]
      · simp [set, get, h1, h2, ih]

/-- A write leaves every other key as it was. -/
theorem get_set_ne {α : Type} (d : Nat → α) (m : SMap α) {k k' : Nat} (v : α) (h : k' ≠ k) :
    get d (set m k v) k' = get d m k' := by
  induction m with
  | nil => by_cases hl : k' < k <;> simp [set, get, h, hl]
  | cons p r ih =>
    obtain ⟨j, w⟩ := p
    by_cases h1 : k = j
    · subst h1; simp [set, get, h]
    · by_cases h2 : k < j
      · by_cases h3 : k' < k
        · have h4 : k' ≠ j := by omega
          have h5 : k' < j := by omega
          simp [set, get, h1, h2, h, h3, h4, h5]
        · simp [set, get, h1, h2, h, h3]
      · simp only [set, h1, h2, if_false, get]
        by_cases h3 : k' = j
        · simp [h3]
        · by_cases h4 : k' < j
          · simp [h3, h4]
          · simp [h3, h4, ih]

end SMap

end Sys2Proof
end

