-- ==== Sys2Proof/Machine/Numeric.lean ====
section
/-!
DEFINITION. Number formats and rounding: exact values, decoding, RoundToFormat and the conversions of special values
(R32 to R45, R48 to R53).
-/
namespace Sys2Proof.Machine

/-- The events of R24 as bits of SFLAGS: invalid operation. -/
def evNV : Byte := 0x01
/-- Division by zero (R24). -/
def evDZ : Byte := 0x02
/-- Overflow (R24). -/
def evOF : Byte := 0x04
/-- Underflow (R24). -/
def evUF : Byte := 0x08
/-- Inexact (R24). -/
def evNX : Byte := 0x10
/-- Saturation (R24). -/
def evSAT : Byte := 0x20
/-- A token was converted at the element's conversion node (R24). -/
def evSTEER : Byte := 0x40
/-- A notice was dropped (R24). -/
def evOVFD : Byte := 0x80

/-- An exact value (R48): a signed rational `num / den`, an infinity, a NaN held in its FP32 bits, or NaR. A zero keeps its sign. -/
inductive FVal where
  | fin (neg : Bool) (num den : Nat)
  | inf (neg : Bool)
  | nan (bits : Word)
  | nar
deriving DecidableEq, Repr

/-- The floating and scaled formats (R32, R33, R36, R38). -/
inductive FFmt where
  | fp32
  | bf16
  | rn8
  | f4
deriving DecidableEq, Repr

/-- The rounding modes (R42). -/
inductive RMode where
  | rne
  | rtz
  | rup
  | rdn
  | rna
deriving DecidableEq, Repr

/-- A rounding code 0 to 4 (R42); verification refuses the others, and they read as nearest-even here. (DESIGN CHOICE, log entry 136) -/
def RMode.ofCode (c : Nat) : RMode :=
  match c with
  | 1 => .rtz
  | 2 => .rup
  | 3 => .rdn
  | 4 => .rna
  | _ => .rne

/-- A result with the events it raised. -/
structure Rounded where
  bits : Word
  ev   : Byte
deriving DecidableEq, Repr

/-! ### Decoding -/

/-- The default NaN of FP32 (R34). -/
def defaultNaN : Word := 0x7FC00000

/-- Whether the FP32 bits are a NaN. -/
def isNaNBits (w : Word) : Bool := w.extractLsb' 23 8 == 255 && w.extractLsb' 0 23 != 0

/-- Whether NaN bits are signalling (R34). -/
def isSigBits (w : Word) : Bool := isNaNBits w && !w.getLsbD 22

/-- NaN bits made quiet (R34). -/
def quietBits (w : Word) : Word := w ||| 0x00400000

/-- The value of FP32 bits (R32). -/
def decodeFp32 (w : Word) : FVal :=
  let e := (w.extractLsb' 23 8).toNat
  let m := (w.extractLsb' 0 23).toNat
  let s := w.getLsbD 31
  if e = 255 then (if m = 0 then .inf s else .nan w)
  else if e = 0 then .fin s m (2 ^ 149)
  else if e < 150 then .fin s (2 ^ 23 + m) (2 ^ (150 - e))
  else .fin s ((2 ^ 23 + m) * 2 ^ (e - 150)) 1

/-- The value of BF16 bits (R33): the upper half of FP32. -/
def decodeBf16 (w : Word) : FVal := decodeFp32 (w <<< 16)

/-- The Ralnum-8 payloads in ascending order of magnitude, rank 1 first (R37). -/
def rn8Ranks : List Nat :=
  [0x01, 0x03, 0x02, 0x06, 0x07, 0x04, 0x05, 0x0C, 0x0D, 0x0E, 0x0F, 0x08, 0x09, 0x0A, 0x0B] ++
  [0x18, 0x19, 0x1A, 0x1B, 0x1C, 0x1D, 0x1E, 0x1F, 0x10, 0x11, 0x12, 0x13, 0x14, 0x15, 0x16, 0x17] ++
  [0x30, 0x31, 0x32, 0x33, 0x34, 0x35, 0x36, 0x37, 0x38, 0x39, 0x3A, 0x3B, 0x3C, 0x3D, 0x3E, 0x3F] ++
  [0x20, 0x21, 0x22, 0x23, 0x24, 0x25, 0x26, 0x27, 0x28, 0x29, 0x2A, 0x2B, 0x2C, 0x2D, 0x2E, 0x2F] ++
  [0x60, 0x61, 0x62, 0x63, 0x64, 0x65, 0x66, 0x67, 0x68, 0x69, 0x6A, 0x6B, 0x6C, 0x6D, 0x6E, 0x6F] ++
  [0x70, 0x71, 0x72, 0x73, 0x74, 0x75, 0x76, 0x77, 0x78, 0x79, 0x7A, 0x7B, 0x7C, 0x7D, 0x7E, 0x7F] ++
  [0x50, 0x51, 0x52, 0x53, 0x54, 0x55, 0x56, 0x57, 0x58, 0x59, 0x5A, 0x5B, 0x5C, 0x5D, 0x5E, 0x5F] ++
  [0x48, 0x49, 0x4A, 0x4B, 0x4C, 0x4D, 0x4E, 0x4F, 0x44, 0x45, 0x46, 0x47, 0x42, 0x43, 0x41, 0x40]

/-- The position of the highest set bit below `n` of `v`, 0 where none is set. -/
def highestSet (v : Nat) : Nat → Nat
  | 0 => 0
  | n + 1 => if v.testBit n then n else highestSet v n

/-- The magnitude of a nonzero Ralnum-8 payload in units of 2^-11 (R36). -/
def rn8Units (p : Nat) : Nat :=
  if p = 0x40 then 2 ^ 22
  else
    let g := p.testBit 6
    let low := p % 64
    let m := highestSet low 6
    let z := 5 - m
    let e1 := if 1 ≤ m then (low / 2 ^ (m - 1)) % 2 else 0
    let nf := m - 1
    let frac := low % 2 ^ nf
    let e := 2 * z + e1
    if g then (2 ^ nf + frac) * 2 ^ (11 + e) / 2 ^ nf
    else (2 ^ nf + frac) * 2 ^ (10 - e) / 2 ^ nf

/-- The value of a Ralnum-8 byte (R36). -/
def decodeRn8 (w : Word) : FVal :=
  let s := w.getLsbD 7
  let p := (w.extractLsb' 0 7).toNat
  if p = 0 then (if s then .nar else .fin false 0 1) else .fin s (rn8Units p) 2048

/-- The rank of a Ralnum-8 payload, 0 for zero (R37, R52). -/
def rankRn8 (p : Nat) : Nat := if p = 0 then 0 else (rn8Ranks.findIdx (· == p)) + 1

/-- The payload of a rank, 0 for rank 0 (R52). -/
def fromRankRn8 (k : Nat) : Nat :=
  match k with
  | 0 => 0
  | k + 1 => rn8Ranks.getD k 0x40

/-- The magnitudes of the F4 codes in quarters (R38). -/
def f4Quarters (c : Nat) : Nat :=
  match c with
  | 0 => 0
  | 1 => 1
  | 2 => 2
  | 3 => 3
  | 4 => 4
  | 5 => 6
  | 6 => 8
  | _ => 12

/-- The value of an F4 nibble in a group of Ralnum-8 scale `sc` (R38): scale 0x00 gives signed zeros, NaR the default NaN. -/
def decodeF4 (nib sc : Word) : FVal :=
  let s := nib.getLsbD 3
  let q := f4Quarters (nib.extractLsb' 0 3).toNat
  match decodeRn8 sc with
  | .fin sn n d => .fin (s != (sn && n != 0)) (q * n) (4 * d)
  | _ => .nan defaultNaN

/-- Decode(w, f) of R52 for the unscaled formats; a bare F4 nibble is read under scale 1.0. -/
def decodeF (f : FFmt) (w : Word) : FVal :=
  match f with
  | .fp32 => decodeFp32 w
  | .bf16 => decodeBf16 w
  | .rn8 => decodeRn8 w
  | .f4 => decodeF4 w 0x60

/-- A Ralnum-8 operand of an instruction with an FP32 result: NaR takes part as the default NaN (R95). -/
def FVal.narAsNaN (v : FVal) : FVal :=
  match v with
  | .nar => .nan defaultNaN
  | v => v

/-- Whether a value is a NaN or NaR. -/
def FVal.isNaN (v : FVal) : Bool :=
  match v with
  | .nan _ => true
  | .nar => true
  | _ => false

/-- Whether a value is a signalling NaN. -/
def FVal.isSig (v : FVal) : Bool :=
  match v with
  | .nan b => isSigBits b
  | _ => false

/-- Whether a value is a zero. -/
def FVal.isZero (v : FVal) : Bool :=
  match v with
  | .fin _ n _ => n == 0
  | _ => false

/-- The sign of a value; false for NaR. -/
def FVal.sign (v : FVal) : Bool :=
  match v with
  | .fin s _ _ => s
  | .inf s => s
  | .nan b => b.getLsbD 31
  | .nar => false

/-- A value with its sign inverted, NaN and NaR unchanged. -/
def FVal.negate (v : FVal) : FVal :=
  match v with
  | .fin s n d => .fin (!s) n d
  | .inf s => .inf (!s)
  | v => v

/-- PropagateNaN of R34 and R52: the first signalling NaN made quiet with NV, else the first quiet NaN. -/
def propagateNaN (xs : List FVal) : Option (Word × Byte) :=
  match xs.find? FVal.isSig with
  | some (.nan b) => some (quietBits b, evNV)
  | _ =>
    match xs.find? FVal.isNaN with
    | some (.nan b) => some (b, 0)
    | _ => none

/-! ### Exact arithmetic -/

/-- The exact product; nothing where it is invalid (R34). The operands are no NaN. -/
def mulE (a b : FVal) : Option FVal :=
  match a, b with
  | .fin s n d, .fin t m e => some (.fin (s != t) (n * m) (d * e))
  | .inf s, .fin t m _ => if m = 0 then none else some (.inf (s != t))
  | .fin s n _, .inf t => if n = 0 then none else some (.inf (s != t))
  | .inf s, .inf t => some (.inf (s != t))
  | _, _ => none

/-- A finite magnitude as a signed integer. -/
def signed (s : Bool) (n : Nat) : Int := if s then -(n : Int) else n

/-- The exact sum; nothing for ∞ − ∞. An exact zero of opposite-signed operands is −0 when rounding down, else +0 (R35). -/
def addE (m : RMode) (a b : FVal) : Option FVal :=
  match a, b with
  | .fin s n d, .fin t k e =>
    if n = 0 ∧ k = 0 then some (.fin (if s = t then s else m == .rdn) 0 1)
    else
      let v := signed s n * e + signed t k * d
      if v = 0 then some (.fin (m == .rdn) 0 1) else some (.fin (decide (v < 0)) v.natAbs (d * e))
  | .inf s, .inf t => if s = t then some (.inf s) else none
  | .inf s, .fin _ _ _ => some (.inf s)
  | .fin _ _ _, .inf t => some (.inf t)
  | _, _ => none

/-- ExactTripleProduct of R48, NaN operands apart. -/
def triple (a b c : FVal) : Option FVal :=
  match a, b, c with
  | .fin _ _ _, .fin _ _ _, .fin _ _ _ => (mulE a b).bind (mulE · c)
  | _, _, _ =>
    if a.isZero || b.isZero || c.isZero then none else (mulE a b).bind (mulE · c)

/-- The order of two values that are no NaN, −0 equal to +0. -/
def cmpVal (a b : FVal) : Ordering :=
  match a, b with
  | .fin s n d, .fin t k e => compare (signed s n * e) (signed t k * d)
  | .inf s, .inf t => if s = t then .eq else if s then .lt else .gt
  | .inf s, _ => if s then .lt else .gt
  | _, .inf t => if t then .gt else .lt
  | _, _ => .eq

/-! ### Rounding -/

/-- Whether a magnitude that leaves remainder `r` of `d` above the lower candidate rounds up; `odd` says that the lower
candidate is the odd one (R43, R44). -/
def roundsUp (m : RMode) (neg odd : Bool) (r d : Nat) : Bool :=
  if r = 0 then false
  else
    match m with
    | .rne => decide (d < 2 * r) || (decide (2 * r = d) && odd)
    | .rna => decide (d ≤ 2 * r)
    | .rtz => false
    | .rup => !neg
    | .rdn => neg

/-- ⌊log2 (n / d)⌋ of a positive rational. -/
def floorLog2 (n d : Nat) : Int :=
  let g : Int := (n.log2 : Int) - (d.log2 : Int)
  if 0 ≤ g then (if d * 2 ^ g.toNat ≤ n then g else g - 1)
  else (if d ≤ n * 2 ^ (-g).toNat then g else g - 1)

/-- Fraction bits of FP32 and BF16, the implied one included. -/
def precOf (f : FFmt) : Nat :=
  match f with
  | .bf16 => 8
  | _ => 24

/-- The sign bit of a result of FP32 or BF16. -/
def signBit (f : FFmt) (s : Bool) : Word :=
  match f with
  | .fp32 => if s then 0x80000000 else 0
  | .bf16 => if s then 0x8000 else 0
  | .rn8 => if s then 0x80 else 0
  | .f4 => if s then 0x8 else 0

/-- An infinity of FP32 or BF16 (R32, R33). -/
def infBits (f : FFmt) (s : Bool) : Word :=
  signBit f s ||| (match f with | .bf16 => 0x7F80 | _ => 0x7F800000)

/-- The largest magnitude of a format with a sign (R32, R33, R36, R38). -/
def maxBits (f : FFmt) (s : Bool) : Word :=
  signBit f s ||| (match f with | .fp32 => 0x7F7FFFFF | .bf16 => 0x7F7F | .rn8 => 0x40 | .f4 => 0x7)

/-- A zero of a format: Ralnum-8 has no negative zero (R36). -/
def zeroBits (f : FFmt) (s : Bool) : Word :=
  match f with
  | .rn8 => 0
  | f => signBit f s

/-- NaN bits of FP32 in the width of a format (R34). -/
def nanBits (f : FFmt) (w : Word) : Word :=
  match f with
  | .bf16 => w >>> 16
  | _ => w

/-- RoundToFormat of a nonzero finite magnitude into FP32 or BF16 (R44). -/
def roundBin (f : FFmt) (m : RMode) (sat neg : Bool) (n d : Nat) : Rounded :=
  let p := precOf f
  let e := floorLog2 n d
  let k : Int := max e (-126) - (p - 1 : Nat)
  let num := if k < 0 then n * 2 ^ (-k).toNat else n
  let den := if k < 0 then d else d * 2 ^ k.toNat
  let lo := num / den
  let r := num % den
  let q := if roundsUp m neg (lo % 2 == 1) r den then lo + 1 else lo
  if 128 ≤ e ∨ (e = 127 ∧ q = 2 ^ p) then
    let toMax := m == .rtz || (m == .rup && neg) || (m == .rdn && !neg)
    if sat || toMax then
      ⟨maxBits f neg, evOF ||| evNX ||| (if sat && !toMax then evSAT else 0)⟩
    else ⟨infBits f neg, evOF ||| evNX⟩
  else
    let mag := (k + (p - 1 : Nat) + 126).toNat * 2 ^ (p - 1) + q
    let tiny := decide (n * 2 ^ 126 < d)
    ⟨signBit f neg ||| BitVec.ofNat 32 mag, if r = 0 then 0 else if tiny then evNX ||| evUF else evNX⟩

/-- The greatest rank at or below `n` whose magnitude is at most `u / w` units of 2^-11, 0 where none is. -/
def rankFloor (u w : Nat) : Nat := (rn8Ranks.takeWhile fun p => decide (rn8Units p * w ≤ u)).length

/-- The magnitude of a rank in units of 2^-11, 0 for rank 0. -/
def rankUnits (k : Nat) : Nat := if k = 0 then 0 else rn8Units (fromRankRn8 k)

/-- RoundToFormat of a nonzero finite magnitude into Ralnum-8 (R44): ties go to the even rank. -/
def roundRn8 (m : RMode) (neg : Bool) (n d : Nat) : Rounded :=
  if 2048 * d < n then ⟨maxBits .rn8 neg, evOF ||| evNX ||| evSAT⟩
  else
    let u := n * 2048
    let lo := rankFloor u d
    let gap := rankUnits (lo + 1) - rankUnits lo
    let r := u - rankUnits lo * d
    let k := if roundsUp m neg (lo % 2 == 1) r (gap * d) then lo + 1 else lo
    let bits := if k = 0 then 0 else signBit .rn8 neg ||| BitVec.ofNat 32 (fromRankRn8 k)
    ⟨bits, if r = 0 then 0 else if n * 2048 < d then evNX ||| evUF else evNX⟩

/-- RoundToFormat of a nonzero finite quotient into an F4 code (R44, R45): ties go to the even code. -/
def roundF4 (m : RMode) (neg : Bool) (n d : Nat) : Rounded :=
  if 3 * d < n then ⟨maxBits .f4 neg, evOF ||| evNX ||| evSAT⟩
  else
    let u := 4 * n
    let lo := ((List.range 8).takeWhile fun c => decide (f4Quarters c * d ≤ u)).length - 1
    let gap := f4Quarters (lo + 1) - f4Quarters lo
    let r := u - f4Quarters lo * d
    let c := if roundsUp m neg (lo % 2 == 1) r (gap * d) then lo + 1 else lo
    ⟨signBit .f4 neg ||| BitVec.ofNat 32 c, if r = 0 then 0 else if 4 * n < d then evNX ||| evUF else evNX⟩

/-- RoundToFormat of a finite value (R44). -/
def roundFin (f : FFmt) (m : RMode) (sat neg : Bool) (n d : Nat) : Rounded :=
  if n = 0 then ⟨zeroBits f neg, 0⟩
  else
    match f with
    | .fp32 => roundBin .fp32 m sat neg n d
    | .bf16 => roundBin .bf16 m sat neg n d
    | .rn8 => roundRn8 m neg n d
    | .f4 => roundF4 m neg n d

/-- RoundToFormat with the special values of a conversion (R44, R45). -/
def roundConv (f : FFmt) (m : RMode) (sat : Bool) (v : FVal) : Rounded :=
  match v with
  | .fin s n d => roundFin f m sat s n d
  | .inf s =>
    match f with
    | .rn8 => ⟨0x80, evNV⟩
    | .f4 => ⟨maxBits .f4 s, evOF ||| evSAT ||| evNX⟩
    | f => if sat then ⟨maxBits f s, evOF ||| evSAT ||| evNX⟩ else ⟨infBits f s, 0⟩
  | .nan b =>
    match f with
    | .rn8 => ⟨0x80, if isSigBits b then evNV else 0⟩
    | .f4 => ⟨0, evNV⟩
    | f => ⟨nanBits f (quietBits b), if isSigBits b then evNV else 0⟩
  | .nar =>
    match f with
    | .rn8 => ⟨0x80, 0⟩
    | .f4 => ⟨0, evNV⟩
    | f => ⟨nanBits f defaultNaN, 0⟩

/-- Rounding of an arithmetic result: an infinite exact result is delivered as it is, without an event (R45). -/
def roundArith (f : FFmt) (m : RMode) (sat : Bool) (v : FVal) : Rounded :=
  match v with
  | .fin s n d => roundFin f m sat s n d
  | .inf s => ⟨infBits f s, 0⟩
  | .nan b => ⟨nanBits f b, 0⟩
  | .nar => ⟨0x80, 0⟩

/-- The result of an invalid operation: NaR, or the default NaN, with NV (R34, R95). -/
def invalidOf (f : FFmt) : Rounded :=
  match f with
  | .rn8 => ⟨0x80, evNV⟩
  | f => ⟨nanBits f defaultNaN, evNV⟩

/-- The result of a formed exact value, or of an invalid operation. -/
def roundOpt (f : FFmt) (m : RMode) (sat : Bool) (v : Option FVal) : Rounded :=
  match v with
  | some v => roundArith f m sat v
  | none => invalidOf f

/-- NaN handling in front of an operation on `xs` with result format `f` (R34, R95, R98): a NaN result where an operand is
a NaN or NaR, else `k`. -/
def nanFirst (f : FFmt) (xs : List FVal) (k : Rounded) : Rounded :=
  match f with
  | .rn8 => if xs.any FVal.isNaN then ⟨0x80, 0⟩ else k
  | f =>
    match propagateNaN (xs.map FVal.narAsNaN) with
    | some (b, ev) => ⟨nanBits f b, ev⟩
    | none => k

/-! ### Integers -/

/-- The integer of a finite value in a rounding mode (R45): nearest integer, ties as R43. -/
def roundToInt (m : RMode) (neg : Bool) (n d : Nat) : Int :=
  let lo := n / d
  let q := if roundsUp m neg (lo % 2 == 1) (n % d) d then lo + 1 else lo
  signed neg q

/-- The integer indefinite value of a width (R41). -/
def indefinite (w : Nat) : Word := BitVec.ofNat 32 (2 ^ (w - 1))

/-- Least integer of a width. -/
def intLo (w : Nat) (uns : Bool) : Int := if uns then 0 else -(2 ^ (w - 1) : Int)

/-- Greatest integer of a width. -/
def intHi (w : Nat) (uns : Bool) : Int := if uns then (2 ^ w : Int) - 1 else (2 ^ (w - 1) : Int) - 1

/-- An integer as the low `w` bits of a word. -/
def wordOfInt (w : Nat) (v : Int) : Word := BitVec.ofNat 32 ((v % (2 ^ w : Int)).toNat)

/-- A value converted to an integer of width `w` (R44, R45). -/
def convToInt (w : Nat) (uns : Bool) (m : RMode) (sat : Bool) (v : FVal) : Rounded :=
  match v with
  | .fin s n d =>
    let i := roundToInt m s n d
    if i < intLo w uns then (if sat then ⟨wordOfInt w (intLo w uns), evSAT ||| evNX⟩ else ⟨indefinite w, evNV⟩)
    else if intHi w uns < i then (if sat then ⟨wordOfInt w (intHi w uns), evSAT ||| evNX⟩ else ⟨indefinite w, evNV⟩)
    else ⟨wordOfInt w i, if n % d = 0 then 0 else evNX⟩
  | .inf s =>
    if sat then ⟨wordOfInt w (if s then intLo w uns else intHi w uns), evSAT⟩ else ⟨indefinite w, evNV⟩
  | _ => if sat then ⟨0, evNV⟩ else ⟨indefinite w, evNV⟩

/-- An integer as an exact value. -/
def FVal.ofInt (i : Int) : FVal := .fin (decide (i < 0)) i.natAbs 1

/-- Fit of R73: wrap modulo 2^w, or clamp with SAT where the variant saturates (R41). -/
def fit (v : Int) (w : Nat) (sat uns : Bool) : Nat × Byte :=
  if sat then
    if v < intLo w uns then (((intLo w uns) % (2 ^ w : Int)).toNat, evSAT)
    else if intHi w uns < v then (((intHi w uns) % (2 ^ w : Int)).toNat, evSAT)
    else ((v % (2 ^ w : Int)).toNat, 0)
  else ((v % (2 ^ w : Int)).toNat, 0)

/-! ### Functions -/

/-- The integer square root below 2^(n), bit by bit. -/
def isqrtFrom (x : Nat) : Nat → Nat → Nat
  | 0, r => r
  | i + 1, r => isqrtFrom x i (if (r + 2 ^ i) * (r + 2 ^ i) ≤ x then r + 2 ^ i else r)

/-- A value known to lie in [s, s + 1) / 2^k, told apart from its lower end unless it is exact: it rounds as the value
does whenever `s` has two bits more than the destination. -/
def sticky (s k : Nat) (exact : Bool) : FVal :=
  if exact then .fin false s (2 ^ k) else .fin false (2 * s + 1) (2 ^ (k + 1))

/-- 1/√(n/d) (R106), to a hundred binary places with the exactness kept. -/
def rsqrtVal (n d : Nat) : FVal :=
  let x := d * 4 ^ 100 / n
  let s := isqrtFrom x 180 0
  sticky s 100 (s * s * n == d * 4 ^ 100)

/-- Binary places of the fixed-point functions. -/
def fixBits : Nat := 340

/-- ln 2 in units of 2^-340: the sum of 1 / (k·2^k). -/
def ln2Fix : Nat → Nat
  | 0 => 0
  | k + 1 => 2 ^ (fixBits + 20) / ((k + 1) * 2 ^ (k + 1)) + ln2Fix k

/-- The terms of the exponential series of `x`, in fixed point, from term `k` on. -/
def expTerms (x : Int) : Nat → Nat → Int → Int
  | 0, _, _ => 0
  | f + 1, k, t => t + expTerms x f (k + 1) (t * x / (((k + 1 : Nat) : Int) * 2 ^ fixBits))

/-- 2^a for a = ±n/d with |a| ≤ 1 (R106), in fixed point; exact for a whole exponent. -/
def exp2Val (s : Bool) (n d : Nat) : FVal :=
  if n = 0 then .fin false 1 1
  else if n % d = 0 then (if s then .fin false 1 2 else .fin false 2 1)
  else
    let l := (ln2Fix 370) / 2 ^ 20
    let x : Int := signed s (n * l / d)
    .fin false (expTerms x 90 0 (2 ^ fixBits)).natAbs (2 ^ fixBits)

/-- The terms of the series of the inverse hyperbolic tangent, in fixed point. -/
def atanhTerms (z2 : Int) : Nat → Nat → Int → Int
  | 0, _, _ => 0
  | f + 1, k, t => t / ((2 * k + 1 : Nat) : Int) + atanhTerms z2 f (k + 1) (t * z2 / 2 ^ fixBits)

/-- log2 (n/d) for 1/2 ≤ n/d ≤ 2 (R106), in fixed point; exact for the powers of two. -/
def log2Val (n d : Nat) : FVal :=
  if n = d then .fin false 0 1
  else if n = 2 * d then .fin false 1 1
  else if 2 * n = d then .fin true 1 1
  else
    let z : Int := (((n : Int) - d) * 2 ^ fixBits) / ((n : Int) + d)
    let l := 2 * atanhTerms (z * z / 2 ^ fixBits) 120 0 z
    .fin (decide (l < 0)) l.natAbs ((ln2Fix 370) / 2 ^ 20)

/-- The greater or lesser of two operands, returned unchanged (R100): −0 is less than +0, and a wins a tie. -/
def pickVal (greater : Bool) (a b : FVal) : Bool :=
  match cmpVal a b with
  | .lt => !greater
  | .gt => greater
  | .eq => if a.sign = b.sign then true else if greater then !a.sign else a.sign

end Sys2Proof.Machine
end

