-- ==== Sys2Proof/Config.lean ====
section
/-!
DEFINITION. What the spec leaves open. Every constant here has no body that a proof could use: it is opaque, so a theorem of
the model holds whatever its value is.
-/
namespace Sys2Proof.Config

/-- A choice of the device that the spec leaves open (which free regions a load takes, which ready transfer goes first, in which
cycle an access completes), by the value of the counter of free values (R148, R225, R285, R343, R422). (DESIGN CHOICE, log entries 6, 25) -/
opaque choice : Nat → Nat
/-- Whether a route between two regions of a stack goes on by a row, and not by a column, from a region on its way: the spec gives the
distance alone (R142). (DESIGN CHOICE, log entry 135) -/
opaque rowFirst : Nat → Nat → Nat → Bool
/-- What a byte of host memory holds that the device has not written (R313, KIND 5). (DESIGN CHOICE, log entry 11) -/
opaque hostByte : Nat → Byte
/-- The silicon revision of HUB_ID (R393). (DESIGN CHOICE, log entry 10) -/
opaque hubRev : Half
/-- The firmware image that the part is delivered with (R417). (DESIGN CHOICE, log entry 10) -/
opaque firmwareImage : List Byte
/-- Whether a firmware image is well formed (R417, R418), by its bytes. (DESIGN CHOICE, log entry 10) -/
opaque imageFormed : List Byte → Bool
/-- Whether the Ed25519 signature of an image verifies (R417). (DESIGN CHOICE, log entry 10) -/
opaque imageEd25519 : List Byte → Bool
/-- Whether the ML-DSA-65 signature of an image verifies (R417). (DESIGN CHOICE, log entry 10) -/
opaque imageMlDsa : List Byte → Bool
/-- The version that FW_STAT shows of an image (R414). (DESIGN CHOICE, log entry 10) -/
opaque imageVersion : List Byte → Nat
/-- The security version of an image (R417). (DESIGN CHOICE, log entry 10) -/
opaque imageSecurity : List Byte → Nat
/-- The fused floor of the security version (R417). (DESIGN CHOICE, log entry 10) -/
opaque fusedFloor : Nat
/-- The SHA-384 measurement of an image (R419). (DESIGN CHOICE, log entry 10) -/
opaque measurement : List Byte → List Byte
/-- A byte of a signed attestation report (R419), by the HUB_ID, the measurement and security version of the running image, the nonce, and the
byte's place. (DESIGN CHOICE, log entry 10) -/
opaque attestByte : BitVec 64 → List Byte → Nat → List Byte → Nat → Byte
/-- The length of an attestation report (R419). (DESIGN CHOICE, log entry 10) -/
opaque attestLength : Nat
/-- A word of a bridge flit as the retry buffer shows it (R381, R420), whose layout the spec leaves open: by the flit's sequence number,
the words that it carries and the word's place. (DESIGN CHOICE, log entry 10) -/
opaque flitWord : Nat → List (BitVec 32) → Nat → BitVec 64
/-- The first word of a valid entry in the readback, which holds 'valid' and a task or a sequence number in places that the spec leaves
open (R420). (DESIGN CHOICE, log entry 112) -/
opaque headWord : Nat → BitVec 64
/-- The compare outcome of PREG in a lane (R91 states none), by the lane's predicates. (DESIGN CHOICE, log entry 17) -/
opaque pregOutcome : Byte → Bool
/-- The temperature that a stack reports before anything outside has set it (R414), by stack. (DESIGN CHOICE, log entry 10) -/
opaque temperature : Nat → Nat

end Sys2Proof.Config
end

