-- ==== Sys2Proof/Syntax.lean ====
section
/-!
DEFINITION. The syntax of the machine: one constructor of `Instr` for every row of the table of operations and events.
A slot instruction carries the fields of its 128-bit slot other than the opcode (R15, R54), a configuration command its
operands (R60), a praline block its header (R358), and an event the names of the unit it acts at.
-/
namespace Sys2Proof

/-- A token: its header fields (R8) and eight lanes of data. The reserved header bits are zero in every token the device
produces and are ignored on receipt, so no field holds them. -/
structure Token where
  seq   : BitVec 12
  vmask : Byte
  fmt   : BitVec 3
  kind  : BitVec 3
  lvl   : BitVec 3
  lanes : Oct Word
deriving DecidableEq, Repr

/-- The fields of a slot other than its opcode: the trigger of R15, high bits first, then the operation of R54 and the
modifier of R56. Reserved trigger bits are fields, so that no bit of a slot is lost. -/
structure Fields where
  pm : BitVec 8
  pv : BitVec 8
  q : BitVec 1
  aEn : BitVec 1
  aCh : BitVec 2
  aKind : BitVec 3
  aFchk : BitVec 1
  aFmt : BitVec 3
  bEn : BitVec 1
  bCh : BitVec 2
  bKind : BitVec 3
  bFchk : BitVec 1
  bFmt : BitVec 3
  rsv90 : BitVec 1
  room : BitVec 4
  schk : BitVec 1
  slvl : BitVec 3
  rsv80 : BitVec 2
  dst : BitVec 6
  sa : BitVec 6
  sb : BitVec 6
  sc : BitVec 6
  deq : BitVec 4
  okind : BitVec 3
  olvl : BitVec 3
  pue : BitVec 1
  pidx : BitVec 3
  pmode : BitVec 2
  imm : BitVec 16
  rnd : BitVec 3
  sat : BitVec 1
  efmt : BitVec 3
  uns : BitVec 1
  w64 : BitVec 1
  cc : BitVec 4
  var : BitVec 3
deriving DecidableEq, Repr

/-- The fields of a praline block's header other than its opcode (R358), high bits first. -/
structure BlockHdr where
  crc : BitVec 16
  rsv104 : BitVec 8
  scale : BitVec 8
  metaOff : BitVec 16
  len : BitVec 8
  rsv71 : BitVec 1
  abs : BitVec 1
  sparse : BitVec 1
  rsv68 : BitVec 1
  fmt : BitVec 4
  link : BitVec 40
  route : BitVec 16
deriving DecidableEq, Repr

/-- Whose a flit of a reserved stream is (R379): the load, and the port, sequencer or engine channel with the number of its access or copy;
`back` marks an answer. -/
structure Sender where
  load : Nat
  reg  : Nat
  elem : Nat
  id   : Nat
  back : Bool
deriving DecidableEq, Repr

/-- A flit on a bridge (R379, R380, R381): its sequence number, whether its CRC-32 is right on arrival, its stream, the partition whose
allowance it takes, the stack it goes to (4 for the hub die), and what it carries: the tokens of a route, each with the region, element and
input channel it is bound for, or the bytes of an access or copy and whose they are. -/
structure BridgeFlit where
  fseq   : BitVec 12
  crcOk  : Bool
  stream : Byte
  part   : BitVec 4
  dest   : Nat
  toks   : List (Nat × Nat × Nat × Token)
  who    : Option Sender
  data   : List Byte
deriving DecidableEq, Repr

/-- One constructor per row of the table of operations and events. -/
inductive Instr where
  /-- R74. Dequeues the channels of its DEQ mask and does nothing else. -/
  | nop (f : Fields)
  /-- R75. Forwards the head token of Ik to Oc, optionally masked or with a new kind and level. -/
  | pass (f : Fields)
  /-- R76. Pushes a new STOP, DONE, CTRL or REQ token built from source a on Oc. -/
  | emit (f : Fields)
  /-- R77. Pushes the head of Ik on Oc with its fmt replaced by EFMT, changing no bit of data. -/
  | tagset (f : Fields)
  /-- R78. Writes output sequence counter SEQOc from source a in the lowest lane of E. -/
  | seqset (f : Fields)
  /-- R78. Writes SEQOc, zero-extended, to the destination in the lanes of E. -/
  | seqget (f : Fields)
  /-- R79. Pushes a REQ token carrying an unsigned token count on Oc. -/
  | demand (f : Fields)
  /-- R80. Writes the header of Ik's head token to the destination and dequeues it. -/
  | drop (f : Fields)
  /-- R81. Steers the head of Ik unchanged to one of two outputs according to predicate pk. -/
  | fwdsel (f : Fields)
  /-- R83. Integer addition per element, wrapping or saturating. -/
  | add (f : Fields)
  /-- R83. Integer subtraction per element, wrapping or saturating. -/
  | sub (f : Fields)
  /-- R83. Integer multiplication per element, low result, wrapping or saturating. -/
  | mul (f : Fields)
  /-- R83. High half of the signed integer product per element. -/
  | mulh (f : Fields)
  /-- R83. High half of the unsigned integer product per element. -/
  | mulhu (f : Fields)
  /-- R83. Integer multiply-add formed exactly, then wrapped or clamped once. -/
  | mad (f : Fields)
  /-- R83. Integer absolute value per element. -/
  | abs (f : Fields)
  /-- R83. Integer negation per element. -/
  | neg (f : Fields)
  /-- R83. Signed integer minimum per element. -/
  | min (f : Fields)
  /-- R83. Signed integer maximum per element. -/
  | max (f : Fields)
  /-- R83. Unsigned integer minimum per element. -/
  | minu (f : Fields)
  /-- R83. Unsigned integer maximum per element. -/
  | maxu (f : Fields)
  /-- R83. Bitwise AND. -/
  | and (f : Fields)
  /-- R83. Bitwise OR. -/
  | or (f : Fields)
  /-- R83. Bitwise XOR. -/
  | xor (f : Fields)
  /-- R83. Bitwise a AND NOT b. -/
  | andn (f : Fields)
  /-- R83. Shift left by a per-element count. -/
  | shl (f : Fields)
  /-- R83. Logical shift right by a per-element count. -/
  | shr (f : Fields)
  /-- R83. Arithmetic shift right by a per-element count. -/
  | sar (f : Fields)
  /-- R83. Rotate left by a per-element count. -/
  | rot (f : Fields)
  /-- R83. Counts leading zero bits per element. -/
  | clz (f : Fields)
  /-- R83. Counts set bits per element. -/
  | popc (f : Fields)
  /-- R83. Reverses the bit order of each element. -/
  | brev (f : Fields)
  /-- R85. Extracts a bit field, sign- or zero-extended. -/
  | bfx (f : Fields)
  /-- R85. Inserts the low bits of a into a field of b. -/
  | bfi (f : Fields)
  /-- R83. Selects a where c is nonzero, else b. -/
  | sel (f : Fields)
  /-- R84. Integer compare under a condition code, with a compare outcome. -/
  | cmp (f : Fields)
  /-- R84. Tests a AND b for zero or nonzero, with a compare outcome. -/
  | test (f : Fields)
  /-- R83. Copies source a bit for bit to the destination. -/
  | mov (f : Fields)
  /-- R86. Writes the 16-bit immediate, sign- or zero-extended. -/
  | movi (f : Fields)
  /-- R86. Writes the immediate into the high half over the low half of a. -/
  | movh (f : Fields)
  /-- R87. Forms a + b·2^K + displacement as an offset or 64-bit address. -/
  | addr (f : Fields)
  /-- R88. Forms a·n + b, optionally bounds-checked against n. -/
  | idx2 (f : Fields)
  /-- R90. Writes the AND of two predicates, optionally inverted, to pm. -/
  | pand (f : Fields)
  /-- R90. Writes the OR of two predicates to pm. -/
  | por (f : Fields)
  /-- R90. Writes the XOR of two predicates to pm. -/
  | pxor (f : Fields)
  /-- R90. Writes the inverse of a predicate to pm. -/
  | pnot (f : Fields)
  /-- R90. Copies a predicate to pm. -/
  | pmov (f : Fields)
  /-- R91. Writes each lane's eight predicates to the destination. -/
  | preg (f : Fields)
  /-- R91. Writes all eight predicates of each lane of E from source a. -/
  | pregSet (f : Fields)
  /-- R92. Broadcasts lane k of a to the lanes of E. -/
  | bcast (f : Fields)
  /-- R92. Permutes lanes of a by the indices in b. -/
  | perm (f : Fields)
  /-- R92. Rotates, shifts, interleaves or separates lanes by one of eight forms. -/
  | shuf (f : Fields)
  /-- R93. Reduces a over the lanes of E and writes the result to every lane of E. -/
  | lred (f : Fields)
  /-- R93. Writes the inclusive or exclusive prefix combination of a over the lanes of E. -/
  | lscan (f : Fields)
  /-- R94. Counts lanes of E with pk set, or ranks them. -/
  | pcount (f : Fields)
  /-- R94. Writes the lowest lane of E with pk set, or 8. -/
  | first (f : Fields)
  /-- R98. Floating addition rounded once. -/
  | fadd (f : Fields)
  /-- R98. Floating subtraction rounded once. -/
  | fsub (f : Fields)
  /-- R98. Floating multiplication rounded once. -/
  | fmul (f : Fields)
  /-- R98. Fused a·b + c rounded once. -/
  | fma (f : Fields)
  /-- R98. Fused c − a·b rounded once. -/
  | fnma (f : Fields)
  /-- R98. Fused triple product a·b·c plus the destination's old value, rounded once. -/
  | fma3 (f : Fields)
  /-- R100. Returns the lesser floating operand unchanged. -/
  | fmin (f : Fields)
  /-- R100. Returns the greater floating operand unchanged. -/
  | fmax (f : Fields)
  /-- R101. Clears the sign of each element. -/
  | fabs (f : Fields)
  /-- R101. Inverts the sign of each element. -/
  | fneg (f : Fields)
  /-- R102. Floating compare under a condition code, with a compare outcome. -/
  | fcmp (f : Fields)
  /-- R103. Tests each element's class against a mask. -/
  | fclass (f : Fields)
  /-- R105. Rounds each element to an integral value of its format. -/
  | frint (f : Fields)
  /-- R105. Converts floating elements to integers of their width. -/
  | ftoi (f : Fields)
  /-- R105. Converts integer elements to FP32 or BF16. -/
  | itof (f : Fields)
  /-- R106. Correctly rounded reciprocal. -/
  | frcp (f : Fields)
  /-- R106. Correctly rounded reciprocal square root. -/
  | frsq (f : Fields)
  /-- R106. Correctly rounded 2^a on [−1, 1]. -/
  | fexpf (f : Fields)
  /-- R106. Correctly rounded log2 a on [0.5, 2]. -/
  | flogf (f : Fields)
  /-- R107. Computes a·2^b with one rounding. -/
  | fexpins (f : Fields)
  /-- R107. Writes the binary exponent of a as an integer. -/
  | fexpext (f : Fields)
  /-- R107. Writes the significand of a scaled into [1, 2). -/
  | fmant (f : Fields)
  /-- R104. BF16 two-term dot product accumulated into FP32 with one rounding. -/
  | fdot2 (f : Fields)
  /-- R104. Ralnum-8 four-term dot product accumulated into FP32 with one rounding. -/
  | fdot4 (f : Fields)
  /-- R104. Two BF16 triple products accumulated into FP32 with one rounding. -/
  | ftri (f : Fields)
  /-- R110. Converts element for element between formats of equal element count. -/
  | cvt (f : Fields)
  /-- R111. Narrows two sources into one destination. -/
  | pack (f : Fields)
  /-- R112. Widens selected elements of a exactly. -/
  | unpk (f : Fields)
  /-- R113. Chooses a Ralnum-8 group scale from the greatest magnitude over E. -/
  | gscale (f : Fields)
  /-- R114. Quantizes eight FP32 lanes into F4 lane p of a register. -/
  | qscale (f : Fields)
  /-- R115. Converts with forced saturation and pushes an overflow notice on a second output. -/
  | cvtov (f : Fields)
  /-- R169. Turns range tokens into index tokens, one step per firing. -/
  | scan (f : Fields)
  /-- R170. One comparison step of the intersection of two aligned coordinate streams. -/
  | intsc (f : Fields)
  /-- R170. One comparison step of the union of two aligned coordinate streams. -/
  | union (f : Fields)
  /-- R170. One comparison step of the left join of two aligned coordinate streams. -/
  | join (f : Fields)
  /-- R171. Repeats a value along a reference fiber, one step per firing. -/
  | rept (f : Fields)
  /-- R172. Reduces each fiber of level j into a register, one token per firing. -/
  | reds (f : Fields)
  /-- R173. Drops outer coordinates whose inner fibers are empty, one step per firing. -/
  | crddrop (f : Fields)
  /-- R174. Lowers stop levels of a stream by k. -/
  | stoplvLower (f : Fields)
  /-- R174. Wraps each DATA token in a level-0 fiber of its own. -/
  | stoplvWrap (f : Fields)
  /-- R175. Advances two or three streams at a matched rate with a kind check. -/
  | zip (f : Fields)
  /-- R176. Forwards a head token after checking it against the channel's grammar tracker. -/
  | gchk (f : Fields)
  /-- R176. Resets a channel's grammar tracker to start of stream. -/
  | gchkArm (f : Fields)
  /-- R177. Inserts one candidate into each lane's best-k select list. -/
  | selk (f : Fields)
  /-- R178. Pops the best entry of each lane's list onto score and index outputs. -/
  | selo (f : Fields)
  /-- R178. Empties the select lists of the lanes of E. -/
  | seloClr (f : Fields)
  /-- R179. Stable sort of keys across the lanes of E. -/
  | sort8 (f : Fields)
  /-- R180. One phase of expanding an F4 line into dense F4 tokens and scales. -/
  | decomp (f : Fields)
  /-- R181. One phase of packing F4 pairs into a line of four tokens. -/
  | comp (f : Fields)
  /-- R182. One phase of transposing an 8×8 block of words. -/
  | transp (f : Fields)
  /-- R402. Merges enabled input streams by ascending seq, optionally summing equal seqs. -/
  | mrg (f : Fields)
  /-- R400. Sends a row and its key left or right by one bit of the key's path. -/
  | steer (f : Fields)
  /-- R401. Copies a row onto every output named by its key's posy. -/
  | fanout (f : Fields)
  /-- R404. Selects the best k lane groups by score. -/
  | gsel (f : Fields)
  /-- R203. Puts the region into matrix mode and zeroes stationary storage. -/
  | mmodeOn (f : Fields)
  /-- R203. Returns an idle matrix region to stream mode. -/
  | mmodeOff (f : Fields)
  /-- R204. Starts loading n stationary storage tokens from the west feeds. -/
  | wload (f : Fields)
  /-- R205. Arms a storage quarter for a row-store landing and clears its loaded bit. -/
  | wrow (f : Fields)
  /-- R206. Zeroes accumulator tiles t to t+n−1. -/
  | accz (f : Fields)
  /-- R207. Starts draining accumulator tiles to the south edge. -/
  | accrd (f : Fields)
  /-- R208. Writes a descriptor constant C24–C31, whole or by half. -/
  | idxset (f : Fields)
  /-- R209. Captures the descriptor and starts a triple contraction of shape K64N32. -/
  | tconK64n32 (f : Fields)
  /-- R209. Captures the descriptor and starts a triple contraction of shape K32N64. -/
  | tconK32n64 (f : Fields)
  /-- R209. Captures the descriptor and starts a triple contraction of shape K128N16. -/
  | tconK128n16 (f : Fields)
  /-- R209. Captures the descriptor and starts a triple contraction of shape K16N128. -/
  | tconK16n128 (f : Fields)
  /-- R209. Captures the descriptor and starts a triple contraction of shape K256N8. -/
  | tconK256n8 (f : Fields)
  /-- R209. Captures the descriptor and starts a triple contraction of shape K8N256. -/
  | tconK8n256 (f : Fields)
  /-- R209. Captures the descriptor and starts a two-bank triple contraction of shape K64N16X. -/
  | tconK64n16x (f : Fields)
  /-- R209. Captures the descriptor and starts a two-bank triple contraction of shape K32N32X. -/
  | tconK32n32x (f : Fields)
  /-- R227. Issues a load of elements or a token from scratchpad or global memory. -/
  | ld (f : Fields)
  /-- R227. Issues a store of elements or a token. -/
  | st (f : Fields)
  /-- R227. Issues a synchronising load that waits for full and may empty the words. -/
  | lds (f : Fields)
  /-- R227. Issues a store that sets the words full. -/
  | stf (f : Fields)
  /-- R227. Issues a clear of the full/empty bits of the addressed words. -/
  | sete (f : Fields)
  /-- R229. Starts the port's address generator as a source stream. -/
  | agsrc (f : Fields)
  /-- R229. Starts the port's address generator as a sink of a designated stream. -/
  | agsnk (f : Fields)
  /-- R230. Starts a gather stream over a designated address stream. -/
  | gath (f : Fields)
  /-- R230. Starts a scatter stream over designated address and data streams. -/
  | scat (f : Fields)
  /-- R231. Issues a wait until a masked word satisfies a condition. -/
  | waita (f : Fields)
  /-- R232. Issues an indivisible read-modify-write per address slot. -/
  | atom (f : Fields)
  /-- R234. Starts a whole-row vector add atomic, taking its body tokens. -/
  | vradd (f : Fields)
  /-- R234. Starts a whole-row vector max atomic, taking its body tokens. -/
  | vrmax (f : Fields)
  /-- R235. Issues a read of a row slot's latest applied state at its home. -/
  | ldrow (f : Fields)
  /-- R236. Issues a fence whose CMPL follows completion of the port's earlier accesses at a scope. -/
  | fence (f : Fields)
  /-- R237. Stores a template index to a transfer-aperture START word to start a copy. -/
  | bxstart (f : Fields)
  /-- R238. Starts a stream of weight-store tokens. -/
  | wsrd (f : Fields)
  /-- R238. Writes the weight-store phase counter to the destination. -/
  | wsph (f : Fields)
  /-- R250. Queues an ACT that opens a row and holds its bank. -/
  | rowact (f : Fields)
  /-- R251. Queues consumption of the open row into the oldest armed stationary quarter. -/
  | rowconSt (f : Fields)
  /-- R251. Queues consumption of the open row into a latch streamed on Oc. -/
  | rowconStr (f : Fields)
  /-- R251. Queues consumption of the open row into the region's weight store. -/
  | rowconWs (f : Fields)
  /-- R252. Queues a whole-row write and starts taking its 32 body tokens. -/
  | rowwr (f : Fields)
  /-- R253. Queues the closing of a held bank. -/
  | rowpre (f : Fields)
  /-- R254. Writes holding-table, timing or entry status, optionally clearing. -/
  | rowstat (f : Fields)
  /-- R326. Marks a phase boundary whose commit publishes the task's version. -/
  | phase (f : Fields)
  /-- R327. Marks a phase boundary and ends the task. -/
  | tend (f : Fields)
  /-- R328. Marks a phase boundary that releases dependent graphs on the first TRIG. -/
  | trig (f : Fields)
  /-- R349. Marks a phase boundary that appends a child packet to a device queue. -/
  | launch (f : Fields)
  /-- R329. Raises a TRAP fault with a code and operand, stopping the task. -/
  | trap (f : Fields)
  /-- R330. Breakpoint that stops the load resumably when BRKEN is set. -/
  | brk (f : Fields)
  /-- R350. Pre-emption point that stops a matrix region with a pending request, keeping only live tiles. -/
  | prept (f : Fields)
  /-- R351. Reads a device register at a BAR0 offset into a token. -/
  | sysrd (f : Fields)
  /-- R351. Writes a device register at a BAR0 offset. -/
  | syswr (f : Fields)
  /-- R357. Enters weight-driven mode at a praline chain address. -/
  | wdenter (f : Fields)
  /-- R354. Sets HALTED and stops the element from firing. -/
  | halt (f : Fields)
  /-- R352. Reads a selected counter, optionally clearing it. -/
  | cntrd (f : Fields)
  /-- R353. Copies n templates from memory into the partition's template table. -/
  | cfgld (f : Fields)
  /-- R63. Opens a page with a shadow from the current or reset configuration. -/
  | pgbegin (v : Half)
  /-- R63. Starts recording pattern k. -/
  | patbegin (v : Half)
  /-- R63. Ends the recording of a pattern. -/
  | patend (v : Half)
  /-- R65. Checks the running CRC-16 of the page against the expected value. -/
  | crc (v : Half)
  /-- R63. Gives the low half of the successor link. -/
  | succlo (v : Half)
  /-- R63. Gives the high half of the successor link. -/
  | succhi (v : Half)
  /-- R64. Verifies the page as a whole and commits it to shadow or discards it. -/
  | pgend (v : Half)
  /-- R63. Applies pattern k to a rectangle of compute elements. -/
  | rect (k : BitVec 4) (v : Half)
  /-- R61. Writes a slot half-word, route word, configuration word or constant half into the page shadow. -/
  | elementFieldWrite (e : Byte) (fld : Byte) (v : Half)
  /-- R66. Sets the state-window select value. -/
  | wsel (e : Byte) (v : Half)
  /-- R66. Sets the low half of the state-window write word. -/
  | wlo (e : Byte) (v : Half)
  /-- R66. Sets the high half of the state-window write word. -/
  | whi (e : Byte) (v : Half)
  /-- R66. Window control with no operation, optionally incrementing WSEL. -/
  | wctlNone (e : Byte) (v : Half)
  /-- R66. Writes the selected state word of a non-running element. -/
  | wctlWrite (e : Byte) (v : Half)
  /-- R66. Reads the selected state word back to the issuing agent. -/
  | wctlRead (e : Byte) (v : Half)
  /-- R142. A token leaves an output channel once every destination of its route has room. -/
  | tokenDepart (r e c : Nat)
  /-- R12. A routed token reaches an input queue after the route latency. -/
  | tokenArrival (r e k : Nat)
  /-- R47. A CTRL token at the head of the side channel writes CONV and is dequeued. -/
  | sidePortCtrl (r e : Nat)
  /-- R146. A REQ token at the head of a REQS channel adds its count to a demand credit. -/
  | reqAbsorb (r e k : Nat)
  /-- R148. The pager places a waiting fabric load once enough regions are free. -/
  | loadPlacement (ld : Nat)
  /-- R148. All committed pages of a load take effect together and element state is initialised. -/
  | loadActivation (ld : Nat)
  /-- R151. Block-transfer engines copy a preload entry into a page's scratchpad. -/
  | preloadCopy (ld i : Nat)
  /-- R150. A tile starts as a new task by pushing its argument token into every ARG channel. -/
  | tileStart (ld : Nat)
  /-- R152. A load completes after its last tile commits, discarding tokens and releasing regions. -/
  | loadComplete (ld : Nat)
  /-- R334. The device reads and starts a launch packet, starting its graph. -/
  | packetStart (q k : Nat)
  /-- R334. A packet's graph completes or is abandoned and its STATUS and PROG are updated. -/
  | packetFinish (q k : Nat)
  /-- R335. After the first TRIG commit publishes, the next NREL packets are released. -/
  | trigRelease (q k : Nat)
  /-- R349. After LAUNCH's commit publishes and the queue has room, the hub appends the packet. -/
  | launchAppend (n : Nat)
  /-- R263. A phase boundary's version commit takes its CSN and is published once its stores complete. -/
  | commitPublish (ld : Nat)
  /-- R224. An issued access completes and pushes its result or CMPL token. -/
  | accessComplete (r e id : Nat)
  /-- R228. A parked LDS or WAITA is re-evaluated when its word or full bit changes. -/
  | parkedWake (r e id : Nat)
  /-- R315. A page-table walk ends, translating an access or raising its fault. -/
  | translationWalk (r e id : Nat)
  /-- R232. A global atomic is performed at its home slice in sequence order. -/
  | homeAtomic (r e id : Nat)
  /-- R229. The address generator loads and pushes its next token, stop or DONE. -/
  | agsrcPush (r e : Nat)
  /-- R229. The sink takes its next token from the designated stream and stores it. -/
  | agsnkTake (r e : Nat)
  /-- R229. A sink or scatter pushes its CMPL once all its stores have completed. -/
  | streamCmpl (r e : Nat)
  /-- R230. The gather engine takes one address token and issues its loads. -/
  | gathStep (r e : Nat)
  /-- R230. The scatter engine takes one address and one data token and issues its stores. -/
  | scatStep (r e : Nat)
  /-- R234. VRADD or VRMAX takes its next body token. -/
  | rowBodyTake (r e : Nat)
  /-- R234. The home applies an accepted row update and increments the slot version. -/
  | rowUpdateApply (n : Nat)
  /-- R235. The home reads the row slot and counts stale reads. -/
  | ldrowPerform (r e id : Nat)
  /-- R238. The weight-store stream pushes its next token or DONE. -/
  | wsrdPush (r e : Nat)
  /-- R244. The row unit issues its oldest queued operation once windows and budgets allow. -/
  | rowOpIssue (r : Nat)
  /-- R245. An issued row command acts at its bank, with its hazard checks. -/
  | rowBankAct (r : Nat)
  /-- R245. The controller closes a row open for 65,536 cycles and marks its entry expired. -/
  | rowOpenExpiry (r h : Nat)
  /-- R251. A row latch pushes its next token on Oc as room allows. -/
  | rowconStrPush (r h : Nat)
  /-- R252. ROWWR takes its next body token. -/
  | rowwrBodyTake (r : Nat)
  /-- R196. The array takes a step once all its feed tokens are at their heads. -/
  | tconStepTake (r : Nat)
  /-- R196. A step's output words are written 24 cycles after it was taken. -/
  | tconStepWrite (r : Nat)
  /-- R204. WLOAD takes a group of eight tokens and writes them to storage. -/
  | wloadGroupTake (r : Nat)
  /-- R207. Each south O3 with room takes its next accumulator token or DONE. -/
  | accrdPush (r : Nat)
  /-- R281. A free channel accepts a start, capturing template and adjustments. -/
  | copyAccept (x ch : Nat)
  /-- R285. The engine reads or pads one element and delivers it to its destination. -/
  | copyElement (x ch : Nat)
  /-- R296. A global port pushes the next copied data token or group CMPL on its fabric output. -/
  | dfabPush (x ch : Nat)
  /-- R294. After every write applies, the copy performs its completion action and frees the channel. -/
  | copyCompletion (x ch : Nat)
  /-- R361. The sequencer fetches and checks every line of a block. -/
  | pralineFetch (r : Nat)
  /-- R365. Praline block that writes stationary storage, dense or sparse. -/
  | loads (h : BlockHdr)
  /-- R366. Praline block that writes the sequencer's scale table. -/
  | setscale (h : BlockHdr)
  /-- R367. Praline block that pushes its payload as tokens on a south O2. -/
  | stream (h : BlockHdr)
  /-- R367. A STREAM block pushes its next token as room allows. -/
  | streamBlockPush (r : Nat)
  /-- R368. Praline block that runs a TCON with a descriptor from its payload. -/
  | contract (h : BlockHdr)
  /-- R368. Praline block acting as ACCZ. -/
  | zero (h : BlockHdr)
  /-- R368. Praline block acting as ACCRD. -/
  | drain (h : BlockHdr)
  /-- R369. Praline block that completes once earlier blocks complete and, optionally, a token arrives. -/
  | sync (h : BlockHdr)
  /-- R370. Praline block that continues at its successor. -/
  | jump (h : BlockHdr)
  /-- R370. Praline block that branches on a masked predicate word. -/
  | jumpif (h : BlockHdr)
  /-- R370. Praline block that pushes its successor and continues at a target. -/
  | callt (h : BlockHdr)
  /-- R370. Praline block that pops the return stack and continues there. -/
  | rett (h : BlockHdr)
  /-- R357. Praline block that leaves weight-driven mode and pushes the exit code. -/
  | endBlk (h : BlockHdr)
  /-- R307. A stopping fault halts the load, discards the version and leads to the fault record. -/
  | taskStop (ld : Nat)
  /-- R342. Budget, claim, QCMD 1 or BRK requests pre-emption of every region of a load. -/
  | preemptRequest (ld : Nat)
  /-- R342. A region stops for pre-emption within the bound of its mode. -/
  | regionStop (r : Nat)
  /-- R342. With no PREPT by r+4096, a running matrix region stops at the next step boundary with all tiles live. -/
  | preptFallback (r : Nat)
  /-- R344. A claimed region's state is written into a free save slot. -/
  | scanOut (r : Nat)
  /-- R345. A stopped load resumes in place or from its scanned-in images. -/
  | loadResume (ld : Nat)
  /-- R339. USED reaches BUDGET, setting BUDX and pre-empting the queue's loads. -/
  | budgetExhaust (q : Nat)
  /-- R339. A non-pre-emptible interval ends and deferred pre-emption applies. -/
  | npIntervalEnd (ld : Nat)
  /-- R381. A bridge receives a flit, delivering it or discarding it with a negative acknowledgement. -/
  | bridgeFlitReceive (e : Nat) (fl : BridgeFlit)
  /-- R386. A receiver reports freed buffers in a credit flit at least every 64 flit times. -/
  | creditFlit (k : Nat)
  /-- R389. A remote home performs an assembled request and sends its response. -/
  | remoteRequestPerform (dev stream tag : Nat)
  /-- R385. A remote response or acknowledgement completes its access. -/
  | remoteResponse (tag : Nat) (status : Byte) (data : List Byte)
  /-- R388. A request unanswered after 100 µs raises LINK 0x02. -/
  | remoteTimeout (tag : Nat)
  /-- R338. The scheduler draws a winning queue by lottery when regions free up. -/
  | lotteryDraw
  /-- R238. The weight-store phase counter enters or leaves refresh phases 0–63. -/
  | weightStoreRefresh
  /-- R247. A bank group's refresh slot begins or ends. -/
  | rowRefreshSlot (g : Nat)
  /-- R248. A new 2100-cycle activation budget period begins. -/
  | actBudgetPeriod
  /-- R339. A 100 µs budget period begins, clearing USED and BUDX. -/
  | budgetPeriodStart
  /-- R334. A write appends packets to a host queue, or to its shadow while switched out. -/
  | qtailWrite (q : Nat) (v : Word)
  /-- R347. Switches a queue out and pre-empts its loads. -/
  | qcmdStop (q : Nat)
  /-- R347. Switches a queue back in, installing the shadow tail. -/
  | qcmdResume (q : Nat)
  /-- R308. Restarts the held tile or retries the faulted graph step. -/
  | qfcmdRestart (q : Nat)
  /-- R309. Abandons the held graph and releases its regions. -/
  | qfcmdAbandon (q : Nat)
  /-- R330. Resumes a load held by BRK on its exact stopped state. -/
  | qfcmdResume (q : Nat)
  /-- R338. Writes the lottery generator state, storing 1 for 0. -/
  | schedSeedWrite (v : BitVec 64)
  /-- R317. Starts invalidating cached translations of a page or space. -/
  | mmuInvGo (v : BitVec 64)
  /-- R316. An invalidation completes once accesses using dropped translations finish. -/
  | mmuInvComplete
  /-- R318. Declares a page mapped, replaying its parked stores, spills and sequencer fetches. -/
  | mmuSvcMapped (v : BitVec 64)
  /-- R318. Declares a page unmappable, dropping parked stores and stopping owners. -/
  | mmuSvcUnmappable (v : BitVec 64)
  /-- R397. Executes one configuration command through the host window. -/
  | hcwCmd (v : Word)
  /-- R393. Reads and removes the oldest window read result. -/
  | hcwRd
  /-- R397. Activates pages committed through the window on a free region. -/
  | hcwGo
  /-- R393. Stores a template-table word and advances the index. -/
  | tplDataWrite (v : BitVec 64)
  /-- R393. Returns a template-table word and advances the index. -/
  | tplDataRead
  /-- R418. Fetches, verifies and installs a firmware image, then resets the device. -/
  | fwInstall (len : Word)
  /-- R419. Writes a signed attestation report for a nonce. -/
  | fwAttest
  /-- R420. Latches one entry of an internal structure for readback. -/
  | rbSelWrite (v : BitVec 64)
  /-- R420. Returns the next word of the latched entry. -/
  | rbDataRead
  /-- R341. A write clears a stale-read counter. -/
  | staleClear (p k : Nat)
  /-- R394. A write clears a bridge's retry and retrain counters. -/
  | brgStatClear (e : Nat)
  /-- R394. A write clears link counters and sets whether the link trains. -/
  | glStatWrite (k : Nat) (v : BitVec 64)
  /-- R396. Unmasking a vector raises it if it is pending. -/
  | msixUnmask (n : Nat)
  /-- R392. Writes a BAR0 register that has no behaviour of its own. -/
  | registerWrite (off : Nat) (bytes : List Byte)
  /-- R395. The host reads device memory as latest applied state. -/
  | hostBar2Read (x : Nat)
  /-- R395. The host writes device memory as an immediate write. -/
  | hostBar2Write (x : Nat) (bytes : List Byte)
  /-- R416. A power-on, PCI Express or function-level reset takes the device through bring-up. -/
  | deviceReset
  /-- R410. A rail sag stretches the device's fabric clock. -/
  | supplySag
  /-- R410. The clock stretch ends once 64 cycles have passed and the rail recovers. -/
  | sagRecovery
  /-- R409. A 1 ms window closes and the clock is slowed to hold PWR_CAP. -/
  | powerCapWindow (watts : Nat)
  /-- R411. A stack's temperature moves it to another thermal level. -/
  | thermalLevelChange (st temp : Nat)
  /-- R413. At 110 °C the hub gates every fabric clock and drops an unpublished commit. -/
  | thermalTrip (st : Nat)
  /-- R381. A negative acknowledgement makes the sender resend from the failed flit. -/
  | bridgeRetry (e : Nat) (seq : BitVec 12)
  /-- R382. Eight retries of one flit retrain the link, possibly taking the edge down. -/
  | bridgeRetrain (e : Nat) (ok : Bool)
  /-- R380. A new 2100-cycle send allowance period begins for each stream. -/
  | allowancePeriod
  /-- R384. A Glosutus flit arrives and is checked, forwarded or delivered. -/
  | glFlitReceive (k : Nat) (bytes : List Byte)
  /-- R388. A Glosutus link retrains after eight failures, going down after three failed retrainings. -/
  | glRetrain (k : Nat) (ok : Bool)
  /-- R394. A Glosutus link enabled by GL_STAT.ENABLE finishes training, sets UP, starts both credit classes at 128 and raises vector 129. -/
  | linkTrained (k : Nat)
  /-- R321. Scrubbing finds an uncorrectable error and writes a NOTASK ECC record to the device ring. -/
  | eccInScrubbing (pa : Nat)
deriving DecidableEq, Repr

end Sys2Proof
end

