-- ==== Sys2Proof/WellFormed.lean ====
section
/-!
DEFINITION. Which terms of `Instr` are well formed: the fields that an encoding fixes have the values of the row (R15, R54, R60, R63, R66,
R358), and an event names units that the device has (R1, R2, R27, R378, R394).
-/
namespace Sys2Proof

/-- A region of the device (R2). -/
def regionWf (r : Nat) : Bool := decide (r < 768)
/-- An element of a region (R27). -/
def unitWf (e : Nat) : Bool := decide (e < 148)
/-- A service element (R27). -/
def portWf (e : Nat) : Bool := decide (128 ≤ e) && decide (e < 148)
/-- A channel of an element (R12). -/
def chanWf (c : Nat) : Bool := decide (c < 4)
/-- A launch queue (R331). -/
def queueWf (q : Nat) : Bool := decide (q < 128)
/-- The element index of a configuration command (R60). -/
def elemWf (e : Byte) : Bool := decide (e.toNat < 148)

/-- The reserved trigger bits of a slot are zero (R18). -/
def fieldsWf (f : Fields) : Bool := f.rsv90 == 0 && f.rsv80 == 0

/-- A slot whose opcode covers several rows has the VAR of its row. -/
def variantWf (f : Fields) (v : BitVec 3) : Bool := fieldsWf f && f.var == v

/-- The reserved fields of a block header are zero (R358). -/
def blockWf (h : BlockHdr) : Bool := h.rsv104 == 0 && h.rsv71 == 0 && h.rsv68 == 0

/-- Well-formedness. -/
def Instr.wf : Instr → Bool
  | .nop f => fieldsWf f
  | .pass f => fieldsWf f
  | .emit f => fieldsWf f
  | .tagset f => fieldsWf f
  | .seqset f => fieldsWf f
  | .seqget f => fieldsWf f
  | .demand f => fieldsWf f
  | .drop f => fieldsWf f
  | .fwdsel f => fieldsWf f
  | .add f => fieldsWf f
  | .sub f => fieldsWf f
  | .mul f => fieldsWf f
  | .mulh f => fieldsWf f
  | .mulhu f => fieldsWf f
  | .mad f => fieldsWf f
  | .abs f => fieldsWf f
  | .neg f => fieldsWf f
  | .min f => fieldsWf f
  | .max f => fieldsWf f
  | .minu f => fieldsWf f
  | .maxu f => fieldsWf f
  | .and f => fieldsWf f
  | .or f => fieldsWf f
  | .xor f => fieldsWf f
  | .andn f => fieldsWf f
  | .shl f => fieldsWf f
  | .shr f => fieldsWf f
  | .sar f => fieldsWf f
  | .rot f => fieldsWf f
  | .clz f => fieldsWf f
  | .popc f => fieldsWf f
  | .brev f => fieldsWf f
  | .bfx f => fieldsWf f
  | .bfi f => fieldsWf f
  | .sel f => fieldsWf f
  | .cmp f => fieldsWf f
  | .test f => fieldsWf f
  | .mov f => fieldsWf f
  | .movi f => fieldsWf f
  | .movh f => fieldsWf f
  | .addr f => fieldsWf f
  | .idx2 f => fieldsWf f
  | .pand f => fieldsWf f
  | .por f => fieldsWf f
  | .pxor f => fieldsWf f
  | .pnot f => fieldsWf f
  | .pmov f => fieldsWf f
  | .preg f => variantWf f 0
  | .pregSet f => variantWf f 1
  | .bcast f => fieldsWf f
  | .perm f => fieldsWf f
  | .shuf f => fieldsWf f
  | .lred f => fieldsWf f
  | .lscan f => fieldsWf f
  | .pcount f => fieldsWf f
  | .first f => fieldsWf f
  | .fadd f => fieldsWf f
  | .fsub f => fieldsWf f
  | .fmul f => fieldsWf f
  | .fma f => fieldsWf f
  | .fnma f => fieldsWf f
  | .fma3 f => fieldsWf f
  | .fmin f => fieldsWf f
  | .fmax f => fieldsWf f
  | .fabs f => fieldsWf f
  | .fneg f => fieldsWf f
  | .fcmp f => fieldsWf f
  | .fclass f => fieldsWf f
  | .frint f => fieldsWf f
  | .ftoi f => fieldsWf f
  | .itof f => fieldsWf f
  | .frcp f => fieldsWf f
  | .frsq f => fieldsWf f
  | .fexpf f => fieldsWf f
  | .flogf f => fieldsWf f
  | .fexpins f => fieldsWf f
  | .fexpext f => fieldsWf f
  | .fmant f => fieldsWf f
  | .fdot2 f => fieldsWf f
  | .fdot4 f => fieldsWf f
  | .ftri f => fieldsWf f
  | .cvt f => fieldsWf f
  | .pack f => fieldsWf f
  | .unpk f => fieldsWf f
  | .gscale f => fieldsWf f
  | .qscale f => fieldsWf f
  | .cvtov f => fieldsWf f
  | .scan f => fieldsWf f
  | .intsc f => fieldsWf f
  | .union f => fieldsWf f
  | .join f => fieldsWf f
  | .rept f => fieldsWf f
  | .reds f => fieldsWf f
  | .crddrop f => fieldsWf f
  | .stoplvLower f => variantWf f 0
  | .stoplvWrap f => variantWf f 1
  | .zip f => fieldsWf f
  | .gchk f => variantWf f 0
  | .gchkArm f => variantWf f 1
  | .selk f => fieldsWf f
  | .selo f => variantWf f 0
  | .seloClr f => variantWf f 1
  | .sort8 f => fieldsWf f
  | .decomp f => fieldsWf f
  | .comp f => fieldsWf f
  | .transp f => fieldsWf f
  | .mrg f => fieldsWf f
  | .steer f => fieldsWf f
  | .fanout f => fieldsWf f
  | .gsel f => fieldsWf f
  | .mmodeOn f => variantWf f 1
  | .mmodeOff f => variantWf f 0
  | .wload f => fieldsWf f
  | .wrow f => fieldsWf f
  | .accz f => fieldsWf f
  | .accrd f => fieldsWf f
  | .idxset f => fieldsWf f
  | .tconK64n32 f => fieldsWf f
  | .tconK32n64 f => fieldsWf f
  | .tconK128n16 f => fieldsWf f
  | .tconK16n128 f => fieldsWf f
  | .tconK256n8 f => fieldsWf f
  | .tconK8n256 f => fieldsWf f
  | .tconK64n16x f => fieldsWf f
  | .tconK32n32x f => fieldsWf f
  | .ld f => fieldsWf f
  | .st f => fieldsWf f
  | .lds f => fieldsWf f
  | .stf f => fieldsWf f
  | .sete f => fieldsWf f
  | .agsrc f => fieldsWf f
  | .agsnk f => fieldsWf f
  | .gath f => fieldsWf f
  | .scat f => fieldsWf f
  | .waita f => fieldsWf f
  | .atom f => fieldsWf f
  | .vradd f => fieldsWf f
  | .vrmax f => fieldsWf f
  | .ldrow f => fieldsWf f
  | .fence f => fieldsWf f
  | .bxstart f => fieldsWf f
  | .wsrd f => fieldsWf f
  | .wsph f => fieldsWf f
  | .rowact f => fieldsWf f
  | .rowconSt f => variantWf f 0
  | .rowconStr f => variantWf f 1
  | .rowconWs f => variantWf f 2
  | .rowwr f => fieldsWf f
  | .rowpre f => fieldsWf f
  | .rowstat f => fieldsWf f
  | .phase f => fieldsWf f
  | .tend f => fieldsWf f
  | .trig f => fieldsWf f
  | .launch f => fieldsWf f
  | .trap f => fieldsWf f
  | .brk f => fieldsWf f
  | .prept f => fieldsWf f
  | .sysrd f => fieldsWf f
  | .syswr f => fieldsWf f
  | .wdenter f => fieldsWf f
  | .halt f => fieldsWf f
  | .cntrd f => fieldsWf f
  | .cfgld f => fieldsWf f
  | .pgbegin _ => true
  | .patbegin _ => true
  | .patend _ => true
  | .crc _ => true
  | .succlo _ => true
  | .succhi _ => true
  | .pgend _ => true
  | .rect _ _ => true
  | .elementFieldWrite e fld _ => elemWf e && decide (fld.toNat < 240)
  | .wsel e _ => elemWf e
  | .wlo e _ => elemWf e
  | .whi e _ => elemWf e
  | .wctlNone e v => elemWf e && v.extractLsb' 0 2 == 0
  | .wctlWrite e v => elemWf e && v.extractLsb' 0 2 == 1
  | .wctlRead e v => elemWf e && v.extractLsb' 0 2 == 2
  | .tokenDepart r e c => regionWf r && unitWf e && chanWf c
  | .tokenArrival r e k => regionWf r && unitWf e && chanWf k
  | .sidePortCtrl r e => regionWf r && unitWf e
  | .reqAbsorb r e k => regionWf r && unitWf e && chanWf k
  | .loadPlacement _ => true
  | .loadActivation _ => true
  | .preloadCopy _ _ => true
  | .tileStart _ => true
  | .loadComplete _ => true
  | .packetStart q _ => queueWf q
  | .packetFinish q _ => queueWf q
  | .trigRelease q _ => queueWf q
  | .launchAppend _ => true
  | .commitPublish _ => true
  | .accessComplete r e _ => regionWf r && portWf e
  | .parkedWake r e _ => regionWf r && portWf e
  | .translationWalk r e _ => regionWf r && portWf e
  | .homeAtomic r e _ => regionWf r && portWf e
  | .agsrcPush r e => regionWf r && portWf e
  | .agsnkTake r e => regionWf r && portWf e
  | .streamCmpl r e => regionWf r && portWf e
  | .gathStep r e => regionWf r && portWf e
  | .scatStep r e => regionWf r && portWf e
  | .rowBodyTake r e => regionWf r && portWf e
  | .rowUpdateApply _ => true
  | .ldrowPerform r e _ => regionWf r && portWf e
  | .wsrdPush r e => regionWf r && portWf e
  | .rowOpIssue r => regionWf r
  | .rowBankAct r => regionWf r
  | .rowOpenExpiry r h => regionWf r && decide (h < 16)
  | .rowconStrPush r h => regionWf r && decide (h < 2)
  | .rowwrBodyTake r => regionWf r
  | .tconStepTake r => regionWf r
  | .tconStepWrite r => regionWf r
  | .wloadGroupTake r => regionWf r
  | .accrdPush r => regionWf r
  | .copyAccept x ch => regionWf x && decide (ch < 64)
  | .copyElement x ch => regionWf x && decide (ch < 64)
  | .dfabPush x ch => regionWf x && decide (ch < 64)
  | .copyCompletion x ch => regionWf x && decide (ch < 64)
  | .pralineFetch r => regionWf r
  | .loads h => blockWf h
  | .setscale h => blockWf h
  | .stream h => blockWf h
  | .streamBlockPush r => regionWf r
  | .contract h => blockWf h
  | .zero h => blockWf h
  | .drain h => blockWf h
  | .sync h => blockWf h
  | .jump h => blockWf h
  | .jumpif h => blockWf h
  | .callt h => blockWf h
  | .rett h => blockWf h
  | .endBlk h => blockWf h
  | .taskStop _ => true
  | .preemptRequest _ => true
  | .regionStop r => regionWf r
  | .preptFallback r => regionWf r
  | .scanOut r => regionWf r
  | .loadResume _ => true
  | .budgetExhaust q => queueWf q
  | .npIntervalEnd _ => true
  | .bridgeFlitReceive e _ => decide (e < 12)
  | .creditFlit k => decide (k < 16)
  | .remoteRequestPerform dev strm tag => decide (dev < 256) && decide (strm < 256) && decide (tag < 65536)
  | .remoteResponse tag _ _ => decide (tag < 65536)
  | .remoteTimeout tag => decide (tag < 65536)
  | .lotteryDraw => true
  | .weightStoreRefresh => true
  | .rowRefreshSlot g => decide (g < 8)
  | .actBudgetPeriod => true
  | .budgetPeriodStart => true
  | .qtailWrite q _ => queueWf q
  | .qcmdStop q => queueWf q
  | .qcmdResume q => queueWf q
  | .qfcmdRestart q => queueWf q
  | .qfcmdAbandon q => queueWf q
  | .qfcmdResume q => queueWf q
  | .schedSeedWrite _ => true
  | .mmuInvGo v => v.getLsbD 0
  | .mmuInvComplete => true
  | .mmuSvcMapped v => v.extractLsb' 0 2 == 1
  | .mmuSvcUnmappable v => v.extractLsb' 0 2 == 2
  | .hcwCmd _ => true
  | .hcwRd => true
  | .hcwGo => true
  | .tplDataWrite _ => true
  | .tplDataRead => true
  | .fwInstall _ => true
  | .fwAttest => true
  | .rbSelWrite _ => true
  | .rbDataRead => true
  | .staleClear p k => decide (p < 16) && decide (k < 9)
  | .brgStatClear e => decide (e < 12)
  | .glStatWrite k _ => decide (k < 16)
  | .msixUnmask n => decide (n < 136)
  | .registerWrite off bs => decide (off < 0x100000) && !bs.isEmpty && decide (off % 8 + bs.length ≤ 8)
  | .hostBar2Read x => decide (x < 2 ^ 39)
  | .hostBar2Write x bytes => decide (x + bytes.length ≤ 2 ^ 39)
  | .deviceReset => true
  | .supplySag => true
  | .sagRecovery => true
  | .powerCapWindow _ => true
  | .thermalLevelChange stk _ => decide (stk < 4)
  | .thermalTrip stk => decide (stk < 4)
  | .bridgeRetry e _ => decide (e < 12)
  | .bridgeRetrain e _ => decide (e < 12)
  | .allowancePeriod => true
  | .glFlitReceive k bytes => decide (k < 16) && bytes.length == 256
  | .glRetrain k _ => decide (k < 16)
  | .linkTrained k => decide (k < 16)
  | .eccInScrubbing pa => decide (pa < 2 ^ 39)

end Sys2Proof
end

