-- ==== Sys2Proof/Decode.lean ====
section
/-!
DEFINITION. Decoding and encoding: slots (R15, R54, R59), configuration commands (R60, R61, R63, R66) and praline block
headers (R358, R364). Events have no encoding. Reserved codes are rejected by name and never fall through to a neighbour.
-/
namespace Sys2Proof

/-- Why a word stands for no instruction. -/
inductive DecodeError where
  /-- A reserved opcode (R59). -/
  | reservedOpcode (opc : Byte)
  /-- A variant that the opcode's entry does not list. -/
  | reservedVariant (opc : Byte)
  /-- Element index 148 to 254 (R60). -/
  | reservedElement (e : Byte)
  /-- Field 244 to 255 (R61). -/
  | reservedField (fld : Byte)
  /-- A reserved page-control field (R63). -/
  | reservedPageCommand (fld : Byte)
  /-- WCTL with OP 3 (R66). -/
  | reservedWindowOp
  /-- A reserved praline opcode (R364). -/
  | reservedBlock (op : Byte)
  /-- An event is no word. -/
  | noEncoding
deriving DecidableEq, Repr

/-- The fields of a slot (R15, R54, R56). -/
def fieldsOf (w : BitVec 128) : Fields where
  pm := w.extractLsb' 120 8
  pv := w.extractLsb' 112 8
  q := w.extractLsb' 111 1
  aEn := w.extractLsb' 110 1
  aCh := w.extractLsb' 108 2
  aKind := w.extractLsb' 105 3
  aFchk := w.extractLsb' 104 1
  aFmt := w.extractLsb' 101 3
  bEn := w.extractLsb' 100 1
  bCh := w.extractLsb' 98 2
  bKind := w.extractLsb' 95 3
  bFchk := w.extractLsb' 94 1
  bFmt := w.extractLsb' 91 3
  rsv90 := w.extractLsb' 90 1
  room := w.extractLsb' 86 4
  schk := w.extractLsb' 85 1
  slvl := w.extractLsb' 82 3
  rsv80 := w.extractLsb' 80 2
  dst := w.extractLsb' 66 6
  sa := w.extractLsb' 60 6
  sb := w.extractLsb' 54 6
  sc := w.extractLsb' 48 6
  deq := w.extractLsb' 44 4
  okind := w.extractLsb' 41 3
  olvl := w.extractLsb' 38 3
  pue := w.extractLsb' 37 1
  pidx := w.extractLsb' 34 3
  pmode := w.extractLsb' 32 2
  imm := w.extractLsb' 16 16
  rnd := w.extractLsb' 13 3
  sat := w.extractLsb' 12 1
  efmt := w.extractLsb' 9 3
  uns := w.extractLsb' 8 1
  w64 := w.extractLsb' 7 1
  cc := w.extractLsb' 3 4
  var := w.extractLsb' 0 3

/-- The opcode of a slot (R54). -/
def slotOpc (w : BitVec 128) : Byte := w.extractLsb' 72 8

/-- The 128 bits of a slot (R15, R54), high bits first. -/
def packSlot (opc : Byte) (f : Fields) : BitVec 128 :=
  f.pm ++ f.pv ++ f.q ++ f.aEn ++ f.aCh ++ f.aKind ++ f.aFchk ++ f.aFmt ++ f.bEn ++ f.bCh ++ f.bKind ++ f.bFchk ++
  f.bFmt ++ f.rsv90 ++ f.room ++ f.schk ++ f.slvl ++ f.rsv80 ++ opc ++ f.dst ++ f.sa ++ f.sb ++ f.sc ++ f.deq ++
  f.okind ++ f.olvl ++ f.pue ++ f.pidx ++ f.pmode ++ f.imm ++ f.rnd ++ f.sat ++ f.efmt ++ f.uns ++ f.w64 ++ f.cc ++
  f.var

/-- The fields of a praline block header (R358). -/
def blockOf (w : BitVec 128) : BlockHdr where
  crc := w.extractLsb' 112 16
  rsv104 := w.extractLsb' 104 8
  scale := w.extractLsb' 96 8
  metaOff := w.extractLsb' 80 16
  len := w.extractLsb' 72 8
  rsv71 := w.extractLsb' 71 1
  abs := w.extractLsb' 70 1
  sparse := w.extractLsb' 69 1
  rsv68 := w.extractLsb' 68 1
  fmt := w.extractLsb' 64 4
  link := w.extractLsb' 24 40
  route := w.extractLsb' 8 16

/-- The 128 bits of a praline block header (R358), high bits first. -/
def packBlock (op : Byte) (h : BlockHdr) : BitVec 128 :=
  h.crc ++ h.rsv104 ++ h.scale ++ h.metaOff ++ h.len ++ h.rsv71 ++ h.abs ++ h.sparse ++ h.rsv68 ++ h.fmt ++ h.link ++
  h.route ++ op

/-- The instruction of a slot, by its opcode (R59); where one opcode covers several rows, VAR tells them apart. -/
def decodeSlot (w : BitVec 128) : Except DecodeError Instr :=
  let f := fieldsOf w
  let opc := slotOpc w
  match opc.toNat with
  | 0x00 => .ok (.nop f)
  | 0x01 => .ok (.pass f)
  | 0x02 => .ok (.emit f)
  | 0x03 => .ok (.tagset f)
  | 0x04 => .ok (.seqset f)
  | 0x05 => .ok (.seqget f)
  | 0x06 => .ok (.demand f)
  | 0x07 => .ok (.drop f)
  | 0x08 => .ok (.fwdsel f)
  | 0x10 => .ok (.add f)
  | 0x11 => .ok (.sub f)
  | 0x12 => .ok (.mul f)
  | 0x13 => .ok (.mulh f)
  | 0x14 => .ok (.mulhu f)
  | 0x15 => .ok (.mad f)
  | 0x16 => .ok (.abs f)
  | 0x17 => .ok (.neg f)
  | 0x18 => .ok (.min f)
  | 0x19 => .ok (.max f)
  | 0x1A => .ok (.minu f)
  | 0x1B => .ok (.maxu f)
  | 0x1C => .ok (.and f)
  | 0x1D => .ok (.or f)
  | 0x1E => .ok (.xor f)
  | 0x1F => .ok (.andn f)
  | 0x20 => .ok (.shl f)
  | 0x21 => .ok (.shr f)
  | 0x22 => .ok (.sar f)
  | 0x23 => .ok (.rot f)
  | 0x24 => .ok (.clz f)
  | 0x25 => .ok (.popc f)
  | 0x26 => .ok (.brev f)
  | 0x27 => .ok (.bfx f)
  | 0x28 => .ok (.bfi f)
  | 0x29 => .ok (.sel f)
  | 0x2A => .ok (.cmp f)
  | 0x2B => .ok (.test f)
  | 0x2C => .ok (.mov f)
  | 0x2D => .ok (.movi f)
  | 0x2E => .ok (.movh f)
  | 0x2F => .ok (.addr f)
  | 0x30 => .ok (.idx2 f)
  | 0x40 => .ok (.pand f)
  | 0x41 => .ok (.por f)
  | 0x42 => .ok (.pxor f)
  | 0x43 => .ok (.pnot f)
  | 0x44 => .ok (.pmov f)
  | 0x45 => if f.var = 0 then .ok (.preg f) else if f.var = 1 then .ok (.pregSet f) else .error (.reservedVariant opc)
  | 0x46 => .ok (.bcast f)
  | 0x47 => .ok (.perm f)
  | 0x48 => .ok (.shuf f)
  | 0x49 => .ok (.lred f)
  | 0x4A => .ok (.lscan f)
  | 0x4B => .ok (.pcount f)
  | 0x4C => .ok (.first f)
  | 0x50 => .ok (.fadd f)
  | 0x51 => .ok (.fsub f)
  | 0x52 => .ok (.fmul f)
  | 0x53 => .ok (.fma f)
  | 0x54 => .ok (.fnma f)
  | 0x55 => .ok (.fma3 f)
  | 0x56 => .ok (.fmin f)
  | 0x57 => .ok (.fmax f)
  | 0x58 => .ok (.fabs f)
  | 0x59 => .ok (.fneg f)
  | 0x5A => .ok (.fcmp f)
  | 0x5B => .ok (.fclass f)
  | 0x5C => .ok (.frint f)
  | 0x5D => .ok (.ftoi f)
  | 0x5E => .ok (.itof f)
  | 0x5F => .ok (.frcp f)
  | 0x60 => .ok (.frsq f)
  | 0x61 => .ok (.fexpf f)
  | 0x62 => .ok (.flogf f)
  | 0x63 => .ok (.fexpins f)
  | 0x64 => .ok (.fexpext f)
  | 0x65 => .ok (.fmant f)
  | 0x66 => .ok (.fdot2 f)
  | 0x67 => .ok (.fdot4 f)
  | 0x68 => .ok (.ftri f)
  | 0x80 => .ok (.cvt f)
  | 0x81 => .ok (.pack f)
  | 0x82 => .ok (.unpk f)
  | 0x83 => .ok (.gscale f)
  | 0x84 => .ok (.qscale f)
  | 0x85 => .ok (.cvtov f)
  | 0x90 => .ok (.scan f)
  | 0x91 => .ok (.intsc f)
  | 0x92 => .ok (.union f)
  | 0x93 => .ok (.join f)
  | 0x94 => .ok (.rept f)
  | 0x95 => .ok (.reds f)
  | 0x96 => .ok (.crddrop f)
  | 0x97 => if f.var = 0 then .ok (.stoplvLower f) else if f.var = 1 then .ok (.stoplvWrap f) else .error (.reservedVariant opc)
  | 0x98 => .ok (.zip f)
  | 0x99 => if f.var = 0 then .ok (.gchk f) else if f.var = 1 then .ok (.gchkArm f) else .error (.reservedVariant opc)
  | 0x9A => .ok (.selk f)
  | 0x9B => if f.var = 0 then .ok (.selo f) else if f.var = 1 then .ok (.seloClr f) else .error (.reservedVariant opc)
  | 0x9C => .ok (.sort8 f)
  | 0x9D => .ok (.mrg f)
  | 0x9E => .ok (.steer f)
  | 0x9F => .ok (.fanout f)
  | 0xA0 => .ok (.gsel f)
  | 0xA1 => .ok (.decomp f)
  | 0xA2 => .ok (.comp f)
  | 0xA3 => .ok (.transp f)
  | 0xB0 => if f.var = 0 then .ok (.mmodeOff f) else if f.var = 1 then .ok (.mmodeOn f) else .error (.reservedVariant opc)
  | 0xB1 => .ok (.wload f)
  | 0xB2 => .ok (.wrow f)
  | 0xB3 => .ok (.accz f)
  | 0xB4 => .ok (.accrd f)
  | 0xB5 => .ok (.idxset f)
  | 0xB8 => .ok (.tconK64n32 f)
  | 0xB9 => .ok (.tconK32n64 f)
  | 0xBA => .ok (.tconK128n16 f)
  | 0xBB => .ok (.tconK16n128 f)
  | 0xBC => .ok (.tconK256n8 f)
  | 0xBD => .ok (.tconK8n256 f)
  | 0xBE => .ok (.tconK64n16x f)
  | 0xBF => .ok (.tconK32n32x f)
  | 0xC0 => .ok (.ld f)
  | 0xC1 => .ok (.st f)
  | 0xC2 => .ok (.lds f)
  | 0xC3 => .ok (.stf f)
  | 0xC4 => .ok (.sete f)
  | 0xC5 => .ok (.agsrc f)
  | 0xC6 => .ok (.agsnk f)
  | 0xC7 => .ok (.gath f)
  | 0xC8 => .ok (.scat f)
  | 0xC9 => .ok (.waita f)
  | 0xCA => .ok (.atom f)
  | 0xCB => .ok (.vradd f)
  | 0xCC => .ok (.vrmax f)
  | 0xCD => .ok (.ldrow f)
  | 0xCE => .ok (.fence f)
  | 0xCF => .ok (.bxstart f)
  | 0xD0 => .ok (.wsrd f)
  | 0xD1 => .ok (.wsph f)
  | 0xE0 => .ok (.rowact f)
  | 0xE1 => if f.var = 0 then .ok (.rowconSt f) else if f.var = 1 then .ok (.rowconStr f) else if f.var = 2 then .ok (.rowconWs f) else .error (.reservedVariant opc)
  | 0xE2 => .ok (.rowwr f)
  | 0xE3 => .ok (.rowpre f)
  | 0xE4 => .ok (.rowstat f)
  | 0xE8 => .ok (.phase f)
  | 0xE9 => .ok (.tend f)
  | 0xEA => .ok (.trig f)
  | 0xEB => .ok (.launch f)
  | 0xEC => .ok (.trap f)
  | 0xED => .ok (.brk f)
  | 0xEE => .ok (.prept f)
  | 0xEF => .ok (.sysrd f)
  | 0xF0 => .ok (.syswr f)
  | 0xF1 => .ok (.wdenter f)
  | 0xF2 => .ok (.halt f)
  | 0xF3 => .ok (.cntrd f)
  | 0xF4 => .ok (.cfgld f)
  | _ => .error (.reservedOpcode opc)

/-- The opcode and fields of a slot instruction; nothing for the other rows. -/
def slotParts : Instr → Option (Byte × Fields)
  | .nop f => some (0x00, f)
  | .pass f => some (0x01, f)
  | .emit f => some (0x02, f)
  | .tagset f => some (0x03, f)
  | .seqset f => some (0x04, f)
  | .seqget f => some (0x05, f)
  | .demand f => some (0x06, f)
  | .drop f => some (0x07, f)
  | .fwdsel f => some (0x08, f)
  | .add f => some (0x10, f)
  | .sub f => some (0x11, f)
  | .mul f => some (0x12, f)
  | .mulh f => some (0x13, f)
  | .mulhu f => some (0x14, f)
  | .mad f => some (0x15, f)
  | .abs f => some (0x16, f)
  | .neg f => some (0x17, f)
  | .min f => some (0x18, f)
  | .max f => some (0x19, f)
  | .minu f => some (0x1A, f)
  | .maxu f => some (0x1B, f)
  | .and f => some (0x1C, f)
  | .or f => some (0x1D, f)
  | .xor f => some (0x1E, f)
  | .andn f => some (0x1F, f)
  | .shl f => some (0x20, f)
  | .shr f => some (0x21, f)
  | .sar f => some (0x22, f)
  | .rot f => some (0x23, f)
  | .clz f => some (0x24, f)
  | .popc f => some (0x25, f)
  | .brev f => some (0x26, f)
  | .bfx f => some (0x27, f)
  | .bfi f => some (0x28, f)
  | .sel f => some (0x29, f)
  | .cmp f => some (0x2A, f)
  | .test f => some (0x2B, f)
  | .mov f => some (0x2C, f)
  | .movi f => some (0x2D, f)
  | .movh f => some (0x2E, f)
  | .addr f => some (0x2F, f)
  | .idx2 f => some (0x30, f)
  | .pand f => some (0x40, f)
  | .por f => some (0x41, f)
  | .pxor f => some (0x42, f)
  | .pnot f => some (0x43, f)
  | .pmov f => some (0x44, f)
  | .preg f => some (0x45, f)
  | .pregSet f => some (0x45, f)
  | .bcast f => some (0x46, f)
  | .perm f => some (0x47, f)
  | .shuf f => some (0x48, f)
  | .lred f => some (0x49, f)
  | .lscan f => some (0x4A, f)
  | .pcount f => some (0x4B, f)
  | .first f => some (0x4C, f)
  | .fadd f => some (0x50, f)
  | .fsub f => some (0x51, f)
  | .fmul f => some (0x52, f)
  | .fma f => some (0x53, f)
  | .fnma f => some (0x54, f)
  | .fma3 f => some (0x55, f)
  | .fmin f => some (0x56, f)
  | .fmax f => some (0x57, f)
  | .fabs f => some (0x58, f)
  | .fneg f => some (0x59, f)
  | .fcmp f => some (0x5A, f)
  | .fclass f => some (0x5B, f)
  | .frint f => some (0x5C, f)
  | .ftoi f => some (0x5D, f)
  | .itof f => some (0x5E, f)
  | .frcp f => some (0x5F, f)
  | .frsq f => some (0x60, f)
  | .fexpf f => some (0x61, f)
  | .flogf f => some (0x62, f)
  | .fexpins f => some (0x63, f)
  | .fexpext f => some (0x64, f)
  | .fmant f => some (0x65, f)
  | .fdot2 f => some (0x66, f)
  | .fdot4 f => some (0x67, f)
  | .ftri f => some (0x68, f)
  | .cvt f => some (0x80, f)
  | .pack f => some (0x81, f)
  | .unpk f => some (0x82, f)
  | .gscale f => some (0x83, f)
  | .qscale f => some (0x84, f)
  | .cvtov f => some (0x85, f)
  | .scan f => some (0x90, f)
  | .intsc f => some (0x91, f)
  | .union f => some (0x92, f)
  | .join f => some (0x93, f)
  | .rept f => some (0x94, f)
  | .reds f => some (0x95, f)
  | .crddrop f => some (0x96, f)
  | .stoplvLower f => some (0x97, f)
  | .stoplvWrap f => some (0x97, f)
  | .zip f => some (0x98, f)
  | .gchk f => some (0x99, f)
  | .gchkArm f => some (0x99, f)
  | .selk f => some (0x9A, f)
  | .selo f => some (0x9B, f)
  | .seloClr f => some (0x9B, f)
  | .sort8 f => some (0x9C, f)
  | .decomp f => some (0xA1, f)
  | .comp f => some (0xA2, f)
  | .transp f => some (0xA3, f)
  | .mrg f => some (0x9D, f)
  | .steer f => some (0x9E, f)
  | .fanout f => some (0x9F, f)
  | .gsel f => some (0xA0, f)
  | .mmodeOn f => some (0xB0, f)
  | .mmodeOff f => some (0xB0, f)
  | .wload f => some (0xB1, f)
  | .wrow f => some (0xB2, f)
  | .accz f => some (0xB3, f)
  | .accrd f => some (0xB4, f)
  | .idxset f => some (0xB5, f)
  | .tconK64n32 f => some (0xB8, f)
  | .tconK32n64 f => some (0xB9, f)
  | .tconK128n16 f => some (0xBA, f)
  | .tconK16n128 f => some (0xBB, f)
  | .tconK256n8 f => some (0xBC, f)
  | .tconK8n256 f => some (0xBD, f)
  | .tconK64n16x f => some (0xBE, f)
  | .tconK32n32x f => some (0xBF, f)
  | .ld f => some (0xC0, f)
  | .st f => some (0xC1, f)
  | .lds f => some (0xC2, f)
  | .stf f => some (0xC3, f)
  | .sete f => some (0xC4, f)
  | .agsrc f => some (0xC5, f)
  | .agsnk f => some (0xC6, f)
  | .gath f => some (0xC7, f)
  | .scat f => some (0xC8, f)
  | .waita f => some (0xC9, f)
  | .atom f => some (0xCA, f)
  | .vradd f => some (0xCB, f)
  | .vrmax f => some (0xCC, f)
  | .ldrow f => some (0xCD, f)
  | .fence f => some (0xCE, f)
  | .bxstart f => some (0xCF, f)
  | .wsrd f => some (0xD0, f)
  | .wsph f => some (0xD1, f)
  | .rowact f => some (0xE0, f)
  | .rowconSt f => some (0xE1, f)
  | .rowconStr f => some (0xE1, f)
  | .rowconWs f => some (0xE1, f)
  | .rowwr f => some (0xE2, f)
  | .rowpre f => some (0xE3, f)
  | .rowstat f => some (0xE4, f)
  | .phase f => some (0xE8, f)
  | .tend f => some (0xE9, f)
  | .trig f => some (0xEA, f)
  | .launch f => some (0xEB, f)
  | .trap f => some (0xEC, f)
  | .brk f => some (0xED, f)
  | .prept f => some (0xEE, f)
  | .sysrd f => some (0xEF, f)
  | .syswr f => some (0xF0, f)
  | .wdenter f => some (0xF1, f)
  | .halt f => some (0xF2, f)
  | .cntrd f => some (0xF3, f)
  | .cfgld f => some (0xF4, f)
  | .pgbegin _ => none
  | .patbegin _ => none
  | .patend _ => none
  | .crc _ => none
  | .succlo _ => none
  | .succhi _ => none
  | .pgend _ => none
  | .rect _ _ => none
  | .elementFieldWrite _ _ _ => none
  | .wsel _ _ => none
  | .wlo _ _ => none
  | .whi _ _ => none
  | .wctlNone _ _ => none
  | .wctlWrite _ _ => none
  | .wctlRead _ _ => none
  | .tokenDepart _ _ _ => none
  | .tokenArrival _ _ _ => none
  | .sidePortCtrl _ _ => none
  | .reqAbsorb _ _ _ => none
  | .loadPlacement _ => none
  | .lotteryDraw => none
  | .loadActivation _ => none
  | .preloadCopy _ _ => none
  | .tileStart _ => none
  | .loadComplete _ => none
  | .packetStart _ _ => none
  | .packetFinish _ _ => none
  | .trigRelease _ _ => none
  | .launchAppend _ => none
  | .commitPublish _ => none
  | .accessComplete _ _ _ => none
  | .parkedWake _ _ _ => none
  | .translationWalk _ _ _ => none
  | .homeAtomic _ _ _ => none
  | .agsrcPush _ _ => none
  | .agsnkTake _ _ => none
  | .streamCmpl _ _ => none
  | .gathStep _ _ => none
  | .scatStep _ _ => none
  | .rowBodyTake _ _ => none
  | .rowUpdateApply _ => none
  | .ldrowPerform _ _ _ => none
  | .wsrdPush _ _ => none
  | .weightStoreRefresh => none
  | .rowOpIssue _ => none
  | .rowBankAct _ => none
  | .rowOpenExpiry _ _ => none
  | .rowRefreshSlot _ => none
  | .actBudgetPeriod => none
  | .rowconStrPush _ _ => none
  | .rowwrBodyTake _ => none
  | .tconStepTake _ => none
  | .tconStepWrite _ => none
  | .wloadGroupTake _ => none
  | .accrdPush _ => none
  | .copyAccept _ _ => none
  | .copyElement _ _ => none
  | .dfabPush _ _ => none
  | .copyCompletion _ _ => none
  | .pralineFetch _ => none
  | .loads _ => none
  | .setscale _ => none
  | .stream _ => none
  | .streamBlockPush _ => none
  | .contract _ => none
  | .zero _ => none
  | .drain _ => none
  | .sync _ => none
  | .jump _ => none
  | .jumpif _ => none
  | .callt _ => none
  | .rett _ => none
  | .endBlk _ => none
  | .taskStop _ => none
  | .preemptRequest _ => none
  | .regionStop _ => none
  | .preptFallback _ => none
  | .scanOut _ => none
  | .loadResume _ => none
  | .budgetExhaust _ => none
  | .budgetPeriodStart => none
  | .npIntervalEnd _ => none
  | .qtailWrite _ _ => none
  | .qcmdStop _ => none
  | .qcmdResume _ => none
  | .qfcmdRestart _ => none
  | .qfcmdAbandon _ => none
  | .qfcmdResume _ => none
  | .schedSeedWrite _ => none
  | .mmuInvGo _ => none
  | .mmuInvComplete => none
  | .mmuSvcMapped _ => none
  | .mmuSvcUnmappable _ => none
  | .hcwCmd _ => none
  | .hcwRd => none
  | .hcwGo => none
  | .tplDataWrite _ => none
  | .tplDataRead => none
  | .fwInstall _ => none
  | .fwAttest => none
  | .rbSelWrite _ => none
  | .rbDataRead => none
  | .staleClear _ _ => none
  | .brgStatClear _ => none
  | .glStatWrite _ _ => none
  | .msixUnmask _ => none
  | .registerWrite _ _ => none
  | .hostBar2Read _ => none
  | .hostBar2Write _ _ => none
  | .deviceReset => none
  | .supplySag => none
  | .sagRecovery => none
  | .powerCapWindow _ => none
  | .thermalLevelChange _ _ => none
  | .thermalTrip _ => none
  | .bridgeFlitReceive _ _ => none
  | .bridgeRetry _ _ => none
  | .bridgeRetrain _ _ => none
  | .allowancePeriod => none
  | .glFlitReceive _ _ => none
  | .glRetrain _ _ => none
  | .creditFlit _ => none
  | .remoteRequestPerform _ _ _ => none
  | .remoteResponse _ _ _ => none
  | .remoteTimeout _ => none
  | .linkTrained _ => none
  | .eccInScrubbing _ => none

/-- The command of a 32-bit word of a configuration stream (R60, R61, R63, R66). -/
def decodeCmd (w : Word) : Except DecodeError Instr :=
  let e := w.extractLsb' 24 8
  let fld := w.extractLsb' 16 8
  let v := w.extractLsb' 0 16
  if e = 255 then
    match fld.toNat with
    | 0x00 => .ok (.pgbegin v)
    | 0x01 => .ok (.patbegin v)
    | 0x02 => .ok (.patend v)
    | 0x03 => .ok (.crc v)
    | 0x04 => .ok (.succlo v)
    | 0x05 => .ok (.succhi v)
    | 0x06 => .ok (.pgend v)
    | _ => if fld.extractLsb' 4 4 = 1 then .ok (.rect (fld.extractLsb' 0 4) v) else .error (.reservedPageCommand fld)
  else if 148 ≤ e.toNat then .error (.reservedElement e)
  else if fld.toNat < 240 then .ok (.elementFieldWrite e fld v)
  else
    match fld.toNat with
    | 240 => .ok (.wsel e v)
    | 241 => .ok (.wlo e v)
    | 242 => .ok (.whi e v)
    | 243 =>
      if v.extractLsb' 0 2 = 0 then .ok (.wctlNone e v)
      else if v.extractLsb' 0 2 = 1 then .ok (.wctlWrite e v)
      else if v.extractLsb' 0 2 = 2 then .ok (.wctlRead e v)
      else .error .reservedWindowOp
    | _ => .error (.reservedField fld)

/-- The word of a configuration command. -/
def cmdWord (e fld : Byte) (v : Half) : Word := e ++ fld ++ v

/-- The word of a configuration instruction; nothing for the other rows. -/
def cmdParts : Instr → Option Word
  | .nop _ => none
  | .pass _ => none
  | .emit _ => none
  | .tagset _ => none
  | .seqset _ => none
  | .seqget _ => none
  | .demand _ => none
  | .drop _ => none
  | .fwdsel _ => none
  | .add _ => none
  | .sub _ => none
  | .mul _ => none
  | .mulh _ => none
  | .mulhu _ => none
  | .mad _ => none
  | .abs _ => none
  | .neg _ => none
  | .min _ => none
  | .max _ => none
  | .minu _ => none
  | .maxu _ => none
  | .and _ => none
  | .or _ => none
  | .xor _ => none
  | .andn _ => none
  | .shl _ => none
  | .shr _ => none
  | .sar _ => none
  | .rot _ => none
  | .clz _ => none
  | .popc _ => none
  | .brev _ => none
  | .bfx _ => none
  | .bfi _ => none
  | .sel _ => none
  | .cmp _ => none
  | .test _ => none
  | .mov _ => none
  | .movi _ => none
  | .movh _ => none
  | .addr _ => none
  | .idx2 _ => none
  | .pand _ => none
  | .por _ => none
  | .pxor _ => none
  | .pnot _ => none
  | .pmov _ => none
  | .preg _ => none
  | .pregSet _ => none
  | .bcast _ => none
  | .perm _ => none
  | .shuf _ => none
  | .lred _ => none
  | .lscan _ => none
  | .pcount _ => none
  | .first _ => none
  | .fadd _ => none
  | .fsub _ => none
  | .fmul _ => none
  | .fma _ => none
  | .fnma _ => none
  | .fma3 _ => none
  | .fmin _ => none
  | .fmax _ => none
  | .fabs _ => none
  | .fneg _ => none
  | .fcmp _ => none
  | .fclass _ => none
  | .frint _ => none
  | .ftoi _ => none
  | .itof _ => none
  | .frcp _ => none
  | .frsq _ => none
  | .fexpf _ => none
  | .flogf _ => none
  | .fexpins _ => none
  | .fexpext _ => none
  | .fmant _ => none
  | .fdot2 _ => none
  | .fdot4 _ => none
  | .ftri _ => none
  | .cvt _ => none
  | .pack _ => none
  | .unpk _ => none
  | .gscale _ => none
  | .qscale _ => none
  | .cvtov _ => none
  | .scan _ => none
  | .intsc _ => none
  | .union _ => none
  | .join _ => none
  | .rept _ => none
  | .reds _ => none
  | .crddrop _ => none
  | .stoplvLower _ => none
  | .stoplvWrap _ => none
  | .zip _ => none
  | .gchk _ => none
  | .gchkArm _ => none
  | .selk _ => none
  | .selo _ => none
  | .seloClr _ => none
  | .sort8 _ => none
  | .decomp _ => none
  | .comp _ => none
  | .transp _ => none
  | .mrg _ => none
  | .steer _ => none
  | .fanout _ => none
  | .gsel _ => none
  | .mmodeOn _ => none
  | .mmodeOff _ => none
  | .wload _ => none
  | .wrow _ => none
  | .accz _ => none
  | .accrd _ => none
  | .idxset _ => none
  | .tconK64n32 _ => none
  | .tconK32n64 _ => none
  | .tconK128n16 _ => none
  | .tconK16n128 _ => none
  | .tconK256n8 _ => none
  | .tconK8n256 _ => none
  | .tconK64n16x _ => none
  | .tconK32n32x _ => none
  | .ld _ => none
  | .st _ => none
  | .lds _ => none
  | .stf _ => none
  | .sete _ => none
  | .agsrc _ => none
  | .agsnk _ => none
  | .gath _ => none
  | .scat _ => none
  | .waita _ => none
  | .atom _ => none
  | .vradd _ => none
  | .vrmax _ => none
  | .ldrow _ => none
  | .fence _ => none
  | .bxstart _ => none
  | .wsrd _ => none
  | .wsph _ => none
  | .rowact _ => none
  | .rowconSt _ => none
  | .rowconStr _ => none
  | .rowconWs _ => none
  | .rowwr _ => none
  | .rowpre _ => none
  | .rowstat _ => none
  | .phase _ => none
  | .tend _ => none
  | .trig _ => none
  | .launch _ => none
  | .trap _ => none
  | .brk _ => none
  | .prept _ => none
  | .sysrd _ => none
  | .syswr _ => none
  | .wdenter _ => none
  | .halt _ => none
  | .cntrd _ => none
  | .cfgld _ => none
  | .pgbegin v => some (cmdWord 255 0 v)
  | .patbegin v => some (cmdWord 255 1 v)
  | .patend v => some (cmdWord 255 2 v)
  | .crc v => some (cmdWord 255 3 v)
  | .succlo v => some (cmdWord 255 4 v)
  | .succhi v => some (cmdWord 255 5 v)
  | .pgend v => some (cmdWord 255 6 v)
  | .rect k v => some (cmdWord 255 ((1 : BitVec 4) ++ k) v)
  | .elementFieldWrite e fld v => some (cmdWord e fld v)
  | .wsel e v => some (cmdWord e 240 v)
  | .wlo e v => some (cmdWord e 241 v)
  | .whi e v => some (cmdWord e 242 v)
  | .wctlNone e v => some (cmdWord e 243 v)
  | .wctlWrite e v => some (cmdWord e 243 v)
  | .wctlRead e v => some (cmdWord e 243 v)
  | .tokenDepart _ _ _ => none
  | .tokenArrival _ _ _ => none
  | .sidePortCtrl _ _ => none
  | .reqAbsorb _ _ _ => none
  | .loadPlacement _ => none
  | .lotteryDraw => none
  | .loadActivation _ => none
  | .preloadCopy _ _ => none
  | .tileStart _ => none
  | .loadComplete _ => none
  | .packetStart _ _ => none
  | .packetFinish _ _ => none
  | .trigRelease _ _ => none
  | .launchAppend _ => none
  | .commitPublish _ => none
  | .accessComplete _ _ _ => none
  | .parkedWake _ _ _ => none
  | .translationWalk _ _ _ => none
  | .homeAtomic _ _ _ => none
  | .agsrcPush _ _ => none
  | .agsnkTake _ _ => none
  | .streamCmpl _ _ => none
  | .gathStep _ _ => none
  | .scatStep _ _ => none
  | .rowBodyTake _ _ => none
  | .rowUpdateApply _ => none
  | .ldrowPerform _ _ _ => none
  | .wsrdPush _ _ => none
  | .weightStoreRefresh => none
  | .rowOpIssue _ => none
  | .rowBankAct _ => none
  | .rowOpenExpiry _ _ => none
  | .rowRefreshSlot _ => none
  | .actBudgetPeriod => none
  | .rowconStrPush _ _ => none
  | .rowwrBodyTake _ => none
  | .tconStepTake _ => none
  | .tconStepWrite _ => none
  | .wloadGroupTake _ => none
  | .accrdPush _ => none
  | .copyAccept _ _ => none
  | .copyElement _ _ => none
  | .dfabPush _ _ => none
  | .copyCompletion _ _ => none
  | .pralineFetch _ => none
  | .loads _ => none
  | .setscale _ => none
  | .stream _ => none
  | .streamBlockPush _ => none
  | .contract _ => none
  | .zero _ => none
  | .drain _ => none
  | .sync _ => none
  | .jump _ => none
  | .jumpif _ => none
  | .callt _ => none
  | .rett _ => none
  | .endBlk _ => none
  | .taskStop _ => none
  | .preemptRequest _ => none
  | .regionStop _ => none
  | .preptFallback _ => none
  | .scanOut _ => none
  | .loadResume _ => none
  | .budgetExhaust _ => none
  | .budgetPeriodStart => none
  | .npIntervalEnd _ => none
  | .qtailWrite _ _ => none
  | .qcmdStop _ => none
  | .qcmdResume _ => none
  | .qfcmdRestart _ => none
  | .qfcmdAbandon _ => none
  | .qfcmdResume _ => none
  | .schedSeedWrite _ => none
  | .mmuInvGo _ => none
  | .mmuInvComplete => none
  | .mmuSvcMapped _ => none
  | .mmuSvcUnmappable _ => none
  | .hcwCmd _ => none
  | .hcwRd => none
  | .hcwGo => none
  | .tplDataWrite _ => none
  | .tplDataRead => none
  | .fwInstall _ => none
  | .fwAttest => none
  | .rbSelWrite _ => none
  | .rbDataRead => none
  | .staleClear _ _ => none
  | .brgStatClear _ => none
  | .glStatWrite _ _ => none
  | .msixUnmask _ => none
  | .registerWrite _ _ => none
  | .hostBar2Read _ => none
  | .hostBar2Write _ _ => none
  | .deviceReset => none
  | .supplySag => none
  | .sagRecovery => none
  | .powerCapWindow _ => none
  | .thermalLevelChange _ _ => none
  | .thermalTrip _ => none
  | .bridgeFlitReceive _ _ => none
  | .bridgeRetry _ _ => none
  | .bridgeRetrain _ _ => none
  | .allowancePeriod => none
  | .glFlitReceive _ _ => none
  | .glRetrain _ _ => none
  | .creditFlit _ => none
  | .remoteRequestPerform _ _ _ => none
  | .remoteResponse _ _ _ => none
  | .remoteTimeout _ => none
  | .linkTrained _ => none
  | .eccInScrubbing _ => none

/-- The block of a praline header (R364). -/
def decodeBlock (w : BitVec 128) : Except DecodeError Instr :=
  let h := blockOf w
  let op := w.extractLsb' 0 8
  match op.toNat with
  | 0x01 => .ok (.loads h)
  | 0x02 => .ok (.setscale h)
  | 0x03 => .ok (.stream h)
  | 0x04 => .ok (.contract h)
  | 0x05 => .ok (.zero h)
  | 0x06 => .ok (.drain h)
  | 0x07 => .ok (.sync h)
  | 0x10 => .ok (.jump h)
  | 0x11 => .ok (.jumpif h)
  | 0x12 => .ok (.callt h)
  | 0x13 => .ok (.rett h)
  | 0x1F => .ok (.endBlk h)
  | _ => .error (.reservedBlock op)

/-- The opcode and header of a praline block; nothing for the other rows. -/
def blockParts : Instr → Option (Byte × BlockHdr)
  | .nop _ => none
  | .pass _ => none
  | .emit _ => none
  | .tagset _ => none
  | .seqset _ => none
  | .seqget _ => none
  | .demand _ => none
  | .drop _ => none
  | .fwdsel _ => none
  | .add _ => none
  | .sub _ => none
  | .mul _ => none
  | .mulh _ => none
  | .mulhu _ => none
  | .mad _ => none
  | .abs _ => none
  | .neg _ => none
  | .min _ => none
  | .max _ => none
  | .minu _ => none
  | .maxu _ => none
  | .and _ => none
  | .or _ => none
  | .xor _ => none
  | .andn _ => none
  | .shl _ => none
  | .shr _ => none
  | .sar _ => none
  | .rot _ => none
  | .clz _ => none
  | .popc _ => none
  | .brev _ => none
  | .bfx _ => none
  | .bfi _ => none
  | .sel _ => none
  | .cmp _ => none
  | .test _ => none
  | .mov _ => none
  | .movi _ => none
  | .movh _ => none
  | .addr _ => none
  | .idx2 _ => none
  | .pand _ => none
  | .por _ => none
  | .pxor _ => none
  | .pnot _ => none
  | .pmov _ => none
  | .preg _ => none
  | .pregSet _ => none
  | .bcast _ => none
  | .perm _ => none
  | .shuf _ => none
  | .lred _ => none
  | .lscan _ => none
  | .pcount _ => none
  | .first _ => none
  | .fadd _ => none
  | .fsub _ => none
  | .fmul _ => none
  | .fma _ => none
  | .fnma _ => none
  | .fma3 _ => none
  | .fmin _ => none
  | .fmax _ => none
  | .fabs _ => none
  | .fneg _ => none
  | .fcmp _ => none
  | .fclass _ => none
  | .frint _ => none
  | .ftoi _ => none
  | .itof _ => none
  | .frcp _ => none
  | .frsq _ => none
  | .fexpf _ => none
  | .flogf _ => none
  | .fexpins _ => none
  | .fexpext _ => none
  | .fmant _ => none
  | .fdot2 _ => none
  | .fdot4 _ => none
  | .ftri _ => none
  | .cvt _ => none
  | .pack _ => none
  | .unpk _ => none
  | .gscale _ => none
  | .qscale _ => none
  | .cvtov _ => none
  | .scan _ => none
  | .intsc _ => none
  | .union _ => none
  | .join _ => none
  | .rept _ => none
  | .reds _ => none
  | .crddrop _ => none
  | .stoplvLower _ => none
  | .stoplvWrap _ => none
  | .zip _ => none
  | .gchk _ => none
  | .gchkArm _ => none
  | .selk _ => none
  | .selo _ => none
  | .seloClr _ => none
  | .sort8 _ => none
  | .decomp _ => none
  | .comp _ => none
  | .transp _ => none
  | .mrg _ => none
  | .steer _ => none
  | .fanout _ => none
  | .gsel _ => none
  | .mmodeOn _ => none
  | .mmodeOff _ => none
  | .wload _ => none
  | .wrow _ => none
  | .accz _ => none
  | .accrd _ => none
  | .idxset _ => none
  | .tconK64n32 _ => none
  | .tconK32n64 _ => none
  | .tconK128n16 _ => none
  | .tconK16n128 _ => none
  | .tconK256n8 _ => none
  | .tconK8n256 _ => none
  | .tconK64n16x _ => none
  | .tconK32n32x _ => none
  | .ld _ => none
  | .st _ => none
  | .lds _ => none
  | .stf _ => none
  | .sete _ => none
  | .agsrc _ => none
  | .agsnk _ => none
  | .gath _ => none
  | .scat _ => none
  | .waita _ => none
  | .atom _ => none
  | .vradd _ => none
  | .vrmax _ => none
  | .ldrow _ => none
  | .fence _ => none
  | .bxstart _ => none
  | .wsrd _ => none
  | .wsph _ => none
  | .rowact _ => none
  | .rowconSt _ => none
  | .rowconStr _ => none
  | .rowconWs _ => none
  | .rowwr _ => none
  | .rowpre _ => none
  | .rowstat _ => none
  | .phase _ => none
  | .tend _ => none
  | .trig _ => none
  | .launch _ => none
  | .trap _ => none
  | .brk _ => none
  | .prept _ => none
  | .sysrd _ => none
  | .syswr _ => none
  | .wdenter _ => none
  | .halt _ => none
  | .cntrd _ => none
  | .cfgld _ => none
  | .pgbegin _ => none
  | .patbegin _ => none
  | .patend _ => none
  | .crc _ => none
  | .succlo _ => none
  | .succhi _ => none
  | .pgend _ => none
  | .rect _ _ => none
  | .elementFieldWrite _ _ _ => none
  | .wsel _ _ => none
  | .wlo _ _ => none
  | .whi _ _ => none
  | .wctlNone _ _ => none
  | .wctlWrite _ _ => none
  | .wctlRead _ _ => none
  | .tokenDepart _ _ _ => none
  | .tokenArrival _ _ _ => none
  | .sidePortCtrl _ _ => none
  | .reqAbsorb _ _ _ => none
  | .loadPlacement _ => none
  | .lotteryDraw => none
  | .loadActivation _ => none
  | .preloadCopy _ _ => none
  | .tileStart _ => none
  | .loadComplete _ => none
  | .packetStart _ _ => none
  | .packetFinish _ _ => none
  | .trigRelease _ _ => none
  | .launchAppend _ => none
  | .commitPublish _ => none
  | .accessComplete _ _ _ => none
  | .parkedWake _ _ _ => none
  | .translationWalk _ _ _ => none
  | .homeAtomic _ _ _ => none
  | .agsrcPush _ _ => none
  | .agsnkTake _ _ => none
  | .streamCmpl _ _ => none
  | .gathStep _ _ => none
  | .scatStep _ _ => none
  | .rowBodyTake _ _ => none
  | .rowUpdateApply _ => none
  | .ldrowPerform _ _ _ => none
  | .wsrdPush _ _ => none
  | .weightStoreRefresh => none
  | .rowOpIssue _ => none
  | .rowBankAct _ => none
  | .rowOpenExpiry _ _ => none
  | .rowRefreshSlot _ => none
  | .actBudgetPeriod => none
  | .rowconStrPush _ _ => none
  | .rowwrBodyTake _ => none
  | .tconStepTake _ => none
  | .tconStepWrite _ => none
  | .wloadGroupTake _ => none
  | .accrdPush _ => none
  | .copyAccept _ _ => none
  | .copyElement _ _ => none
  | .dfabPush _ _ => none
  | .copyCompletion _ _ => none
  | .pralineFetch _ => none
  | .loads h => some (0x01, h)
  | .setscale h => some (0x02, h)
  | .stream h => some (0x03, h)
  | .streamBlockPush _ => none
  | .contract h => some (0x04, h)
  | .zero h => some (0x05, h)
  | .drain h => some (0x06, h)
  | .sync h => some (0x07, h)
  | .jump h => some (0x10, h)
  | .jumpif h => some (0x11, h)
  | .callt h => some (0x12, h)
  | .rett h => some (0x13, h)
  | .endBlk h => some (0x1F, h)
  | .taskStop _ => none
  | .preemptRequest _ => none
  | .regionStop _ => none
  | .preptFallback _ => none
  | .scanOut _ => none
  | .loadResume _ => none
  | .budgetExhaust _ => none
  | .budgetPeriodStart => none
  | .npIntervalEnd _ => none
  | .qtailWrite _ _ => none
  | .qcmdStop _ => none
  | .qcmdResume _ => none
  | .qfcmdRestart _ => none
  | .qfcmdAbandon _ => none
  | .qfcmdResume _ => none
  | .schedSeedWrite _ => none
  | .mmuInvGo _ => none
  | .mmuInvComplete => none
  | .mmuSvcMapped _ => none
  | .mmuSvcUnmappable _ => none
  | .hcwCmd _ => none
  | .hcwRd => none
  | .hcwGo => none
  | .tplDataWrite _ => none
  | .tplDataRead => none
  | .fwInstall _ => none
  | .fwAttest => none
  | .rbSelWrite _ => none
  | .rbDataRead => none
  | .staleClear _ _ => none
  | .brgStatClear _ => none
  | .glStatWrite _ _ => none
  | .msixUnmask _ => none
  | .registerWrite _ _ => none
  | .hostBar2Read _ => none
  | .hostBar2Write _ _ => none
  | .deviceReset => none
  | .supplySag => none
  | .sagRecovery => none
  | .powerCapWindow _ => none
  | .thermalLevelChange _ _ => none
  | .thermalTrip _ => none
  | .bridgeFlitReceive _ _ => none
  | .bridgeRetry _ _ => none
  | .bridgeRetrain _ _ => none
  | .allowancePeriod => none
  | .glFlitReceive _ _ => none
  | .glRetrain _ _ => none
  | .creditFlit _ => none
  | .remoteRequestPerform _ _ _ => none
  | .remoteResponse _ _ _ => none
  | .remoteTimeout _ => none
  | .linkTrained _ => none
  | .eccInScrubbing _ => none

/-- The encoded forms of the manual: a slot, a command, a block header; an event has none. -/
inductive Code where
  | slot (w : BitVec 128)
  | cmd (w : Word)
  | block (w : BitVec 128)
  | none
deriving DecidableEq, Repr

/-- The words of an instruction, from the encodings of R15, R54, R60 and R358. -/
def encode (i : Instr) : Code :=
  match slotParts i with
  | some (opc, f) => .slot (packSlot opc f)
  | none =>
    match cmdParts i with
    | some w => .cmd w
    | none =>
      match blockParts i with
      | some (op, h) => .block (packBlock op h)
      | none => .none

/-- The instruction of a code. -/
def decode : Code → Except DecodeError Instr
  | .slot w => decodeSlot w
  | .cmd w => decodeCmd w
  | .block w => decodeBlock w
  | .none => .error .noEncoding

/-- The instruction this decoder reads from `nbits` bits, bit 0 the least significant of the first word: a command has 32
bits (R60), a slot 128 (R15, R54), a praline block is a line of 1024 bits whose first 128 are its header (R358). -/
def decodeTableWord (nbits w : Nat) : Option Instr :=
  if nbits ≤ 32 then (decodeCmd (BitVec.ofNat 32 w)).toOption
  else if nbits ≤ 128 then (decodeSlot (BitVec.ofNat 128 w)).toOption
  else (decodeBlock (BitVec.ofNat 128 w)).toOption

end Sys2Proof
end

