-- ==== Sys2Proof/Machine/Unit.lean ====
section
/-!
DEFINITION. The state of the units below the device: an element with its channels, trackers and port, and a region with its
array, praline sequencer, row unit and configuration stream. Every type here is plain data.
-/
namespace Sys2Proof.Machine

/-- The grammar tracker of one input channel (R160, R166): state 0 start, 1 DATA, 2 STOP, 3 DONE. -/
structure Tracker where
  st  : BitVec 2
  lvl : BitVec 3
  lcv : Bool
  lc  : Word
deriving DecidableEq, Repr

/-- A tracker at the start of a stream (R161). -/
def Tracker.start : Tracker := ⟨0, 0, false, 0⟩

/-- The stream unit of a compute element (R165). `block` holds rows 0 to 7 of the block buffer. -/
structure StreamUnit where
  phase : BitVec 5
  flag  : Bool
  spos  : Word
  srem  : Word
  aux0  : Word
  aux1  : Word
  block : SMap (Oct Word)
deriving DecidableEq, Repr

/-- The stream unit at activation (R165). -/
def StreamUnit.zero : StreamUnit := ⟨0, false, 0, 0, 0, 0, []⟩

/-- What a global address translates to (R312, R313): the memory kind, the physical address, the device of a remote address
and the row-scope bit. -/
structure Phys where
  kind : BitVec 3
  addr : Nat
  dev  : Byte
  rs   : Bool
deriving DecidableEq, Repr

/-- Where an issued access stands: `walk` has slots that await translation, `home` is on its way to its tile or home, `parked`
waits for a word (R228), `replay` waits for an entry of a full replay queue (R272), `away` waits for a remote response (R385) or
for an engine to accept its start (R237), `done` has its result. -/
inductive AccPhase where
  | walk
  | home
  | parked
  | replay
  | away
  | done
deriving DecidableEq, Repr

/-- An access that a port has issued and that has not yet delivered its result (R224 to R240).
`slots` are the address slots still to be performed, each with its address; `tr` holds their translations; `addr` is the
address that a CMPL carries; `b` and `c` are operands; `rsv` says that
the entry of channel `chan` was reserved at the firing (R224); `waited` that it has been parked, and is so again while another device is
asked for its word anew (R228); `phase` numbers the task's phase at issue (R263); `conv` is the CONV word
as the firing saw it (R47). -/
structure Access where
  id    : Nat
  slot  : BitVec 4
  opc   : Byte
  f     : Fields
  task  : Word
  phase : Nat
  slots : List (Nat × BitVec 64)
  tr    : SMap Phys
  addr  : BitVec 64
  b     : Oct Word
  c     : Oct Word
  ph    : AccPhase
  res   : Oct Word
  vm    : Byte
  lost  : Bool
  ev    : Byte
  chan  : Option (BitVec 2)
  rsv   : Bool
  seq   : Option (BitVec 12)
  toks  : List Token
  conv  : Half
  waited : Bool
deriving DecidableEq, Repr

/-- The stream engine of a port (R222, R229, R230, R234, R238, R240). `kind` is the code of item 0x076; `born` is the number that its
firing took among the accesses of the port, and `conv` the CONV word as that firing saw it (R47). -/
structure StreamEngine where
  kind  : BitVec 3
  slot  : BitVec 4
  opc   : Byte
  f     : Fields
  ch    : BitVec 2
  ch2   : BitVec 2
  out   : BitVec 2
  i     : Word
  r     : Word
  n     : Word
  base  : BitVec 64
  first : Option (BitVec 64)
  body  : List Token
  ended : Bool
  seq   : Option (BitVec 12)
  born  : Nat
  conv  : Half
deriving DecidableEq, Repr

/-- The port state of a service element (R240). `busy` is one more than the last cycle in which a firing issued an access (R229). -/
structure Port where
  nextId : Nat
  accs   : List Access
  eng    : Option StreamEngine
  busy   : Nat
deriving DecidableEq, Repr

/-- A port that is idle and empty (R6). -/
def Port.idle : Port := ⟨0, [], none, 0⟩

/-- A token in a router, bound for an input channel, with the first cycle at whose end it may arrive (R142). -/
structure Transit where
  due  : Nat
  tok  : Token
deriving DecidableEq, Repr

/-- The state of one element (R6, R27). `regs` holds D0 to D15 under 0 to 15 and A0 to A3 under 24 to 27; `conf` holds the
configuration fields 0 to 239 (slots, route words, configuration words, port words and constants; R61); `rbuf` holds the
tokens in transit toward each input channel, and `away` those steered to its conversion node (R13). `fcyc` is the cycle in which
`faulted`, the fault-pending bit, was set (R425). `spare` and `spareSel` are the
entries beyond the occupancy of a channel or the length of a select list that the state window has written (R29). -/
structure Elem where
  conf    : SMap Half
  regs    : SMap (Oct Word)
  preds   : Oct Byte
  inq     : SMap (List Token)
  outq    : SMap (List Token)
  resv    : SMap Nat
  seqo    : SMap (BitVec 12)
  sflags  : Byte
  sel     : Oct (List (Word × Word))
  halted  : Bool
  faulted : Bool
  fcyc    : Nat
  fvalid  : Bool
  last    : BitVec 4
  wsel    : Half
  wlo     : Half
  whi     : Half
  dcred   : SMap Word
  trk     : SMap Tracker
  su      : StreamUnit
  port    : Port
  rbuf    : SMap (List Transit)
  away    : SMap (List Token)
  spare   : SMap Token
  spareSel : SMap (Word × Word)
deriving DecidableEq, Repr

/-- An element at activation of a page with configuration `conf` (R6, R7). (DESIGN CHOICE, log entry 3) -/
def Elem.fresh (conf : SMap Half) : Elem :=
  ⟨conf, [], Oct.all 0, [], [], [], [], 0, Oct.all [], false, false, 0, false, 0, 0, 0, 0, [], [], StreamUnit.zero, Port.idle,
    [], [], [], []⟩

/-- The output words of a step of a contraction, waiting for the end of cycle `due` (R196). -/
structure StepWrite where
  due   : Nat
  first : Nat
  vals  : List Word
  ev    : Byte
deriving DecidableEq, Repr

/-- The array of a region (R187, R188, R196, R211). `op` is the code of item 0x075; `half` holds the tokens of the first
half of a K256N8 step; `var0` is VAR[0], the `.z` of an ACCRD, and `done` its VAR[1], that a DONE ends it; `begun` is the cycle in which the
step in hand began; `fib` says that a `.fib` contraction took its stops; `cnt` counts the tokens
that an ACCRD has pushed on each south column; `dur` is the first cycle in which the next step may be taken. -/
structure MArray where
  op     : BitVec 3
  thr    : Bool
  lq     : BitVec 4
  prog   : Nat
  armed  : List (BitVec 2)
  desc   : List Word
  opc    : Byte
  efmt   : BitVec 3
  var0   : Bool
  imm    : Half
  done   : Bool
  fib    : Bool
  half   : Option (List Token × List Token)
  begun  : Nat
  dur    : Nat
  cnt    : SMap Nat
  pend   : List StepWrite
  store  : SMap (Oct Word)
  scales : SMap Byte
deriving DecidableEq, Repr

/-- An idle array as `mmode.on` leaves it (R187, R188). -/
def MArray.idle : MArray :=
  ⟨0, false, 0xF, 0, [], List.replicate 8 0, 0, 0, false, 0, false, false, none, 0, 0, [], [], [], []⟩

/-- What the praline sequencer is doing: fetching the block at its address, ready to begin a fetched block in a cycle, or
running one that takes several cycles (R361, R363). -/
inductive SeqPhase where
  | fetch
  | ready
  | run
deriving DecidableEq, Repr

/-- The praline sequencer of a region (R357, R361 to R371). `prog` is its progress in the block in hand, in tokens or 16-byte units; `cont` says
that the array operation of the block that is being fetched again runs already, as a restored region has it (R371). -/
structure Sequencer where
  active : Bool
  parked : Bool
  addr   : BitVec 64
  stack  : List (BitVec 64)
  table  : SMap Byte
  out    : Option (BitVec 2)
  seq    : Option (BitVec 12)
  slot   : BitVec 4
  phase  : SeqPhase
  hdr    : Option Instr
  pay    : List Byte
  lines  : Nat
  prog   : Nat
  from_  : Nat
  cont   : Bool
deriving DecidableEq, Repr

/-- An inactive sequencer with an empty stack and a zero table (R6). -/
def Sequencer.idle : Sequencer := ⟨false, false, 0, [], [], none, none, 0, .fetch, none, [], 0, 0, 0, false⟩

/-- An entry of a row-store port's holding table (R243, R254, R258). `data` is what the open row shows (R255), `lost` are the offsets of its
bytes that were lost as it was opened (R251), and `noted` says which holds of its reopening are counted (R246). -/
structure HoldEntry where
  held   : Bool
  rw     : Bool
  expired : Bool
  reopen : Bool
  col    : Nat
  bank   : Nat
  row    : Nat
  va     : BitVec 64
  data   : List Byte
  lost   : List Nat
  noted  : BitVec 2
deriving DecidableEq, Repr

/-- A row operation of a port (R244, R258). `body` are the body tokens a ROWWR has taken, `pa` is the physical address once it
is issued, `chan` the output reserved for its CMPL, `deferred` and `budget` say that a refresh deferral or a budget hold of it is
already counted. The opcode 0xFF stands for the reopening of a holding-table entry, whose number is in `pa`. -/
structure RowOp where
  opc   : Byte
  f     : Fields
  slot  : BitVec 4
  addr  : BitVec 64
  task  : Word
  seq   : Option (BitVec 12)
  body  : List Token
  fresh : Nat
  pa    : Nat
  chan  : Option (BitVec 2)
  deferred : Bool
  budget : Bool
deriving DecidableEq, Repr

/-- A row latch: the tokens still to be pushed, and their channel (R251). -/
structure RowLatch where
  toks : List Token
  ch   : BitVec 2
  from_ : Nat
deriving DecidableEq, Repr

/-- The row unit of a row-store port (R243 to R258). `issued` are the operations on their way to their banks, in order of issue and all
in one column, each with the first cycle in which it may act; `expiries` counts the rows that were open too long (R245); `cmpl` are completions
due at a later cycle; `stop` says that a row fault has stopped the unit, and `drain`, once the body of a ROWWR has faulted, how many operations
of its queue it still performs, and no more (R252). -/
structure RowUnit where
  table  : SMap HoldEntry
  queue  : List RowOp
  issued : List (RowOp × Nat)
  latch  : SMap RowLatch
  locks  : Word
  defers : Word
  holds  : Word
  expiries : Word
  acts   : Nat
  period : Nat
  cmpl   : List (Nat × BitVec 2 × Option (BitVec 12) × Token)
  stop   : Bool
  drain  : Option Nat
deriving DecidableEq, Repr

/-- A row unit at activation (R6, R254). -/
def RowUnit.empty : RowUnit := ⟨[], [], [], [], 0, 0, 0, 0, 0, 0, [], false, Option.none⟩

/-- The configuration stream of a region: the open page with its shadow, its patterns and its running CRC (R63 to R67), and the
committed page that waits for activation. `pos` counts the page's commands and `ord` gives the position of the last write of a
field, under element·256 + field; `bad` is the first violation met, with its position, detail, unit and slot or field (R64);
`dead` says that a refused window command discards those after it (R66). -/
structure CfgStream where
  isOpen : Bool
  keep   : Bool
  page   : BitVec 12
  shadow : SMap (SMap Half)
  pats   : SMap (List (Byte × Half))
  recd   : Option (BitVec 4)
  crc    : Half
  lo     : Option Half
  hi     : Option Half
  pos    : Nat
  ord    : SMap Nat
  bad    : Option (Nat × Byte × Nat × Nat)
  done   : Option (SMap (SMap Half))
  doneKeep : Bool
  donePage : BitVec 12
  dead   : Bool
deriving DecidableEq, Repr

/-- A stream that has met nothing. -/
def CfgStream.none : CfgStream :=
  ⟨false, false, 0, [], [], Option.none, 0xFFFF, Option.none, Option.none, 0, [], Option.none, Option.none, false, 0, false⟩

/-- A pre-emption request that a region has not met yet (R342, R350): its cycle, whether the array ran at that time, and, once a PREPT has
met it, the live tiles with which the region stops at the end of the cycle. -/
structure StopReq where
  cyc  : Nat
  late : Bool
  live : Option (BitVec 16)
deriving DecidableEq, Repr

/-- The region links that leave a region (R142, R144): the cycle in which a token last took one, what the tokens of that cycle have taken of
the room of each, by direction, and one more than the cycle in which each output, as 4·element + channel, was last served. -/
structure LinkUse where
  cyc  : Nat
  used : SMap Nat
  last : SMap Nat
deriving DecidableEq, Repr

/-- A region (R138, R183, R341). `mode` is the code of R30; `live` is the live-tile mask of its last stop (R350);
`req` is a pre-emption request (R342); `rstate` is the state of REGMAP; `claim` is the urgent load that has claimed the region (R343);
`steers` are the channels, by element, that have tokens out for conversion, in the order in which those left, and `taken` those
whose token the conversion node has taken from its input, in that order (R13). -/
structure Region where
  elems  : SMap Elem
  mode   : BitVec 2
  arr    : MArray
  seq    : Sequencer
  row    : RowUnit
  cfg    : CfgStream
  bxslot : SMap (BitVec 64)
  owner  : Option Nat
  page   : Nat
  rstate : BitVec 4
  req    : Option StopReq
  live   : BitVec 16
  claim  : Option Nat
  steers : List (Nat × Nat)
  taken  : List (Nat × Nat)
  link   : LinkUse
deriving DecidableEq, Repr

/-- A region after reset: no configuration, stream mode, free (R62, R183, R297, R341). (DESIGN CHOICE, log entry 3) -/
def Region.reset : Region :=
  ⟨[], 0, MArray.idle, Sequencer.idle, RowUnit.empty, CfgStream.none, [], Option.none, 0, 0, Option.none, 0xFFFF, Option.none,
    [], [], ⟨0, [], []⟩⟩

end Sys2Proof.Machine
end

