-- ==== Sys2Proof/Machine/State.lean ====
section
/-!
DEFINITION. The state of the device, the reasons a step can stop, and the state after reset. Every part is plain data: maps are
lists of rising keys, and memory is a canonical list of cells.
-/
namespace Sys2Proof.Machine

/-- The one commit of the order of R260 that overwrote bytes: its CSN and the bytes it replaced, for snapshot reads. -/
structure Undo where
  csn : Nat
  old : List Host.Cell
deriving DecidableEq, Repr

/-- A bank of a column (R243, R245): the cycle of its last ACT and the region whose port holds it. Its
open row is in that port's holding table. -/
structure Bank where
  act  : Option Nat
  holder : Option Nat
deriving DecidableEq, Repr

/-- A row update accepted at a home and not yet applied (R234): its sequence number, the port and access that sent it. -/
structure RowUpdate where
  n    : Nat
  reg  : Nat
  elem : Nat
  id   : Nat
  addr : Nat
deriving DecidableEq, Repr

/-- Memory (R217, R219, R241, R260, R313). `bytes` lists physical addresses in rising order and no byte that is zero, which is
what an unlisted address reads as (R415). `full` lists the full 64-bit words of scratchpad by physical address divided by 8, and `lost` the bytes that
uncorrectable errors have taken. `rowwin` holds the row-scoped windows whose page-table entries have been
used, by the entry's address: the physical base and the bytes that it maps (R233). -/
structure Mem where
  bytes  : List Host.Cell
  full   : List Nat
  lost   : List Nat
  rowver : SMap Half
  rowwin : SMap (Nat × Nat)
  host   : SMap Byte
  csn    : Nat
  undo   : List Undo
  banks  : SMap Bank
  colUse : SMap Nat
  rowq   : List RowUpdate
  rowseq : Nat
deriving DecidableEq, Repr

/-- A phase boundary that has fired and whose commit is not yet published (R263, R326). `kind` is the opcode; `phase` numbers
the version it commits; `arg` and `q` are the packet address and the device queue of a LAUNCH, and `out` says that `chan` is the output
that its slot names, not that of its CMPL. -/
structure Boundary where
  kind  : Byte
  cycle : Nat
  phase : Nat
  reg   : Nat
  elem  : Nat
  slot  : BitVec 4
  chan  : Option (BitVec 2)
  seq   : Option (BitVec 12)
  arg   : BitVec 64
  q     : Nat
  out   : Bool
deriving DecidableEq, Repr

/-- The current task of a load (R306): its identifier and the watermark of its phase's snapshot. -/
structure Task where
  id  : Word
  csn : Nat
deriving DecidableEq, Repr

/-- The life of a fabric load (R148, R341, R344): `waiting` for placement, `loading` its pages, `preload` copying its preload
entries, `running` its tiles, `ended` after its last commit, `faulted` stopped under R307 and held. -/
inductive LoadPhase where
  | waiting
  | loading
  | preload
  | running
  | ended
  | faulted
deriving DecidableEq, Repr

/-- The pre-emption of a load (R342 to R345): none, requested in a cycle, stopped in place, or scanned out. -/
inductive StopPhase where
  | none
  | asked
  | stopped
  | out
deriving DecidableEq, Repr

/-- A page of a load: its region while it has one, the loader's address in its stream, whether it committed, the address
of its PGBEGIN (R148), and the configuration that a restart loads a KEEP page over (R308). -/
structure PageSt where
  reg  : Option Nat
  ptr  : BitVec 64
  base : BitVec 64
  done : Bool
  conf : Option (SMap (SMap Half))
deriving DecidableEq, Repr

/-- A fault of R319 with the fields its record gives (R320); `time` is the cycle in which it was raised, where its record is written
later, and `who` the task to which the access that faults belongs (R306), where that may not be the current one. -/
structure FaultRec where
  cls    : Byte
  det    : Byte
  parked : Bool
  resum  : Bool
  second : Bool
  eng    : Bool
  addrv  : Bool
  seqv   : Bool
  notask : Bool
  page   : Nat
  reg    : Nat
  unit   : Nat
  slot   : Nat
  chan   : Byte
  opc    : Byte
  hseq   : BitVec 12
  addr   : BitVec 64
  time   : Option Nat
  who    : Option Word
deriving DecidableEq, Repr

/-- A fabric load in progress (R148 to R153, R306 to R309, R342 to R346). `vers` holds the versions of the task by phase number
(R262, R263); `ended` says that the task's TEND has fired and its commit is not yet published, so that no task is current (R327);
`again` that the load was activated before, so that its next activation is a restart (R308); `pre` lists the preload entries
still to be copied; `frecs` are the records that a stop of R307 will write, the stopping one first, `fcyc` is the cycle in which it
was raised, `abn` says that the load is being abandoned (R309), and `brk` is the record of a BRK that stops it (R330). `claims` says that it is an urgent load that has won a draw and claims
regions (R343), and `back` is the cycle in which it took its own regions back (R345). `snaps` are the snapshots of earlier phases some
load of which is still to be performed, `kept` the committed versions of those phases, and `vbad` the lines of its versions that have met an
uncorrectable error (R263). `past` gives the snapshot and the tile of the load's ended tasks (R320), and `redo` says that the load is
restarted once what it has issued has run to completion (R307, R330). -/
structure Load where
  queue  : Nat
  pkt    : Nat
  index  : Nat
  addr   : BitVec 64
  npage  : Nat
  tiles  : Nat
  ph     : LoadPhase
  pages  : List PageSt
  tile   : Nat
  due    : Bool
  task   : Option Task
  ended  : Bool
  again  : Bool
  phase  : Nat
  vers   : SMap (List Host.Cell)
  bounds : List Boundary
  pre    : List Nat
  stop   : StopPhase
  frecs  : List FaultRec
  fcyc   : Nat
  abn    : Bool
  restarts : Nat
  actNs  : Nat
  brk    : Option FaultRec
  claims : Bool
  back   : Option Nat
  snaps  : SMap Nat
  kept   : SMap (List Host.Cell)
  vbad   : List Nat
  past   : SMap (Nat × Nat)
  redo   : Bool
  streams : SMap Nat
deriving DecidableEq, Repr

/-- A launch packet (R332 to R336): the graph's descriptor, its arguments and state. `st` is 0 appended by LAUNCH, 1 started, 2 its own
work complete, 3 abandoned; `fin` says that it has finished, with STATUS written. `load` is its load in progress. `bad` says that the
queue is held for a fault that belongs to no load (R324), in the step that `next` names: 0 the packet and the graph's start, i + 1
the choice of a successor of load i. `trig` says that a TRIG of the graph has fired; `relp` is TAIL as its commit was published, while the
release is still to be made (R335). `keepOf` are the regions reserved for KEEP pages, by page index (R152); `nload` and `table` are the
graph's load count and preload table as they were checked. -/
structure Packet where
  gaddr  : BitVec 64
  tiles  : Word
  nload  : Nat
  table  : List (List Byte)
  nrel   : BitVec 4
  args   : Oct Word
  st     : BitVec 2
  fin    : Bool
  load   : Option Nat
  bad    : Bool
  next   : Nat
  trig   : Bool
  relp   : Option Word
  parent : Option (Nat × Nat)
  retries : Nat
  keepOf : List (Nat × Nat)
deriving DecidableEq, Repr

/-- The registers and state of a launch queue (R322, R333 to R335, R347). `rel` is the number of packets that may have started
(R335); `saved` is PROG as saved at switch-out; `shadow` is the tail that waits; `byCmd` says whether QCMD 1 switched it out; `usedNs`
counts the region-time of the period in units of 1/21 ns (R339). -/
structure Queue where
  base   : BitVec 64
  log2n  : Nat
  tail   : Word
  prog   : Word
  tick   : Half
  budget : BitVec 17
  usedNs : Nat
  np     : Bool
  urg    : Bool
  part   : BitVec 4
  terr   : Bool
  swout  : Bool
  byCmd  : Bool
  saved  : Word
  shadow : Option Word
  held   : Bool
  brkh   : Bool
  abn    : Bool
  budx   : Bool
  rel    : Word
  pkts   : SMap Packet
  frbase : BitVec 64
  rlim   : Byte
  brken  : Bool
  ovf    : Bool
  pol    : BitVec 2
  frlog  : Nat
  frwr   : Word
  frrd   : Word
  excl   : Bool
deriving DecidableEq, Repr

/-- A launch queue after reset (R322, R333). -/
def Queue.reset : Queue :=
  ⟨0, 4, 0, 0, 1, 0x1FFFF, 0, false, false, 0, false, false, false, 0, none, false, false, false, false, 0, [], 0, 0, false,
    false, 0, 4, 0, 0, false⟩

/-- A save slot in use (R344): the partition and slot number, the load and page, the region it came from, and what the image
holds: the region's state, the bytes of its scratchpad and weight-store block, and the full and lost words, all by offset: the
scratchpad from 0 and the block from 0x80000. `len` is the length of the image in memory, and `cells` its bytes there as they were written. -/
structure SaveSlot where
  part : BitVec 4
  slot : Nat
  load : Nat
  page : Nat
  reg  : Nat
  img  : Region
  mem  : List Host.Cell
  full : List Nat
  lost : List Nat
  len  : Nat
  cells : List Host.Cell
deriving DecidableEq, Repr

/-- A LAUNCH whose commit is published and whose packet is still to be appended (R349): the launching graph's packet, the task with its load
index, tile and snapshot, the device queue, the packet's address, the entry that its token takes, and the packet's bytes once the hub has
read them. -/
structure Launch where
  load : Nat
  queue : Nat
  pkt  : Nat
  task : Word
  index : Nat
  tile : Nat
  csn : Nat
  dest : Nat
  addr : BitVec 64
  reg  : Nat
  elem : Nat
  slot : BitVec 4
  chan : Option (BitVec 2)
  seq  : Option (BitVec 12)
  out  : Bool
  data : Option (List Byte)
deriving DecidableEq, Repr

/-- The scheduler's registers (R341), and the LAUNCHes that the hub has still to append. `stale0` are the STALE counters as they stood at the
start of the cycle (R352), and `carry` the part of this cycle that falls into a budget period begun in it (R339). -/
structure Sched where
  seed   : Word
  nplim  : Nat
  priv   : Half
  save   : SMap (BitVec 64)
  actb   : SMap Byte
  tpl    : SMap (BitVec 32)
  tsel   : Word
  rswin  : SMap (BitVec 64)
  rslim  : SMap (BitVec 64)
  stale  : SMap Nat
  stale0 : SMap Nat
  carry  : Nat
  saves  : List SaveSlot
  nextTask : Word
  nextLoad : Nat
  fseq   : Nat
  launches : List Launch
deriving DecidableEq, Repr

/-- A cached translation of a stack (R316): the partition, the page's address divided by 64 KiB, the leaf entry, the level it
lies at and the entry's own address. -/
structure TlbEntry where
  stack : Nat
  part : BitVec 4
  page : Nat
  leaf : BitVec 64
  lvl  : Nat
  at_  : Nat
deriving DecidableEq, Repr

/-- An entry of a stack's replay queue (R272): the port and access whose store waits, its address slot and page. `go` says that the page is
mapped and that the store waits for its turn. -/
structure Replay where
  stack : Nat
  load  : Nat
  reg   : Nat
  elem  : Nat
  id    : Nat
  slot  : Nat
  part  : BitVec 4
  page  : Nat
  go    : Bool
deriving DecidableEq, Repr

/-- The translation registers and queues (R272, R315 to R318). `invHeld` are the accesses, by load, region, element and number,
that an invalidation in progress waits for. `parks` are the parks that have their record, each as its load, task and page (R318). -/
structure Mmu where
  root   : SMap (BitVec 64)
  invGo  : Bool
  invHeld : List (Nat × Nat × Nat × Nat)
  tlb    : List TlbEntry
  replay : List Replay
  parks  : List (Nat × Word × Nat)
deriving DecidableEq, Repr

/-- A start that waits at an engine channel, and the task that fired it (R281), with what a record of it names (R320): its packet, load
index and tile. -/
structure Start where
  idx  : Word
  reg  : Nat
  elem : Nat
  id   : Nat
  load : Nat
  task : Word
  part : BitVec 4
  queue : Nat
  pkt  : Nat
  index : Nat
  tile : Nat
deriving DecidableEq, Repr

/-- A write in the spill buffer (R291): its number among all of them, the page that was not mapped, and its bytes by virtual address. -/
structure Spill where
  seq   : Nat
  page  : Nat
  cells : List Host.Cell
deriving DecidableEq, Repr

/-- A copy in progress (R281 to R300): the captured template as sixteen 64-bit words, the captured adjustments and starter, and the
ordinal of the next element. `keep` holds the scratchpad bytes that the copy has overwritten, as they were (R287); `fab` the bytes
waiting for a fabric channel and `grp` the tokens of the current group (R296); `spill` the writes in the spill buffer and `parked`
their pages (R291). `hand` are bytes of one 64-bit word of the destination, by virtual address, that are not yet written (R267, R269). `got` are bytes that another device has returned for the element in hand, `asked` is the address at which
some are awaited, and `acks` counts its stores there that are not acknowledged (R385). `held` lists the scanned-out regions that the copy touches,
`unsure` those of which it cannot be told before another device has answered, and `reloc` where a region that it named has been restored
(R300). `num` tells the copies apart, and `keepLost` are the kept bytes that were lost to an uncorrectable error (R227, R287). -/
structure Copy where
  num   : Nat
  tpl   : List (BitVec 64)
  adjs  : BitVec 64
  adjd  : BitVec 64
  by_   : Start
  pos   : Nat
  keep  : List Host.Cell
  keepLost : List Nat
  fab   : List Byte
  grp   : Nat
  spill : List Spill
  hand  : List Host.Cell
  parked : List Nat
  got   : List Host.Cell
  asked : Option (BitVec 64)
  acks  : Nat
  held  : List Nat
  unsure : List Nat
  reloc : SMap Nat
deriving DecidableEq, Repr

/-- A channel of a region window's engines (R279 to R281). -/
structure Channel where
  adjs   : BitVec 64
  adjd   : BitVec 64
  starts : List Start
  run    : Option Copy
deriving DecidableEq, Repr

/-- A free channel. -/
def Channel.free : Channel := ⟨0, 0, [], none⟩

/-- The block-transfer engines: the template tables by stack·65536 + entry·16 + word (R282), and the channels by
region·64 + channel (R279). `orphans` are copies that a fault has ended while some of their writes wait in the spill buffer, with
their channels (R299). `nspill` and `ncopy` number the spilled writes and the copies, and `due` are the serviced pages, by partition, whose replay goes on (R291). -/
structure Engines where
  tpl   : SMap (BitVec 64)
  chans : SMap Channel
  orphans : List (Nat × Copy)
  nspill : Nat
  ncopy : Nat
  due   : List (BitVec 4 × Nat)
deriving DecidableEq, Repr

/-- A request on its way to another device (R385, R388): the tag, the device, the port and access, its deadline on the reference timer,
the bytes that its response carries, and its slot and opcode. A request of a copy has 2^64 plus the copy's number as its load and the copy's
partition as its slot. An ATOM whose old data have come waits on, with nothing to carry, for its
acknowledgement. `task` is the task that the access belongs to. -/
structure Remote where
  tag  : BitVec 16
  dev  : Byte
  load : Nat
  task : Option Word
  reg  : Nat
  elem : Nat
  id   : Nat
  due  : Nat
  want : Nat
  slot : BitVec 4
  opc  : Byte
deriving DecidableEq, Repr

/-- A request or a response of another device, while its units are assembled (R385). -/
structure Inbound where
  dev    : Byte
  ukind  : Nat
  stream : Byte
  tag    : BitVec 16
  hdr    : Word
  units  : List (List Byte)
deriving DecidableEq, Repr

/-- A bridge edge (R379 to R382, R394): the next sequence numbers sent and expected, the flits that wait for their
acknowledgement, the retry and retraining counters, and the successive failures. `due` is the cycle by which each of those flits arrives on an
edge without failures (R142), and `hold` are flits that wait for room or for their allowance, each with that cycle (R380). -/
structure Edge where
  up      : Bool
  down    : Bool
  txSeq   : BitVec 12
  rxSeq   : BitVec 12
  retryBuf : List BridgeFlit
  retry   : Half
  retrain : Byte
  fails   : Nat
  lost    : Nat
  due     : List Nat
  hold    : List (BridgeFlit × Nat)
deriving DecidableEq, Repr

/-- An edge after bring-up (R394, R415). -/
def Edge.reset : Edge := ⟨true, false, 0, 0, [], 0, 0, 0, 0, [], []⟩

/-- A Glosutus link (R383 to R388, R394): credits are counted in flits sent since training, counts reported by the peer, and
counts of its own freed buffers. `out` is the retry buffer; `ctl` are the acknowledgement, negative-acknowledgement and credit flits
that the link has sent. -/
structure GLink where
  enable  : Bool
  up      : Bool
  down    : Bool
  crcErr  : Word
  retrain : Byte
  txSeq   : BitVec 12
  rxSeq   : BitVec 12
  out     : List (List Byte)
  ctl     : List (List Byte)
  sent0   : Half
  sent1   : Half
  peer0   : Half
  peer1   : Half
  freed0  : Half
  freed1  : Half
  told0   : Half
  told1   : Half
  fails   : Nat
  lost    : Nat
deriving DecidableEq, Repr

/-- A Glosutus link after reset (R394). -/
def GLink.reset : GLink := ⟨false, false, false, 0, 0, 0, 0, [], [], 0, 0, 0, 0, 0, 0, 0, 0, 0, 0⟩

/-- Bridges, links and the load-store domain (R378 to R394). `spent` counts the flits a stream of an edge has sent in the
current allowance period; `wait` holds the flits not yet sent on a link, each with its stream and, for one that is forwarded, the link
whose buffer it holds. -/
structure Links where
  edges  : SMap Edge
  allow  : SMap (BitVec 64)
  gl     : SMap GLink
  route  : SMap Half
  remote : List Remote
  inb    : List Inbound
  ready  : List Inbound
  nextTag : BitVec 16
  wait    : List (Nat × List Byte × Option Nat)
  spent  : SMap Nat
deriving DecidableEq, Repr

/-- The hub block, the host windows, MSI-X and the device ring (R322, R392 to R397). `hcwq` are the window commands that wait, each with
its region (R397); `pend` is the pending-bit array; `dfctl` holds the writable bits of DFRCTL beside its size and its OVF. -/
structure Hub where
  dom    : BitVec 8
  dev    : Byte
  wsdrop : Bool
  hcwSel : BitVec 10
  hcwRd  : List Word
  hcwq   : List (Nat × Word)
  tplSel : BitVec 32
  msix   : SMap (BitVec 64)
  pend   : List Nat
  dfbase : BitVec 64
  dfovf  : Bool
  dflog  : Nat
  dfwr   : Word
  dfrd   : Word
  dfctl  : BitVec 32
deriving DecidableEq, Repr

/-- Power, thermal control, firmware and readback (R409 to R420). `sagEnd` is the first cycle in which a stretch for a sag may end, and
`healed` says that the rail has recovered by then; `capAt` is the reference time at which the window of the power cap began; `rb`
are the words of the latched readback entry that are still to be read. `fwimg` is the image stored since the part was delivered, if one was,
and `fwjob` a firmware command under way, with its length; `fwErr` says that the bus does not deliver its image (R418). `cycAt` is the cycle
counter at the begin of the window of the power cap. -/
structure Power where
  cap    : Nat
  capped : Bool
  watts  : Nat
  clkpct : Nat
  trip   : Bool
  sag    : Bool
  sagEnd : Option Nat
  healed : Bool
  capAt  : Nat
  cycAt  : Nat
  fwsrc  : BitVec 64
  reason : Byte
  fwst   : BitVec 4
  fwimg  : Option (List Byte)
  fwjob  : Option (BitVec 2 × Word)
  fwErr  : Bool
  rb     : List (BitVec 64)
  temp   : SMap Nat
  lvl    : SMap (BitVec 2)
  rdy    : Bool
deriving DecidableEq, Repr

/-- An act of the device: the firing of a slot, a configuration command at a region (of the host's window or of the loader), a
step of the loader at a page of a load, a praline block at a region, the event REMOTE_TIMEOUT of a request, the event FW_INSTALL of an image
with its length, or another event.
(DESIGN CHOICE, log entry 1) -/
inductive Act where
  | fire (r e s : Nat)
  | cmd (r : Nat) (host : Bool) (w : Word)
  | loader (ld p : Nat)
  | block (r : Nat)
  | timeout (tag : Nat)
  | install (len : Word)
  | event (i : Instr)
deriving DecidableEq, Repr

/-- Where the instruction in hand acts: the region, element and slot of a firing, and whether a command comes from the
host's window. (DESIGN CHOICE, log entry 1) -/
structure Site where
  reg  : Nat
  elem : Nat
  slot : Nat
  host : Bool
deriving DecidableEq, Repr

/-- The state of the device. `cyc` is the fabric-cycle counter and `rt` the reference timer in units of 1/21 ns (one
unstretched cycle is 10 of them); `wsref` says that the weight store is in its refresh phases (R238). The fields `agenda`,
`inbox`, `cur`, `tick`, `ret` and `msi` are the model's own: the acts of the current cycle still to be done, the acts of the
world outside that wait, the site in hand, the counter of free values, the words last returned to the host and the interrupt
vectors raised. -/
structure State where
  regions : SMap Region
  mem     : Mem
  loads   : SMap Load
  queues  : SMap Queue
  sched   : Sched
  mmu     : Mmu
  eng     : Engines
  links   : Links
  hub     : Hub
  pwr     : Power
  cyc     : Nat
  rt      : Nat
  wsref   : Bool
  agenda  : List Act
  inbox   : List Act
  cur     : Site
  tick    : Nat
  ret     : List (BitVec 64)
  msi     : List Nat
deriving DecidableEq, Repr

/-- Reasons for which a step could stop with a fault. The device takes every fault of R319 itself: the record is written and
the machine goes on, so no meaning ends here. -/
inductive Fault where
  /-- Raised by no meaning: after a thermal trip (R413) the fabric stands still, and a step only serves the host. -/
  | halted
deriving DecidableEq, Repr

/-- Reasons for which the model refuses a step. -/
inductive Refusal where
  /-- Raised by `exec` for an instruction that has no meaning yet, named by its mnemonic. Safe. -/
  | notModelled (mnemonic : String)
  /-- Raised by `step` when the slot that the machine is about to run decodes to no instruction. Page verification keeps such words
  out of every enabled slot (R59, R64), so only a state no run reaches gets here. Safe. -/
  | undecodable
deriving DecidableEq, Repr

/-- Memory after reset: every byte zero, every word empty, every version zero, and the first CSN 1 (R260, R415). -/
def Mem.reset : Mem := ⟨[], [], [], [], [], [], 1, [], [], [], [], 0⟩

/-- The scheduler's registers after reset (R306, R341). -/
def Sched.reset : Sched := ⟨0x9E3779B9, 1000, 0, [], [], [], 0, [], [], [], [], 0, [], 1, 0, 1, []⟩

/-- Translation after reset (R317). -/
def Mmu.reset : Mmu := ⟨[], false, [], [], [], []⟩

/-- The links after bring-up (R394, R415): every die edge trained, every Glosutus link down. -/
def Links.reset : Links := ⟨[], [], [], [], [], [], [], 0, [], []⟩

/-- The hub after reset (R322, R393, R396). -/
def Hub.reset : Hub := ⟨0, 0, false, 0, [], [], 0, [], [], 0, false, 4, 0, 0, 0⟩

/-- Power and management after bring-up (R414, R415): the cap at 3000 W, the clock at 100 percent, RDY set. -/
def Power.reset : Power := ⟨3000, false, 0, 100, false, false, none, false, 0, 0, 0, 0, 0, none, none, false, [], [], [], true⟩

/-- The device right after reset, as R415 leaves it, with RDY set and nothing launched.
(DESIGN CHOICE, log entries 1, 3, 8; DEDUCED, log entry 110) -/
def State.reset : State where
  regions := []
  mem := Mem.reset
  loads := []
  queues := []
  sched := Sched.reset
  mmu := Mmu.reset
  eng := ⟨[], [], [], 0, 0, []⟩
  links := Links.reset
  hub := Hub.reset
  pwr := Power.reset
  cyc := 0
  rt := 0
  wsref := true
  agenda := []
  inbox := []
  cur := ⟨0, 0, 0, false⟩
  tick := 0
  ret := []
  msi := []

end Sys2Proof.Machine
end

