-- ==== Sys2Proof/Machine/Ops.lean ====
section
/-!
DEFINITION. The named operations over elements, memory and the device: reading and writing registers, channels and
configuration, byte memory with its full bits, and the taking of a fault, its record and the return from it.
-/
namespace Sys2Proof.Machine

/- Elements: configuration, registers, channels. -/

/-- What a configuration field reads as where the stream has not written it (R62, R63, R223). -/
def confDefault (k : Nat) : Half :=
  match k with
  | 161 => 0x00FF
  | 163 => 0xFFFF
  | 164 => 0xFFFF
  | 175 => 0x07FF
  | _ => 0

/-- Configuration field `k` of an element (R61). -/
def Elem.field (e : Elem) (k : Nat) : Half := SMap.get confDefault e.conf k

/-- Slot `n` of a configuration (R61): half-word h holds slot bits [16h+15:16h]. -/
def slotOf (c : SMap Half) (n : Nat) : BitVec 128 :=
  let h := fun i => SMap.get confDefault c (8 * n + i)
  h 7 ++ h 6 ++ h 5 ++ h 4 ++ h 3 ++ h 2 ++ h 1 ++ h 0

/-- Slot `n` of an element. -/
def Elem.slot (e : Elem) (n : Nat) : BitVec 128 := slotOf e.conf n

/-- Constant Ck of an element (R61). -/
def Elem.const (e : Elem) (k : Nat) : Word := e.field (177 + 2 * k) ++ e.field (176 + 2 * k)

/-- The element with field `k` of its configuration replaced. -/
def Elem.setField (e : Elem) (k : Nat) (v : Half) : Elem := { e with conf := SMap.set e.conf k v }

/-- The element with constant Ck replaced (R208). -/
def Elem.setConst (e : Elem) (k : Nat) (v : Word) : Elem :=
  (e.setField (176 + 2 * k) (v.extractLsb' 0 16)).setField (177 + 2 * k) (v.extractLsb' 16 16)

/-- Register `k`: D0 to D15 under 0 to 15, A0 to A3 under 24 to 27 (R6, R55). -/
def Elem.reg (e : Elem) (k : Nat) : Oct Word := SMap.get (fun _ => Oct.all 0) e.regs k

/-- The element with register `k` replaced. -/
def Elem.setReg (e : Elem) (k : Nat) (v : Oct Word) : Elem := { e with regs := SMap.set e.regs k v }

/-- The tokens of input channel Ik, head first (R12). -/
def Elem.inQ (e : Elem) (k : Nat) : List Token := SMap.get (fun _ => []) e.inq k

/-- The tokens of output channel Oc, oldest first (R12). -/
def Elem.outQ (e : Elem) (c : Nat) : List Token := SMap.get (fun _ => []) e.outq c

/-- The head token of Ik, if any. -/
def Elem.head (e : Elem) (k : Nat) : Option Token := (e.inQ k).head?

/-- Reserved entries of Oc (R224). -/
def Elem.reserved (e : Elem) (c : Nat) : Nat := SMap.get (fun _ => 0) e.resv c

/-- Whether Oc holds fewer than four tokens, a reserved entry counting as one (R17, R224). -/
def Elem.room (e : Elem) (c : Nat) : Bool := decide ((e.outQ c).length + e.reserved c < 4)

/-- Whether Ik holds fewer than four tokens (R12). -/
def Elem.inRoom (e : Elem) (k : Nat) : Bool := decide ((e.inQ k).length < 4)

/-- Output sequence counter SEQOc (R11). -/
def Elem.seqOut (e : Elem) (c : Nat) : BitVec 12 := SMap.get (fun _ => 0) e.seqo c

/-- Demand credit DCREDc (R145). -/
def Elem.credit (e : Elem) (c : Nat) : Word := SMap.get (fun _ => 0) e.dcred c

/-- The grammar tracker of Ik (R160). -/
def Elem.tracker (e : Elem) (k : Nat) : Tracker := SMap.get (fun _ => Tracker.start) e.trk k

/-- Removes the head of Ik. -/
def Elem.dequeue (e : Elem) (k : Nat) : Elem := { e with inq := SMap.set e.inq k ((e.inQ k).drop 1) }

/-- Removes the heads of the listed channels. -/
def Elem.dequeueAll (e : Elem) (ks : List Nat) : Elem := ks.foldl Elem.dequeue e

/-- Appends a token to Ik. -/
def Elem.enqueue (e : Elem) (k : Nat) (t : Token) : Elem := { e with inq := SMap.set e.inq k (e.inQ k ++ [t]) }

/-- Whether Oc is gated by demand (R145): some INCFG word has REQS set with RQO = c. -/
def Elem.gated (e : Elem) (c : Nat) : Bool :=
  [0, 1, 2, 3].any fun k =>
    let w := e.field (144 + k)
    w.getLsbD 14 && (w.extractLsb' 12 2).toNat == c

/-- Kind codes of tokens (R10). -/
def kData : BitVec 3 := 0
/-- STOP. -/
def kStop : BitVec 3 := 1
/-- DONE. -/
def kDone : BitVec 3 := 2
/-- CMPL. -/
def kCmpl : BitVec 3 := 3
/-- CTRL. -/
def kCtrl : BitVec 3 := 4
/-- REQ. -/
def kReq : BitVec 3 := 5
/-- OVF. -/
def kOvf : BitVec 3 := 6
/-- POISON. -/
def kPoison : BitVec 3 := 7

/-- Whether a DATA push on Oc has the credit that demand asks for (R145). -/
def Elem.mayPush (e : Elem) (c : Nat) (kind : BitVec 3) : Bool :=
  kind != kData || !e.gated c || e.credit c != 0

/-- Appends a token to Oc and increments SEQOc (R11); a DATA push on a gated channel takes one credit (R145). -/
def Elem.push (e : Elem) (c : Nat) (t : Token) : Elem :=
  { e with
    outq := SMap.set e.outq c (e.outQ c ++ [t])
    seqo := SMap.set e.seqo c (e.seqOut c + 1)
    dcred := if t.kind == kData && e.gated c then SMap.set e.dcred c (e.credit c - 1) else e.dcred }

/-- Appends several tokens, each to its channel, in order. -/
def Elem.pushAll (e : Elem) (ts : List (Nat × Token)) : Elem := ts.foldl (fun e p => e.push p.1 p.2) e

/-- Reserves an entry of Oc for a single result, with its credit where it is DATA and Oc is gated (R224). -/
def Elem.reserve (e : Elem) (c : Nat) (kind : BitVec 3) : Elem :=
  { e with
    resv := SMap.set e.resv c (e.reserved c + 1)
    dcred := if kind == kData && e.gated c then SMap.set e.dcred c (e.credit c - 1) else e.dcred }

/-- Puts a token into a reserved entry of Oc (R224). Its seq is the one given, or SEQOc at the push (R11). -/
def Elem.deliver (e : Elem) (c : Nat) (sq : Option (BitVec 12)) (t : Token) : Elem :=
  { e with
    outq := SMap.set e.outq c (e.outQ c ++ [{ t with seq := sq.getD (e.seqOut c) }])
    seqo := SMap.set e.seqo c (e.seqOut c + 1)
    resv := SMap.set e.resv c (e.reserved c - 1) }

/-- Writes register `k` in the lanes of `m` only (R21). -/
def Elem.writeLanes (e : Elem) (k : Nat) (m : Byte) (v : Oct Word) : Elem :=
  let old := e.reg k
  e.setReg k (Oct.ofFn fun l => if m.getLsbD l then v.get l else old.get l)

/-- Writes predicate pk in the lanes of `m` with the bits of `v` (R23). -/
def Elem.writePred (e : Elem) (k : Nat) (m v : Byte) : Elem :=
  { e with preds := Oct.ofFn fun l =>
      let p := e.preds.get l
      if m.getLsbD l then
        (if v.getLsbD l then p ||| (1#8 <<< k) else p &&& ~~~(1#8 <<< k))
      else p }

/-- ORs events into SFLAGS (R24). -/
def Elem.flag (e : Elem) (ev : Byte) : Elem := { e with sflags := e.sflags ||| ev }

/-- Marks slot `n` as the one that fired last (R30). -/
def Elem.markFired (e : Elem) (n : Nat) : Elem := { e with fvalid := true, last := BitVec.ofNat 4 n }

/-- A byte with the bits for which `p` holds. -/
def maskOf (p : Nat → Bool) : Byte :=
  (List.range 8).foldl (fun m l => if p l then m ||| (1#8 <<< l) else m) 0

/-- The header word of a token (R8). -/
def tokHeader (t : Token) : Word := t.seq ++ t.vmask ++ t.fmt ++ t.kind ++ t.lvl ++ 0#3

/-- A token from its header and lanes (R8): the reserved bits are ignored. -/
def tokOfHeader (h : Word) (lanes : Oct Word) : Token :=
  ⟨h.extractLsb' 20 12, h.extractLsb' 12 8, h.extractLsb' 9 3, h.extractLsb' 6 3, h.extractLsb' 3 3, lanes⟩

/-- A token without data of a kind and level (R164). -/
def markTok (kind lvl : BitVec 3) : Token := ⟨0, 0, 0, kind, lvl, Oct.all 0⟩

/-- A DATA token (R226). -/
def dataTok (fmt : BitVec 3) (vm : Byte) (lanes : Oct Word) : Token := ⟨0, vm, fmt, kData, 0, lanes⟩

/-- A POISON token (R227). -/
def poisonTok (fmt : BitVec 3) : Token := ⟨0, 0, fmt, kPoison, 0, Oct.all 0⟩

/-- A STOP or DONE that a port, the array or the sequencer makes: valid in every lane. Its fmt and lanes, which no rule states, are free
values from the counter `n` on (DEDUCED, log entry 22). -/
def portMark (n : Nat) (kind lvl : BitVec 3) : Token :=
  ⟨0, 0xFF, BitVec.ofNat 3 (Config.choice n), kind, lvl, Oct.ofFn fun l => BitVec.ofNat 32 (Config.choice (n + 1 + l))⟩

/-- A CMPL token (R224): an address, the opcode, and floating events. (DEDUCED, log entry 37) -/
def cmplTok (addr : BitVec 64) (opc ev : Byte) : Token :=
  ⟨0, 0x07, 0, kCmpl, 0, ⟨addr.extractLsb' 0 32, addr.extractLsb' 32 32, (0 : Byte) ++ ev ++ (0 : Byte) ++ opc, 0, 0, 0, 0, 0⟩⟩

/- Regions of the state. -/

/-- Region `r`. -/
def State.region (s : State) (r : Nat) : Region := SMap.get (fun _ => Region.reset) s.regions r

/-- The state with region `r` replaced. -/
def State.setRegion (s : State) (r : Nat) (g : Region) : State := { s with regions := SMap.set s.regions r g }

/-- Element `e` of a region. -/
def Region.elem (g : Region) (e : Nat) : Elem := SMap.get (fun _ => Elem.fresh []) g.elems e

/-- The region with element `e` replaced. -/
def Region.setElem (g : Region) (e : Nat) (x : Elem) : Region := { g with elems := SMap.set g.elems e x }

/-- The state with region `r` changed by a function. -/
def State.onRegion (s : State) (r : Nat) (g : Region → Region) : State := s.setRegion r (g (s.region r))

/-- Element `e` of region `r`. -/
def State.elem (s : State) (r e : Nat) : Elem := (s.region r).elem e

/-- The state with element `e` of region `r` replaced. -/
def State.setElem (s : State) (r e : Nat) (x : Elem) : State := s.setRegion r ((s.region r).setElem e x)

/-- The free value of the next count (the model's choice where the spec leaves one). (DESIGN CHOICE, log entry 6) -/
def State.free (s : State) : Nat := Config.choice s.tick

/-- The state with the counter of free values advanced. -/
def State.bump (s : State) : State := { s with tick := s.tick + 1 }

/-- The state with the free values of one STOP or DONE used up (log entry 22). -/
def State.usedMark (s : State) : State := { s with tick := s.tick + 9 }

/-- Load `k`, if it is in progress. -/
def State.load (s : State) (k : Nat) : Option Load := SMap.find s.loads k

/-- The state with load `k` replaced. -/
def State.setLoad (s : State) (k : Nat) (l : Load) : State := { s with loads := SMap.set s.loads k l }

/-- Queue `q`. -/
def State.queue (s : State) (q : Nat) : Queue := SMap.get (fun _ => Queue.reset) s.queues q

/-- The state with queue `q` replaced. -/
def State.setQueue (s : State) (q : Nat) (x : Queue) : State := { s with queues := SMap.set s.queues q x }

/-- The state with a load in progress changed. -/
def State.onLoad (s : State) (ld : Nat) (h : Load → Load) : State :=
  match s.load ld with
  | some l => s.setLoad ld (h l)
  | none => s

/-- The load that owns region `r`. -/
def State.ownerLoad (s : State) (r : Nat) : Option Load := (s.region r).owner.bind s.load

/-- The save image that stands for what load `ld` had on region `r`, from its scan-out until the load resumes (R344, R345). -/
def State.savedPage (s : State) (ld r : Nat) : Option SaveSlot := s.sched.saves.find? fun v => v.load == ld && v.reg == r

/-- The partition of the load that owns region `r` (R331). -/
def State.partOf (s : State) (r : Nat) : BitVec 4 :=
  match s.ownerLoad r with
  | some l => (s.queue l.queue).part
  | none => 0

/-- The identifier of the task current on region `r`, 0 when none is (R306). -/
def State.taskOf (s : State) (r : Nat) : Word :=
  match s.ownerLoad r with
  | some l => if l.ended then 0 else (l.task.map (·.id)).getD 0
  | none => 0

/- Byte memory (R4, R219, R260, R313). -/

/-- The byte listed at an address, with zero where the list has none (R415). -/
def cellsGet (m : List Host.Cell) (a : Nat) : Byte := SMap.get (fun _ => (0 : Byte)) m a

/-- The cells with a byte written. Zero, which an unlisted address reads as, is not listed. -/
def cellsSet : List Host.Cell → Nat → Byte → List Host.Cell
  | [], a, v => if v = 0 then [] else [(a, v)]
  | (b, w) :: r, a, v =>
    if a = b then (if v = 0 then r else (a, v) :: r)
    else if a < b then (if v = 0 then (b, w) :: r else (a, v) :: (b, w) :: r)
    else (b, w) :: cellsSet r a v

/-- A list of cells is canonical: addresses rise strictly and no byte is zero. -/
def cellsWf : List Host.Cell → Bool
  | [] => true
  | [(_, v)] => v != 0
  | (a, v) :: (b, w) :: r => v != 0 && decide (a < b) && cellsWf ((b, w) :: r)

/-- The bytes of memory have their canonical form. -/
def Memory.wf (m : Mem) : Bool := cellsWf m.bytes

/-- One byte of device memory, as latest applied state (R261). (DEDUCED, log entry 115) -/
def Mem.read (m : Mem) (a : Nat) : Byte := cellsGet m.bytes a

/-- Device memory with one byte replaced. -/
def Mem.write (m : Mem) (a : Nat) (v : Byte) : Mem := { m with bytes := cellsSet m.bytes a v }

/-- `n` bytes from address `a` upward. -/
def Mem.readBytes (m : Mem) (a n : Nat) : List Byte := (List.range n).map fun i => m.read (a + i)

/-- Device memory with bytes written from address `a` upward. -/
def Mem.writeBytes (m : Mem) (a : Nat) : List Byte → Mem
  | [] => m
  | v :: vs => (m.write a v).writeBytes (a + 1) vs

/-- The number that bytes give, least significant first (R4). -/
def leNat : List Byte → Nat
  | [] => 0
  | b :: bs => b.toNat + 256 * leNat bs

/-- The `n` bytes of a number, least significant first (R4). -/
def leBytes (n v : Nat) : List Byte := (List.range n).map fun i => BitVec.ofNat 8 (v / 256 ^ i)

/-- A little-endian number of `n` bytes in device memory. -/
def Mem.readLe (m : Mem) (a n : Nat) : Nat := leNat (m.readBytes a n)

/-- Inserts a number into a rising list. -/
def setInsert : List Nat → Nat → List Nat
  | [], a => [a]
  | b :: r, a => if a = b then b :: r else if a < b then a :: b :: r else b :: setInsert r a

/-- The 64-bit words that `n` bytes from `a` touch. -/
def wordsOf (a n : Nat) : List Nat := if n = 0 then [] else (List.range ((a + n - 1) / 8 - a / 8 + 1)).map (· + a / 8)

/-- Whether every word of [a, a+n) is full (R227). -/
def Mem.isFull (m : Mem) (a n : Nat) : Bool := (wordsOf a n).all fun w => m.full.contains w

/-- Sets the words of [a, a+n) full (R219). -/
def Mem.setFull (m : Mem) (a n : Nat) : Mem := { m with full := (wordsOf a n).foldl setInsert m.full }

/-- Sets the words of [a, a+n) empty (R219). -/
def Mem.setEmpty (m : Mem) (a n : Nat) : Mem := { m with full := m.full.filter fun w => !(wordsOf a n).contains w }

/-- Whether some byte of [a, a+n) is lost to an uncorrectable error (R10, R227). -/
def Mem.isLost (m : Mem) (a n : Nat) : Bool := m.lost.any fun b => decide (a ≤ b) && decide (b < a + n)

/-- The words wholly covered by [a, a+n) are whole again (R227, R263). -/
def Mem.mend (m : Mem) (a n : Nat) : Mem :=
  { m with lost := m.lost.filter fun b => !(decide (a ≤ 8 * (b / 8)) && decide (8 * (b / 8) + 8 ≤ a + n)) }

/-- The end of the row store (R313). -/
def rowStoreEnd : Nat := 0x3000000000
/-- The base of the scratchpad aperture (R313). -/
def spadBase : Nat := 0x4000000000
/-- The base of the weight store (R313). -/
def wstoreBase : Nat := 0x4100000000
/-- The base of the transfer aperture (R313). -/
def xferBase : Nat := 0x4200000000

/-- The physical address of an offset in memory tile `m` of region `r` (R313). -/
def spadAddr (r m off : Nat) : Nat := spadBase + 0x80000 * r + 0x10000 * m + off

/-- The physical address of an offset in the weight-store block of region `r` (R313). -/
def wstoreAddr (r off : Nat) : Nat := wstoreBase + 0x100000 * r + off

/-- A byte of host memory (R313): what the device wrote there, and otherwise a free value. (DESIGN CHOICE, log entry 11) -/
def State.hostByte (s : State) (a : Nat) : Byte := SMap.get Config.hostByte s.mem.host a

/-- The distinct 256-byte row slots that written bytes touch (R233). (DEDUCED, log entry 58) -/
def slotsOf (as : List Nat) : List Nat := as.foldl (fun acc a => setInsert acc (a / 256)) []

/-- Whether the entry of a row-scoped window, at `w.1`, still maps the window at `w.2.1` with row scope (R312). -/
def Mem.maps (m : Mem) (w : Nat × Nat × Nat) : Bool :=
  let e := BitVec.ofNat 64 (m.readLe w.1 8)
  e.getLsbD 0 && e.getLsbD 1 && e.getLsbD 7 && e.toNat / 0x10000 % 2 ^ 36 * 0x10000 == w.2.1

/-- The windows that are still mapped after a write of cells (R233): a window whose entry no longer maps it is forgotten.
(DEDUCED, log entry 58) -/
def Mem.keptWindows (m : Mem) (cells : List Host.Cell) : SMap (Nat × Nat) :=
  m.rowwin.filter fun w => !(cells.any fun c => c.1 / 8 == w.1 / 8) || m.maps w

/-- Whether a row slot lies in a window that a used entry maps. -/
def Mem.inWindow (m : Mem) (slot : Nat) : Bool :=
  m.rowwin.any fun w => decide (w.2.1 / 256 ≤ slot) && decide (slot < (w.2.1 + w.2.2) / 256)

/-- A row-scoped window is used through its entry at `at_`, which maps `n` bytes at `base`: the slots that this maps, and no other entry
has mapped meanwhile, begin with version zero (R233). (DEDUCED, log entry 58) -/
def Mem.useWindow (m : Mem) (base at_ n : Nat) : Mem :=
  if SMap.find m.rowwin at_ = some (base, n) then m
  else { m with
    rowwin := SMap.set m.rowwin at_ (base, n)
    rowver := m.rowver.filter fun v =>
      !(decide (base / 256 ≤ v.1) && decide (v.1 < (base + n) / 256)) || m.inWindow v.1 }

/-- Applies one commit of row-store bytes (R260, R267, R271): it takes the next CSN, keeps the bytes it overwrites for the
snapshots that still read them (R265), and increments the version of every row slot it writes once. (DEDUCED, log entry 58) -/
def Mem.commit (m : Mem) (cells : List Host.Cell) : Mem :=
  let old := cells.map fun c => (c.1, m.read c.1)
  let m1 := cells.foldl (fun m c => m.write c.1 c.2) m
  let ver := (slotsOf (cells.map (·.1))).foldl
    (fun v k => SMap.set v k (SMap.get (fun _ => (0 : Half)) v k + 1)) m1.rowver
  { m1 with undo := ⟨m.csn, old⟩ :: m.undo, csn := m.csn + 1, rowver := ver, rowwin := m1.keptWindows cells }

/-- The published watermark PW (R260): every commit is published as it takes its CSN. -/
def Mem.pw (m : Mem) : Nat := m.csn - 1

/-- A byte under the snapshot `w` (R261): the latest applied byte, with every commit above the watermark undone. -/
def Mem.snap (m : Mem) (w a : Nat) : Byte :=
  m.undo.foldl (fun v u => if u.csn > w then ((u.old.find? fun c => c.1 = a).map (·.2)).getD v else v) (m.read a)

/-- Whether the host reaches offsets outside the hub block (R413, R415): RDY is set. -/
def State.reachable (s : State) : Bool := s.pwr.rdy && !s.pwr.trip

/-- An act of the host on a register outside the hub block: dropped before RDY is set and after a trip (R413, R415). -/
def fromHost (f : State → State) (s : State) : Host.Outcome State Fault Refusal := .next (if s.reachable then f s else s)

/- Faults (R25, R307, R319 to R322). -/

/-- A fault of a class and detail with no further fields (R320). -/
def FaultRec.of (cls det : Byte) : FaultRec :=
  ⟨cls, det, false, false, false, false, false, false, false, 0, 0xFFFF, 0xFFFF, 0xFFFF, 0, 0, 0, 0, none, none⟩

/-- The record with the channel and seq of the token that failed (R159, R425). -/
def FaultRec.token (f : FaultRec) (chan : Nat) (seq : BitVec 12) : FaultRec :=
  { f with chan := BitVec.ofNat 8 chan, hseq := seq, seqv := true }

/-- The record with a faulting address (R320). -/
def FaultRec.at_ (f : FaultRec) (a : BitVec 64) : FaultRec := { f with addr := a, addrv := true }

/-- The flags half-word of a record (R320). -/
def FaultRec.flags (f : FaultRec) (ph : Bool) : Nat :=
  (if ph then 1 else 0) + (if f.parked then 2 else 0) + (if f.resum then 4 else 0) + (if f.second then 8 else 0)
    + (if f.eng then 16 else 0) + (if f.addrv then 32 else 0) + (if f.seqv then 64 else 0) + (if f.notask then 128 else 0)

/-- The 64 bytes of a record (R320), from the task, graph, load, tile, snapshot, queue and partition it belongs to. -/
def FaultRec.bytes (f : FaultRec) (fseq : Nat) (ph : Bool) (task graph load csn queue part tile time : Nat) : List Byte :=
  leBytes 8 fseq ++ [f.cls, f.det] ++ leBytes 2 (f.flags ph) ++ leBytes 4 (if f.notask then 0 else task) ++ leBytes 2 graph
    ++ leBytes 2 load ++ leBytes 2 f.page ++ leBytes 2 f.reg ++ leBytes 2 f.unit ++ leBytes 2 f.slot ++ [f.chan, f.opc]
    ++ leBytes 2 f.hseq.toNat ++ leBytes 8 f.addr.toNat ++ leBytes 8 csn ++ [BitVec.ofNat 8 queue, BitVec.ofNat 8 part]
    ++ leBytes 2 0 ++ leBytes 4 tile ++ leBytes 8 time

/-- Raises MSI-X vector `n` (R396): at once, or pending while it is masked. Bit 0 of the entry's control word masks it, and
an entry that software has not written is masked; after a trip none is raised (R413) (PRESUMED, log entry 9). (DESIGN CHOICE, log entry 116) -/
def State.raiseVector (s : State) (n : Nat) : State :=
  if s.pwr.trip then s else
  let ctl := SMap.get (fun _ => (0x100000000 : BitVec 64)) s.hub.msix (2 * n + 1)
  if ctl.getLsbD 32 then { s with hub := { s.hub with pend := setInsert s.hub.pend n } }
  else { s with msi := s.msi ++ [n] }

/-- The two ways a ring takes a record (R322): a full ring, or one whose records do not all lie in the row store, drops it.
(DEDUCED, log entry 113) -/
def ringTakes (base : Nat) (log : Nat) (wr rd : Word) : Bool :=
  decide ((wr - rd).toNat < 2 ^ log) && decide (base + 64 * 2 ^ log ≤ rowStoreEnd)

/-- Writes a record to the ring of queue `q` and raises the queue's vector (R321, R322). (DEDUCED, log entry 113) -/
def State.queueRecord (s : State) (q : Nat) (f : FaultRec) (task graph load csn tile : Nat) : State :=
  let x := s.queue q
  if ringTakes x.frbase.toNat x.frlog x.frwr x.frrd then
    let k := x.frwr.toNat
    let n := 2 ^ x.frlog
    let by_ := f.bytes s.sched.fseq ((k / n) % 2 == 0) task graph load csn q x.part.toNat tile (f.time.getD s.cyc)
    let cells := by_.mapIdx fun i b => (x.frbase.toNat + 64 * (k % n) + i, b)
    let s1 := { s with mem := s.mem.commit cells, sched := { s.sched with fseq := s.sched.fseq + 1 } }
    (s1.setQueue q { x with frwr := x.frwr + 1 }).raiseVector q
  else (s.setQueue q { x with ovf := true }).raiseVector q

/-- Writes a record to the device ring and raises vector 128 (R321, R322, R396); none is written after a trip (R413). -/
def State.deviceRecord (s : State) (f : FaultRec) : State :=
  let h := s.hub
  if s.pwr.trip then s
  else if ringTakes h.dfbase.toNat h.dflog h.dfwr h.dfrd then
    let k := h.dfwr.toNat
    let n := 2 ^ h.dflog
    let by_ := { f with notask := true }.bytes s.sched.fseq ((k / n) % 2 == 0) 0 0 0 0 0 0 0 s.cyc
    let cells := by_.mapIdx fun i b => (h.dfbase.toNat + 64 * (k % n) + i, b)
    let s1 := { s with mem := s.mem.commit cells, sched := { s.sched with fseq := s.sched.fseq + 1 } }
    { s1 with hub := { s1.hub with dfwr := h.dfwr + 1 } }.raiseVector 128
  else { s with hub := { h with dfovf := true } }.raiseVector 128

/-- The task that a record of a load names, with its snapshot and tile (R306, R320): the one that the faulting access belongs to, else the
current one. (DEDUCED, log entry 147) -/
def Load.named (l : Load) (who : Option Word) : Option (Word × Nat × Nat) :=
  let now := l.task.map fun t => (t.id, t.csn, l.tile)
  match who with
  | none => now
  | some id => if now.map (·.1) = some id then now else (SMap.find l.past id.toNat).map fun p => (id, p)

/-- Writes the record of a fault of load `k` to its queue's ring now (R321): graph and load are the load's. -/
def State.loadRecord (s : State) (k : Nat) (f : FaultRec) : State :=
  match s.load k with
  | none => s.deviceRecord f
  | some l =>
    let t := l.named f.who
    s.queueRecord l.queue { f with notask := f.notask || t.isNone } ((t.map (·.1.toNat)).getD 0) (l.pkt % 65536) l.index
      ((t.map (·.2.1)).getD 0) ((t.map (·.2.2)).getD l.tile)

/-- Takes a stopping fault of load `k` (R307): the first one begins the stop, and every further one will be written flagged
SECONDARY. TASK_STOP carries the stop through. (DEDUCED, log entries 15, 75, 77) -/
def State.stopFault (s : State) (k : Nat) (f : FaultRec) : State :=
  match s.load k with
  | none => s.deviceRecord f
  | some l =>
    if l.ph = .faulted then s.loadRecord k { f with second := true }
    else if l.frecs.isEmpty then s.setLoad k { l with frecs := [{ f with time := some s.cyc }], fcyc := s.cyc }
    else s.setLoad k { l with frecs := l.frecs ++ [{ f with second := true, time := some s.cyc }] }

/-- Takes a fault of a unit of region `r` (R25): element `e` sets its fault-pending bit, the record names `unit`, and the load
stops. `sl` is the slot and `opc` its opcode; a fault that no firing raises has slot 0xFFFF (R425). (DEDUCED, log entry 14) -/
def State.raiseAs (s : State) (r e unit sl : Nat) (opc : Byte) (f : FaultRec) : State :=
  let x := s.elem r e
  let s1 := s.setElem r e { x with faulted := true, fcyc := if x.faulted then x.fcyc else s.cyc }
  let f1 := { f with page := (s.region r).page, reg := r, unit := unit, slot := sl, opc := opc }
  match (s.region r).owner with
  | some k => s1.stopFault k f1
  | none => s1.deviceRecord f1

/-- Takes a fault of a firing, or of a token at an element (R25, R425). -/
def State.raise (s : State) (r e sl : Nat) (opc : Byte) (f : FaultRec) : State := s.raiseAs r e e sl opc f

/-- Whether the fault-pending bit of an element was set in an earlier cycle (R25, R425): from then on it absorbs nothing, and its units
rest. (DEDUCED, log entry 14) -/
def State.stuck (s : State) (r e : Nat) : Bool :=
  let x := s.elem r e
  x.faulted && decide (x.fcyc < s.cyc)

end Sys2Proof.Machine
end

