-- ==== Sys2Proof/Machine/Operands.lean ====
section
/-!
DEFINITION. Operand forms: what a source specifier reads in a lane or a lane pair, the execution lanes of a firing, and the
conditions under which a slot is ready.
-/
namespace Sys2Proof.Machine

/-- The input channel that a source specifier reads, if it reads one (R55). -/
def chanOf (sp : BitVec 6) : Option Nat := if 16 ≤ sp.toNat ∧ sp.toNat ≤ 19 then some (sp.toNat - 16) else none

/-- The output channel that a destination specifier names, if it names one (R55). -/
def outOf (sp : BitVec 6) : Option Nat := if 20 ≤ sp.toNat ∧ sp.toNat ≤ 23 then some (sp.toNat - 20) else none

/-- The register that a specifier names, if it names one (R55). -/
def regOf (sp : BitVec 6) : Option Nat :=
  let k := sp.toNat
  if k ≤ 15 ∨ (24 ≤ k ∧ k ≤ 27) then some k else none

/-- The channels named by a 4-bit mask, ascending. -/
def chansIn (m : BitVec 4) : List Nat := [0, 1, 2, 3].filter fun k => m.getLsbD k

/-- IMM16 sign-extended to 32 bits (specifier 28). -/
def simmOf (f : Fields) : Word := f.imm.signExtend 32

/-- The seq of channel A's head, zero-extended (specifier 31). -/
def seqaOf (x : Elem) (f : Fields) : Word :=
  match x.head f.aCh.toNat with
  | some t => t.seq.zeroExtend 32
  | none => 0

/-- Lane `l` of the source that a specifier names, on the state at the start of the cycle (R21, R55). -/
def srcLane (x : Elem) (f : Fields) (sp : BitVec 6) (l : Nat) : Word :=
  let k := sp.toNat
  if k ≤ 15 then (x.reg k).get l
  else if k ≤ 19 then (match x.head (k - 16) with | some t => t.lanes.get l | none => 0)
  else if k ≤ 23 then 0
  else if k ≤ 27 then (x.reg k).get l
  else if k = 28 then simmOf f
  else if k = 29 then BitVec.ofNat 32 l
  else if k = 30 then 0
  else if k = 31 then seqaOf x f
  else x.const (k - 32)

/-- All lanes of a source. -/
def srcAll (x : Elem) (f : Fields) (sp : BitVec 6) : Oct Word := Oct.ofFn (srcLane x f sp)

/-- Pair `j` of a source as a 64-bit value (R72): registers and heads as they stand, scalars sign-extended, the pair index
for specifier 29. -/
def srcPair (x : Elem) (f : Fields) (sp : BitVec 6) (j : Nat) : BitVec 64 :=
  let k := sp.toNat
  if k ≤ 27 then srcLane x f sp (2 * j + 1) ++ srcLane x f sp (2 * j)
  else if k = 29 then BitVec.ofNat 64 j
  else if k = 30 then 0
  else (srcLane x f sp 0).signExtend 64

/-- Pair `j` of eight lanes. -/
def pairAt (v : Oct Word) (j : Nat) : BitVec 64 := v.get (2 * j + 1) ++ v.get (2 * j)

/-- Eight lanes from four pairs. -/
def octOfPairs (p : Nat → BitVec 64) : Oct Word :=
  Oct.ofFn fun l => if l % 2 = 0 then (p (l / 2)).extractLsb' 0 32 else (p (l / 2)).extractLsb' 32 32

/-- All pairs of a source, as lanes (R72). -/
def srcPairs (x : Elem) (f : Fields) (sp : BitVec 6) : Oct Word := octOfPairs (srcPair x f sp)

/-- The lanes whose pair lies wholly in `m` (R72). -/
def pairMask (m : Byte) : Byte := maskOf fun l => m.getLsbD (2 * (l / 2)) && m.getLsbD (2 * (l / 2) + 1)

/-- The lowest lane of a mask. -/
def lowestLane (m : Byte) : Option Nat := (List.range 8).find? fun l => m.getLsbD l

/-- Whether the predicate guard holds in lane `l` (R17). -/
def guardLane (x : Elem) (f : Fields) (l : Nat) : Bool := (x.preds.get l ^^^ f.pv) &&& f.pm == 0

/-- The lanes in which the guard holds. -/
def guardMask (x : Elem) (f : Fields) : Byte := maskOf (guardLane x f)

/-- The lane-enable mask (R62). -/
def Elem.laneEn (x : Elem) : Byte := (x.field 161).extractLsb' 0 8

/-- Whether the guard lets the slot fire under its quantifier (R17). -/
def guardOk (x : Elem) (f : Fields) : Bool := if f.q = 1 then guardMask x f == 0xFF else guardMask x f != 0

/-- Whether an explicit channel condition holds (R14, R17). -/
def condOk (x : Elem) (ch : BitVec 2) (kind : BitVec 3) (fchk : BitVec 1) (fmt : BitVec 3) : Bool :=
  match x.head ch.toNat with
  | none => false
  | some t => (t.kind == kind || (kind == kData && t.kind == kPoison)) && (fchk == 0 || t.fmt == fmt)

/-- Whether the stop level of channel A's head is the one asked for (R17). -/
def levelOk (x : Elem) (f : Fields) : Bool :=
  f.schk == 0 || (match x.head f.aCh.toNat with | some t => t.lvl == f.slvl | none => false)

/-- The channels that the explicit conditions name (R15). -/
def condChans (f : Fields) : List Nat :=
  (if f.aEn = 1 then [f.aCh.toNat] else []) ++ (if f.bEn = 1 then [f.bCh.toNat] else [])

/-- The explicit conditions of R17. -/
def explicitOk (x : Elem) (f : Fields) : Bool :=
  (f.aEn == 0 || (condOk x f.aCh f.aKind f.aFchk f.aFmt && levelOk x f))
    && (f.bEn == 0 || condOk x f.bCh f.bKind f.bFchk f.bFmt)

/-- What an instruction looks at beside its trigger: `data` are channels that must hold a head of kind DATA or POISON unless a
condition names them (R17), `any` are stream inputs of a walker that must hold a head of any kind (R163), `outs` are the
outputs it can write. -/
structure Look where
  data : List Nat
  any  : List Nat
  outs : List Nat
deriving DecidableEq, Repr

/-- The channels that the source specifiers read as heads. -/
def srcChans (f : Fields) : List Nat := [f.sa, f.sb, f.sc].filterMap chanOf

/-- What an instruction with ordinary sources and destination looks at. -/
def Look.lane (f : Fields) : Look := ⟨srcChans f ++ chansIn f.deq, [], (outOf f.dst).toList⟩

/-- The implicit conditions of R17 and R163. -/
def implicitOk (x : Elem) (f : Fields) (k : Look) : Bool :=
  (k.data.all fun c => (condChans f).contains c
    || (match x.head c with | some t => t.kind == kData || t.kind == kPoison | none => false))
  && (k.any.all fun c => (x.head c).isSome)

/-- The room conditions of R17. -/
def roomOk (x : Elem) (f : Fields) : Bool := (chansIn f.room).all x.room

/-- The element's own conditions of readiness (R16, R17). -/
def triggerOk (x : Elem) (f : Fields) (k : Look) : Bool :=
  guardOk x f && explicitOk x f && implicitOk x f k && roomOk x f

/-- The channels of the lead that a running array operation takes tokens from (R184, R195). -/
def MArray.leadChans (a : MArray) : List Nat :=
  let f4 := a.efmt == 4
  let tbank := (a.desc.getD 2 0).getLsbD 22
  match a.op.toNat with
  | 1 => [0] ++ (if f4 then [2] else [])
  | 2 => [0] ++ (if tbank then [] else [1]) ++ (if f4 then [2] else []) ++ (if f4 && !tbank then [3] else [])
  | _ => []

/-- The input channels of a port that its stream engine owns (R222): the sink's stream, both streams of a gather or scatter,
the body of a row update. -/
def StreamEngine.ins (g : StreamEngine) : List Nat :=
  match g.kind.toNat with
  | 2 => [g.ch.toNat]
  | 3 => [g.ch.toNat]
  | 4 => [g.ch.toNat, g.ch2.toNat]
  | 5 => [g.ch.toNat]
  | _ => []

/-- The outputs that a stream engine owns (R222, R238): those on which it pushes a stream. -/
def StreamEngine.outs (g : StreamEngine) : List Nat :=
  match g.kind.toNat with
  | 1 => [g.out.toNat]
  | 3 => [g.out.toNat]
  | 6 => [g.out.toNat] ++ (if g.f.imm.getLsbD 2 then [g.ch2.toNat] else [])
  | _ => []

/-- The input channels that the row unit takes a body from (R222, R252). -/
def RowUnit.ins (u : RowUnit) : List Nat :=
  u.queue.filterMap fun o => if o.opc = 0xE2 ∧ o.body.length < 32 then chanOf o.f.sb else none

/-- The outputs that ROWCON to a stream own, from the firing until the last token (R222, R251). -/
def RowUnit.outs (u : RowUnit) : List Nat :=
  (u.latch.filterMap fun p => if p.2.toks.isEmpty then none else some p.2.ch.toNat)
    ++ ((u.queue ++ u.issued.map (·.1)).filterMap fun o => if o.opc = 0xE1 ∧ o.f.var = 1 then outOf o.f.dst else none)

/-- The output of a global port that copies to a fabric channel own (R296): page, port and channel come from the captured
template. -/
def State.fabricOuts (s : State) (r e : Nat) : List Nat :=
  s.eng.chans.filterMap fun p => p.2.run.bind fun c =>
    let ctl := c.tpl.getD 13 0
    let d := c.tpl.getD 1 0
    let page := (d.extractLsb' 0 10).toNat
    let here := (s.region r).owner == some c.by_.load && (s.region r).page == page
    if ctl.getLsbD 43 && here && e == 144 + (d.extractLsb' 10 1).toNat then some (d.extractLsb' 11 2).toNat else none

/-- The input channels of an element that its slots may not touch now (R184, R222). -/
def State.ownedIns (s : State) (r e : Nat) : List Nat :=
  let g := s.region r
  if e = 0 then (if g.mode = 0 then [] else g.arr.leadChans)
  else if e < 128 then []
  else ((g.elem e).port.eng.map StreamEngine.ins).getD [] ++ (if e = 146 then g.row.ins else [])

/-- The outputs of an element that its slots may not write now (R222, R251, R296). -/
def State.ownedOuts (s : State) (r e : Nat) : List Nat :=
  let g := s.region r
  if e < 128 then []
  else ((g.elem e).port.eng.map StreamEngine.outs).getD [] ++ (if e = 146 then g.row.outs else [])
    ++ (if e = 144 ∨ e = 145 then s.fabricOuts r e else [])

/-- Whether a load's units still fire (R152, R307): they stop as the last tile commits, or once a stopping fault is raised by 64 cycles
later, in a cycle that is a free value. (DEDUCED, log entry 76) -/
def Load.fires (l : Load) (cyc : Nat) : Bool :=
  !l.abn && !l.redo && l.ph != .ended && (l.frecs.isEmpty || decide (cyc ≤ l.fcyc + Config.choice l.fcyc % 64))

/-- Whether the clock of a region runs (R26, R307, R341, R413): it is running or stopping, its load is not stopped, and no trip
stands. -/
def State.clocked (s : State) (r : Nat) : Bool :=
  let g := s.region r
  !s.pwr.trip && (g.rstate == 2 || g.rstate == 3)
    && (match s.ownerLoad r with | some l => l.fires s.cyc | none => true)

/-- Whether the picker of an element runs (R25, R183, R354, R355). -/
def State.picks (s : State) (r e : Nat) : Bool :=
  let g := s.region r
  let x := g.elem e
  s.clocked r && !x.faulted && !x.halted
    && (decide (128 ≤ e) || g.mode == 0 || (g.mode == 1 && decide (e = 0)))

/-- Whether the head of Ik is taken by the element itself in this cycle (R47, R146): a CTRL token of the side channel, or a REQ token that
is absorbed. No slot sees it (log entry 24). -/
def Elem.takes (x : Elem) (k : Nat) : Bool :=
  let conv := x.field 162
  match x.head k with
  | none => false
  | some t => (conv.getLsbD 10 && (conv.extractLsb' 8 2).toNat == k && t.kind == kCtrl)
    || ((x.field (144 + k)).getLsbD 14 && t.kind == kReq)

/-- Whether slot `n` of the element in hand is ready (R16, R17, R184, R222), but for the credit that a DATA push needs.
(DEDUCED, log entry 12) -/
def State.slotReady (s : State) (r e n : Nat) (f : Fields) (k : Look) : Bool :=
  let x := s.elem r e
  s.picks r e && (x.field 160).getLsbD n && triggerOk x f k
    && ((k.data ++ k.any ++ condChans f).all fun c => !(s.ownedIns r e).contains c && !x.takes c)
    && (k.outs.all fun c => !(s.ownedOuts r e).contains c)

/-- The execution lanes of a firing (R20): the heads that a source specifier reads narrow them. -/
def execLanes (x : Elem) (f : Fields) : Byte :=
  (srcChans f).foldl (fun m c => m &&& (match x.head c with | some t => t.vmask | none => 0)) (guardMask x f &&& x.laneEn)

/-- The lanes of a walker's firing (R163): token masks do not narrow them. -/
def walkerLanes (x : Elem) (f : Fields) : Byte := guardMask x f &&& x.laneEn

/-- The seq of a token that the firing pushes on Oc (R11). -/
def seqFor (x : Elem) (f : Fields) (c : Nat) : BitVec 12 :=
  if f.aEn = 1 ∧ f.deq.getLsbD f.aCh.toNat = true then
    (match x.head f.aCh.toNat with | some t => t.seq | none => x.seqOut c)
  else x.seqOut c

/-- The seq that a token takes which a firing has reserved an entry for (R11): that of the condition head it dequeued, or, none given,
SEQOc at the push. (DEDUCED, log entry 125) -/
def ruleSeq (x : Elem) (f : Fields) : Option (BitVec 12) :=
  if f.aEn = 1 ∧ f.deq.getLsbD f.aCh.toNat = true then (x.head f.aCh.toNat).map (·.seq) else none

/-- The first POISON head among the listed channels, ascending (R14). -/
def poisonAt (x : Elem) (ks : List Nat) : Option FaultRec :=
  ([0, 1, 2, 3].filter fun k => ks.contains k).findSome? fun k =>
    match x.head k with
    | some t => if t.kind = kPoison then some ((FaultRec.of 0x03 0x06).token k t.seq) else none
    | none => none

/-- Whether a slot names an accumulator (R184). -/
def namesAcc (f : Fields) : Bool := [f.dst, f.sa, f.sb, f.sc].any fun sp => decide (24 ≤ sp.toNat ∧ sp.toNat ≤ 27)

/-- What a firing comes to: it is not ready after all (a DATA push lacks credit), it faults, or it leaves the element as given
and then acts on the rest of the device. -/
inductive Fired where
  | wait
  | fault (f : FaultRec)
  | done (x : Elem) (after : State → State)

/-- A firing that a fault takes the place of, where it would take effect: one that is not ready after all does not fault (R17, R145). -/
def Fired.unless (o : Fired) (r : Option FaultRec) : Fired :=
  match o with
  | .wait => .wait
  | .fault a => .fault (r.getD a)
  | .done x after => match r with
    | some a => .fault a
    | none => .done x after

/-- The conversion node of a channel, if it has one: its element, and the channels on which tokens go there and come back (R62). -/
def Elem.binding (x : Elem) (k : Nat) : Option (Nat × Nat × Nat) :=
  let v := x.field (165 + k)
  if v.getLsbD 15 then some ((v &&& 0x7F).toNat, (v.extractLsb' 13 2).toNat, (v.extractLsb' 11 2).toNat) else none

/-- The token that is out for conversion from a channel (R13). -/
def Elem.awayTok (x : Elem) (k : Nat) : Option Token := (SMap.get (fun _ => []) x.away k).head?

/-- A firing that leaves element `e` as `y` has taken the steered tokens that it dequeues as conversion node (R13, R62).
(DEDUCED, log entry 119) -/
def Region.takeSteered (g : Region) (e : Nat) (x y : Elem) : Region :=
  if g.steers.isEmpty then g
  else [0, 1, 2, 3].foldl (fun g i =>
    let hit := fun (p : Nat × Nat) =>
      let z := g.elem p.1
      (z.binding p.2).any (fun b => b.1 == e && b.2.1 == i) && (z.awayTok p.2).isSome && z.awayTok p.2 == x.head i
    match if (y.inQ i).length < (x.inQ i).length then g.steers.find? hit else none with
    | some p => { g with steers := g.steers.erase p, taken := g.taken ++ [p] }
    | none => g) g

/-- The element in hand. -/
def State.here (s : State) : Elem := s.elem s.cur.reg s.cur.elem

/-- The state after a firing that has left the element in hand as `y`: the slot is the element's last, and nothing else has changed but
which steered tokens a conversion node has taken (R13). -/
def State.fired (s : State) (y : Elem) : State :=
  s.setRegion s.cur.reg (((s.region s.cur.reg).takeSteered s.cur.elem s.here y).setElem s.cur.elem (y.markFired s.cur.slot))

/-- The firing of the slot in hand (R19, R21, R25): a slot that is not ready changes nothing, a fault is taken, and otherwise
the effect takes place as one step and the slot is recorded as the last that fired. (DEDUCED, log entry 12) -/
def fire (opc : Byte) (f : Fields) (k : Look) (act : Elem → Fired) (s : State) :
    Host.Outcome State Fault Refusal :=
  let c := s.cur
  if s.slotReady c.reg c.elem c.slot f k then
    match act (s.elem c.reg c.elem) with
    | .wait => .next s
    | .fault r => .next (s.raise c.reg c.elem c.slot opc r)
    | .done y after => .next (after (s.fired y))
  else .next s

/-- The fault that a lane firing meets before it takes effect (R14, R71, R184): a POISON head that a source reads or the
firing dequeues, or an accumulator named on the lead of a region in matrix mode. (DEDUCED, log entry 117) -/
def laneFault (s : State) (x : Elem) (f : Fields) : Option FaultRec :=
  match poisonAt x (srcChans f ++ chansIn f.deq) with
  | some r => some r
  | none =>
    if (s.region s.cur.reg).mode = 1 ∧ s.cur.elem = 0 ∧ namesAcc f = true then some (FaultRec.of 0x02 0x13) else none

end Sys2Proof.Machine
end

