-- ==== Sys2Proof/Machine/Flags.lean ====
section
/-!
DEFINITION. Flags and results: condition codes, predicate updates, the sticky flags, and the commit of a lane firing.
-/
namespace Sys2Proof.Machine

/-- Whether a ? b holds for integers of width `w` under a condition code 0 to 9 (R58). -/
def intCond (cc : Nat) (w a b : Nat) : Bool :=
  let sa := (BitVec.ofNat w a).toInt
  let sb := (BitVec.ofNat w b).toInt
  match cc with
  | 0 => a == b
  | 1 => a != b
  | 2 => decide (sa < sb)
  | 3 => decide (sa ≤ sb)
  | 4 => decide (sb < sa)
  | 5 => decide (sb ≤ sa)
  | 6 => decide (a < b)
  | 7 => decide (a ≤ b)
  | 8 => decide (b < a)
  | 9 => decide (b ≤ a)
  | _ => false

/-- Whether a ? b holds for floating values under a condition code 0 to 5, 10 or 11 (R58). -/
def floatCond (cc : Nat) (a b : FVal) : Bool :=
  let un := a.isNaN || b.isNaN
  match cc with
  | 0 => !un && cmpVal a b == .eq
  | 1 => un || cmpVal a b != .eq
  | 2 => !un && cmpVal a b == .lt
  | 3 => !un && cmpVal a b != .gt
  | 4 => !un && cmpVal a b == .gt
  | 5 => !un && cmpVal a b != .lt
  | 10 => un
  | 11 => !un
  | _ => false

/-- The result of a lane instruction: the values, the lanes they stand in, the compare outcome of each lane, the lanes whose
result counts as nonzero, and the events it raises (R21 to R24). -/
structure Res where
  val  : Oct Word
  m    : Byte
  cmp  : Byte
  nz   : Byte
  ev   : Byte
deriving DecidableEq, Repr

/-- The lanes of `m` whose value is nonzero. -/
def nonzero (v : Oct Word) : Byte := maskOf fun l => v.get l != 0

/-- A result with values in the lanes of `m`, no compare outcome and events `ev`. -/
def Res.plain (m : Byte) (v : Oct Word) (ev : Byte) : Res := ⟨v, m, 0, nonzero v, ev⟩

/-- The predicate update of a firing (R23): in the lanes of `m` only, from the lanes that are nonzero or whose compare outcome
is true. (DESIGN CHOICE, log entry 25) -/
def predUpdate (x : Elem) (f : Fields) (m nz cmp : Byte) : Elem :=
  if f.pue = 1 then
    let v : Byte := match f.pmode.toNat with
      | 0 => nz
      | 1 => cmp
      | 2 => 0
      | _ => 0xFF
    x.writePred f.pidx.toNat m v
  else x

/-- The token of a result (R22): the values in its lanes and zero elsewhere. -/
def resToken (f : Fields) (fmt : BitVec 3) (o : Res) (seq : BitVec 12) : Token :=
  ⟨seq, o.m, fmt, f.okind, f.olvl, Oct.ofFn fun l => if o.m.getLsbD l then o.val.get l else 0⟩

/-- The part of a firing that follows its writes and pushes (R21): dequeues, predicate update, flags. -/
def closeFiring (x : Elem) (f : Fields) (o : Res) : Elem :=
  (predUpdate (x.dequeueAll (chansIn f.deq)) f o.m o.nz o.cmp).flag o.ev

/-- The commit of a lane firing whose result goes to its destination (R21, R22). -/
def commitRes (x : Elem) (f : Fields) (fmt : BitVec 3) (o : Res) : Fired :=
  match outOf f.dst with
  | some c =>
    if x.mayPush c f.okind then
      .done (closeFiring (x.push c (resToken f fmt o (seqFor x f c))) f o) id
    else .wait
  | none =>
    match regOf f.dst with
    | some k => .done (closeFiring (x.writeLanes k o.m o.val) f o) id
    | none => .done (closeFiring x f o) id

/-- Whether the DATA token that a slot pushes on its destination still lacks its credit, so that the slot is not ready (R145). -/
def owesCredit (x : Elem) (f : Fields) : Bool :=
  match outOf f.dst with
  | some c => !x.mayPush c f.okind
  | none => false

/-- A lane instruction: E by R20, its operation on the state at the start of the cycle, and the commit with fmt `fmt`.
(DEDUCED, log entry 12) -/
def fireLane (opc : Byte) (f : Fields) (fmt : BitVec 3) (op : Elem → Byte → Res) (s : State) :
    Host.Outcome State Fault Refusal :=
  fire opc f (Look.lane f) (fun x =>
    if owesCredit x f then .wait
    else
      match laneFault s x f with
      | some r => .fault r
      | none => commitRes x f fmt (op x (execLanes x f))) s

end Sys2Proof.Machine
end

