-- ==== Sys2Proof/Machine/TokenOps.lean ====
section
/-!
DEFINITION. The token and channel instructions (R74 to R81).
-/
namespace Sys2Proof.Machine

/-- A push of one token on Oc, then the rest of the firing; it waits where a DATA push lacks credit (R145). -/
def pushOne (x : Elem) (f : Fields) (c : Nat) (t : Token) (o : Res) (after : State → State) : Fired :=
  if x.mayPush c t.kind then .done (closeFiring (x.push c t) f o) after else .wait

/-- The result of a firing whose entry states no result in the lanes of `m` (log entry 25): which of them a set-from-nonzero update finds
nonzero is a free value. -/
def State.openRes (s : State) (m : Byte) : Res := ⟨Oct.all 0, m, 0, BitVec.ofNat 8 s.free, 0⟩

/-- The free value of a set-from-nonzero update is used up. -/
def usedRes (f : Fields) (s : State) : State := if f.pue = 1 ∧ f.pmode = 0 then s.bump else s

/-- A firing that the instruction's own rule forms: it sees the element and E. -/
def fireOwn (opc : Byte) (f : Fields) (k : Look) (act : Elem → Byte → Fired) (s : State) :
    Host.Outcome State Fault Refusal :=
  fire opc f k (fun x => (act x (execLanes x f)).unless (laneFault s x f)) s

/-- The result of a firing that has none: E for its predicate update, and no value. -/
def noResult (m : Byte) : Res := ⟨Oct.all 0, m, 0, 0, 0⟩

/-- NOP (R74): its dequeues and predicate update. -/
def execNop (f : Fields) (s : State) : Host.Outcome State Fault Refusal :=
  fireOwn 0x00 f (Look.lane f) (fun x m => .done (closeFiring x f (noResult m)) id) s

/-- The token that PASS forms from a head (R75). -/
def passToken (f : Fields) (m : Byte) (seq : BitVec 12) (t : Token) : Token :=
  let masked := f.var.getLsbD 0
  { t with
    seq := seq
    vmask := if masked then m else t.vmask
    lanes := if masked then Oct.ofFn fun l => if m.getLsbD l then t.lanes.get l else 0 else t.lanes
    kind := if f.var.getLsbD 1 then f.okind else t.kind
    lvl := if f.var.getLsbD 1 then f.olvl else t.lvl }

/-- PASS (R75). -/
def execPass (f : Fields) (s : State) : Host.Outcome State Fault Refusal :=
  fireOwn 0x01 f (Look.lane f) (fun x m =>
    match (chanOf f.sa).bind x.head, outOf f.dst with
    | some t, some c =>
      let t' := passToken f m (seqFor x f c) t
      pushOne x f c t' (s.openRes m) (usedRes f)
    | _, _ => .wait) s

/-- EMIT (R76). -/
def execEmit (f : Fields) (s : State) : Host.Outcome State Fault Refusal :=
  fireLane 0x02 f f.efmt (fun x m => Res.plain m (srcAll x f f.sa) 0) s

/-- TAGSET (R77). (DEDUCED, log entry 18) -/
def execTagset (f : Fields) (s : State) : Host.Outcome State Fault Refusal :=
  fireOwn 0x03 f (Look.lane f) (fun x m =>
    match (chanOf f.sa).bind x.head, outOf f.dst with
    | some t, some c =>
      let t' := { t with fmt := f.efmt, seq := seqFor x f c }
      pushOne x f c t' (s.openRes m) (usedRes f)
    | _, _ => .wait) s

/-- The output that VAR[1:0] names (R74). -/
def varOut (f : Fields) : Nat := (f.var.extractLsb' 0 2).toNat

/-- SEQSET (R78). -/
def execSeqset (f : Fields) (s : State) : Host.Outcome State Fault Refusal :=
  fireOwn 0x04 f (Look.lane f) (fun x m =>
    let v := srcAll x f f.sa
    let y := match lowestLane m with
      | some l => { x with seqo := SMap.set x.seqo (varOut f) ((v.get l).extractLsb' 0 12) }
      | none => x
    .done (closeFiring y f (s.openRes m)) (usedRes f)) s

/-- SEQGET (R78). -/
def execSeqget (f : Fields) (s : State) : Host.Outcome State Fault Refusal :=
  fireLane 0x05 f 0 (fun x m => Res.plain m (Oct.all ((x.seqOut (varOut f)).zeroExtend 32)) 0) s

/-- DEMAND (R79). -/
def execDemand (f : Fields) (s : State) : Host.Outcome State Fault Refusal :=
  fireOwn 0x06 f (Look.lane f) (fun x m =>
    match outOf f.dst with
    | some c =>
      let n := srcLane x f f.sa 0
      let t : Token := ⟨seqFor x f c, 1, 0, f.okind, 0, Oct.ofFn fun l => if l = 0 then n else 0⟩
      pushOne x f c t (s.openRes m) (usedRes f)
    | none => .wait) s

/-- DROP (R80): the header of the head, whose mask does not narrow E. -/
def execDrop (f : Fields) (s : State) : Host.Outcome State Fault Refusal :=
  fire 0x07 f (Look.lane f) (fun x =>
    ((chanOf f.sa).bind x.head).elim .wait fun t =>
      (commitRes x f 0 (Res.plain (walkerLanes x f) (Oct.all (tokHeader t)) 0)).unless (laneFault s x f)) s

/-- FWDSEL (R81): only the output used asks for the credit of R145. (DEDUCED, log entry 140) -/
def execFwdsel (f : Fields) (s : State) : Host.Outcome State Fault Refusal :=
  fireOwn 0x08 f { Look.lane f with outs := (outOf f.dst).toList ++ [(f.imm.extractLsb' 0 2).toNat] } (fun x m =>
    match (chanOf f.sa).bind x.head, outOf f.dst with
    | some t, some a =>
      let taken := (List.range 8).any fun l => m.getLsbD l && (x.preds.get l).getLsbD f.var.toNat
      let c := if taken then a else (f.imm.extractLsb' 0 2).toNat
      let t' := { t with seq := seqFor x f c }
      pushOne x f c t' (s.openRes m) (usedRes f)
    | _, _ => .wait) s

end Sys2Proof.Machine
end

