-- ==== Sys2Proof/Machine/IntOps.lean ====
section
/-!
DEFINITION. The integer and address instructions (R72, R73, R82 to R88).
-/
namespace Sys2Proof.Machine

/-- The element width of an integer format (R72). -/
def intWidth (efmt : BitVec 3) : Nat :=
  match efmt.toNat with
  | 5 => 8
  | 6 => 16
  | _ => 32

/-- Element `i` of width `w` of a lane, as a number (R73). -/
def elemAt (w : Nat) (v : Word) (i : Nat) : Nat := (v.toNat / 2 ^ (w * i)) % 2 ^ w

/-- A `w`-bit field read as a signed integer (R73). -/
def sgn (w v : Nat) : Int := (BitVec.ofNat w v).toInt

/-- Folds an element operation over the elements of a lane, collecting events. -/
def laneElems (w : Nat) (g : Nat → Nat × Byte) : Word × Byte :=
  (List.range (32 / w)).foldl (fun r i =>
    let y := g i
    (r.1 ||| BitVec.ofNat 32 (y.1 * 2 ^ (w * i)), r.2 ||| y.2)) (0, 0)

/-- An element-wise integer instruction with up to three sources (R72, R83): `op w a b c` gives an element's result and event;
under W64 it acts on lane pairs. -/
def intRes (f : Fields) (op : Nat → Nat → Nat → Nat → Nat × Byte) (x : Elem) (m : Byte) : Res :=
  if f.w64 = 1 then
    let pm := pairMask m
    let r := fun j => op 64 (srcPair x f f.sa j).toNat (srcPair x f f.sb j).toNat (srcPair x f f.sc j).toNat
    let v := octOfPairs fun j => BitVec.ofNat 64 (r j).1
    let nz := maskOf fun l => (r (l / 2)).1 % 2 ^ 64 != 0
    let ev := (List.range 4).foldl (fun e j => if pm.getLsbD (2 * j) then e ||| (r j).2 else e) 0
    ⟨v, pm, 0, nz, ev⟩
  else
    let w := intWidth f.efmt
    let r := fun l => laneElems w fun i =>
      op w (elemAt w (srcLane x f f.sa l) i) (elemAt w (srcLane x f f.sb l) i) (elemAt w (srcLane x f f.sc l) i)
    let v := Oct.ofFn fun l => (r l).1
    let ev := (List.range 8).foldl (fun e l => if m.getLsbD l then e ||| (r l).2 else e) 0
    Res.plain m v ev

/-- An element-wise instruction of R82 with its opcode. -/
def fireInt (opc : Byte) (f : Fields) (op : Nat → Nat → Nat → Nat → Nat × Byte) (s : State) :
    Host.Outcome State Fault Refusal :=
  fireLane opc f f.efmt (intRes f op) s

/-- An exact result that Fit narrows (R73, R83). -/
def fitted (f : Fields) (w : Nat) (v : Int) : Nat × Byte := fit v w (f.sat == 1) (f.uns == 1)

/-- A source element as R83 reads it: unsigned under `.sat.u`, signed otherwise. -/
def rd (f : Fields) (w v : Nat) : Int := if f.sat = 1 ∧ f.uns = 1 then (v : Int) else sgn w v

/-- An exact integer modulo 2^w, with no event. -/
def wrapped (w : Nat) (v : Int) : Nat × Byte := ((v % (2 ^ w : Int)).toNat, 0)

/-- ADD (R83). (DEDUCED, log entry 118) -/
def execAdd (f : Fields) (s : State) : Host.Outcome State Fault Refusal :=
  fireInt 0x10 f (fun w a b _ => fitted f w (rd f w a + rd f w b)) s

/-- SUB (R83). (DEDUCED, log entry 118) -/
def execSub (f : Fields) (s : State) : Host.Outcome State Fault Refusal :=
  fireInt 0x11 f (fun w a b _ => fitted f w (rd f w a - rd f w b)) s

/-- MUL (R83). (DEDUCED, log entry 118) -/
def execMul (f : Fields) (s : State) : Host.Outcome State Fault Refusal :=
  fireInt 0x12 f (fun w a b _ => fitted f w (rd f w a * rd f w b)) s

/-- MULH (R83): the high half of the signed product. -/
def execMulh (f : Fields) (s : State) : Host.Outcome State Fault Refusal :=
  fireInt 0x13 f (fun w a b _ => wrapped w ((sgn w a * sgn w b) / (2 ^ w : Int))) s

/-- MULHU (R83): the high half of the unsigned product. -/
def execMulhu (f : Fields) (s : State) : Host.Outcome State Fault Refusal :=
  fireInt 0x14 f (fun w a b _ => (a * b / 2 ^ w, 0)) s

/-- MAD (R83): formed exactly, then wrapped or clamped once. -/
def execMad (f : Fields) (s : State) : Host.Outcome State Fault Refusal :=
  fireInt 0x15 f (fun w a b c => fitted f w (rd f w a * rd f w b + rd f w c)) s

/-- ABS (R83). -/
def execAbs (f : Fields) (s : State) : Host.Outcome State Fault Refusal :=
  fireInt 0x16 f (fun w a _ _ => fitted f w ((sgn w a).natAbs : Int)) s

/-- NEG (R83). -/
def execNeg (f : Fields) (s : State) : Host.Outcome State Fault Refusal :=
  fireInt 0x17 f (fun w a _ _ => fitted f w (-(sgn w a))) s

/-- MIN (R83). -/
def execMin (f : Fields) (s : State) : Host.Outcome State Fault Refusal :=
  fireInt 0x18 f (fun w a b _ => (if sgn w a ≤ sgn w b then a else b, 0)) s

/-- MAX (R83). -/
def execMax (f : Fields) (s : State) : Host.Outcome State Fault Refusal :=
  fireInt 0x19 f (fun w a b _ => (if sgn w a ≤ sgn w b then b else a, 0)) s

/-- MINU (R83). -/
def execMinu (f : Fields) (s : State) : Host.Outcome State Fault Refusal :=
  fireInt 0x1A f (fun _ a b _ => (Nat.min a b, 0)) s

/-- MAXU (R83). -/
def execMaxu (f : Fields) (s : State) : Host.Outcome State Fault Refusal :=
  fireInt 0x1B f (fun _ a b _ => (Nat.max a b, 0)) s

/-- AND (R83). -/
def execAnd (f : Fields) (s : State) : Host.Outcome State Fault Refusal :=
  fireInt 0x1C f (fun _ a b _ => (a &&& b, 0)) s

/-- OR (R83). -/
def execOr (f : Fields) (s : State) : Host.Outcome State Fault Refusal :=
  fireInt 0x1D f (fun _ a b _ => (a ||| b, 0)) s

/-- XOR (R83). -/
def execXor (f : Fields) (s : State) : Host.Outcome State Fault Refusal :=
  fireInt 0x1E f (fun _ a b _ => (a ^^^ b, 0)) s

/-- ANDN (R83): a AND NOT b. -/
def execAndn (f : Fields) (s : State) : Host.Outcome State Fault Refusal :=
  fireInt 0x1F f (fun w a b _ => ((BitVec.ofNat w a &&& ~~~(BitVec.ofNat w b)).toNat, 0)) s

/-- SHL (R83): 0 when the count reaches the width. -/
def execShl (f : Fields) (s : State) : Host.Outcome State Fault Refusal :=
  fireInt 0x20 f (fun w a b _ => (if b ≥ w then 0 else a * 2 ^ b % 2 ^ w, 0)) s

/-- SHR (R83): 0 when the count reaches the width. -/
def execShr (f : Fields) (s : State) : Host.Outcome State Fault Refusal :=
  fireInt 0x21 f (fun w a b _ => (if b ≥ w then 0 else a / 2 ^ b, 0)) s

/-- SAR (R83): the count stops at the width minus one. -/
def execSar (f : Fields) (s : State) : Host.Outcome State Fault Refusal :=
  fireInt 0x22 f (fun w a b _ => wrapped w (sgn w a / (2 ^ (Nat.min b (w - 1)) : Int))) s

/-- ROT (R83): left by the count modulo the width. -/
def execRot (f : Fields) (s : State) : Host.Outcome State Fault Refusal :=
  fireInt 0x23 f (fun w a b _ =>
    let n := b % w
    (a * 2 ^ n % 2 ^ w + a / 2 ^ (w - n), 0)) s

/-- CLZ (R83). -/
def execClz (f : Fields) (s : State) : Host.Outcome State Fault Refusal :=
  fireInt 0x24 f (fun w a _ _ => (((List.range w).takeWhile fun j => !a.testBit (w - 1 - j)).length, 0)) s

/-- POPC (R83). -/
def execPopc (f : Fields) (s : State) : Host.Outcome State Fault Refusal :=
  fireInt 0x25 f (fun w a _ _ => ((List.range w).countP fun j => a.testBit j, 0)) s

/-- BREV (R83). -/
def execBrev (f : Fields) (s : State) : Host.Outcome State Fault Refusal :=
  fireInt 0x26 f (fun w a _ _ =>
    ((List.range w).foldl (fun r j => if a.testBit j then r + 2 ^ (w - 1 - j) else r) 0, 0)) s

/-- The position and length fields of BFX and BFI (R82). -/
def bfPos (f : Fields) : Nat := (f.imm.extractLsb' 0 5).toNat
/-- The length of the bit field. -/
def bfLen (f : Fields) : Nat := (f.imm.extractLsb' 5 5).toNat + 1

/-- BFX (R85). -/
def execBfx (f : Fields) (s : State) : Host.Outcome State Fault Refusal :=
  fireInt 0x27 f (fun w a _ _ =>
    let v := a / 2 ^ bfPos f % 2 ^ bfLen f
    if f.uns = 1 then (v, 0) else wrapped w (sgn (bfLen f) v)) s

/-- BFI (R85): b with a field replaced by the low bits of a. -/
def execBfi (f : Fields) (s : State) : Host.Outcome State Fault Refusal :=
  fireInt 0x28 f (fun _ a b _ =>
    let p := 2 ^ bfPos f
    let n := 2 ^ bfLen f
    (b % p + (a % n) * p + b / (p * n) * (p * n), 0)) s

/-- SEL (R83): a where c is nonzero, else b. -/
def execSel (f : Fields) (s : State) : Host.Outcome State Fault Refusal :=
  fireInt 0x29 f (fun _ a b c => (if c ≠ 0 then a else b, 0)) s

/-- The result of CMP or TEST (R84): 1 in each element for which the condition holds, and the outcome of each lane. -/
def condRes (f : Fields) (t : Nat → Nat → Nat → Bool) (x : Elem) (m : Byte) : Res :=
  let o := intRes f (fun w a b _ => (if t w a b then 1 else 0, 0)) x m
  let out : Byte :=
    if f.w64 = 1 then o.nz
    else
      let w := intWidth f.efmt
      maskOf fun l =>
        let hit := fun i => elemAt w (o.val.get l) i == 1
        if f.var.getLsbD 0 then (List.range (32 / w)).any hit else (List.range (32 / w)).all hit
  { o with cmp := out }

/-- CMP (R84). -/
def execCmp (f : Fields) (s : State) : Host.Outcome State Fault Refusal :=
  fireLane 0x2A f f.efmt (condRes f fun w a b => intCond f.cc.toNat w a b) s

/-- TEST (R84). -/
def execTest (f : Fields) (s : State) : Host.Outcome State Fault Refusal :=
  fireLane 0x2B f f.efmt (condRes f fun _ a b => if f.cc = 0 then a &&& b == 0 else a &&& b != 0) s

/-- MOV (R83): bit for bit, in any format. -/
def execMov (f : Fields) (s : State) : Host.Outcome State Fault Refusal :=
  fireLane 0x2C f f.efmt (fun x m => if f.w64 = 1 then intRes f (fun _ a _ _ => (a, 0)) x m
    else Res.plain m (srcAll x f f.sa) 0) s

/-- MOVI (R86). -/
def execMovi (f : Fields) (s : State) : Host.Outcome State Fault Refusal :=
  fireLane 0x2D f f.efmt (fun _ m =>
    Res.plain m (Oct.all (if f.uns = 1 then f.imm.zeroExtend 32 else f.imm.signExtend 32)) 0) s

/-- MOVH (R86): IMM16 over the low half of a. -/
def execMovh (f : Fields) (s : State) : Host.Outcome State Fault Refusal :=
  fireInt 0x2E f (fun _ a _ _ => (f.imm.toNat * 65536 + a % 65536, 0)) s

/-- ADDR (R87). -/
def execAddr (f : Fields) (s : State) : Host.Outcome State Fault Refusal :=
  fireInt 0x2F f (fun w a b _ => wrapped w (a + b * 2 ^ f.var.toNat + f.imm.toInt)) s

/-- IDX2 (R88). -/
def execIdx2 (f : Fields) (s : State) : Host.Outcome State Fault Refusal :=
  fireLane 0x30 f f.efmt (fun x m =>
    let n := f.imm.toNat
    let chk := f.var.getLsbD 0
    let out := fun l => chk && decide ((srcLane x f f.sb l).toNat ≥ n)
    let v := Oct.ofFn fun l =>
      if out l then 0xFFFFFFFF
      else BitVec.ofNat 32 ((srcLane x f f.sa l).toNat * n + (srcLane x f f.sb l).toNat)
    { Res.plain m v 0 with cmp := maskOf fun l => chk && !out l }) s

end Sys2Proof.Machine
end

