-- ==== Sys2Proof/Machine/PredLane.lean ====
section
/-!
DEFINITION. The predicate and lane instructions (R89 to R94).
-/
namespace Sys2Proof.Machine

/-- Predicate `k` in lane `l`. -/
def predAt (x : Elem) (l k : Nat) : Bool := (x.preds.get l).getLsbD k

/-- The first operand of R90, inverted by IMM16[6]. -/
def predX (x : Elem) (f : Fields) (l : Nat) : Bool := predAt x l (f.imm.extractLsb' 0 3).toNat ^^ f.imm.getLsbD 6
/-- The second operand of R90, inverted by IMM16[7]. -/
def predY (x : Elem) (f : Fields) (l : Nat) : Bool := predAt x l (f.imm.extractLsb' 3 3).toNat ^^ f.imm.getLsbD 7

/-- A predicate instruction (R90): one bit per lane, written as the compare outcome. -/
def firePred (opc : Byte) (f : Fields) (op : Bool → Bool → Bool) (s : State) : Host.Outcome State Fault Refusal :=
  fireLane opc f 0 (fun x m => ⟨Oct.all 0, m, maskOf fun l => op (predX x f l) (predY x f l), 0, 0⟩) s

/-- PAND (R90). -/
def execPand (f : Fields) (s : State) : Host.Outcome State Fault Refusal := firePred 0x40 f (fun a b => a && b) s
/-- POR (R90). -/
def execPor (f : Fields) (s : State) : Host.Outcome State Fault Refusal := firePred 0x41 f (fun a b => a || b) s
/-- PXOR (R90). -/
def execPxor (f : Fields) (s : State) : Host.Outcome State Fault Refusal := firePred 0x42 f (fun a b => a ^^ b) s
/-- PNOT (R90). -/
def execPnot (f : Fields) (s : State) : Host.Outcome State Fault Refusal := firePred 0x43 f (fun a _ => !a) s
/-- PMOV (R90). -/
def execPmov (f : Fields) (s : State) : Host.Outcome State Fault Refusal := firePred 0x44 f (fun a _ => a) s

/-- PREG without `.set` (R91): the eight predicates of each lane. Its compare outcome, which R91 does not state, is a free value of the
lane's predicates (DESIGN CHOICE, log entry 17). -/
def execPreg (f : Fields) (s : State) : Host.Outcome State Fault Refusal :=
  fireLane 0x45 f 0 (fun x m =>
    let v : Oct Word := Oct.ofFn fun l => (x.preds.get l).zeroExtend 32
    { Res.plain m v 0 with cmp := maskOf fun l => Config.pregOutcome (x.preds.get l) }) s

/-- PREG with `.set` (R91): all eight predicates at once in the lanes of E. -/
def execPregSet (f : Fields) (s : State) : Host.Outcome State Fault Refusal :=
  fireOwn 0x45 f (Look.lane f) (fun x m =>
    let p : Oct Byte := Oct.ofFn fun l => if m.getLsbD l then (srcLane x f f.sa l).extractLsb' 0 8 else x.preds.get l
    let y := { x with preds := p }
    .done (closeFiring y f (noResult m)) id) s

/-- A lane movement (R92). -/
def fireMove (opc : Byte) (f : Fields) (g : Oct Word → Oct Word → Nat → Word) (s : State) :
    Host.Outcome State Fault Refusal :=
  fireLane opc f f.efmt (fun x m => Res.plain m (Oct.ofFn (g (srcAll x f f.sa) (srcAll x f f.sb))) 0) s

/-- BCAST (R92). -/
def execBcast (f : Fields) (s : State) : Host.Outcome State Fault Refusal :=
  fireMove 0x46 f (fun a _ _ => a.get (f.imm.extractLsb' 0 3).toNat) s

/-- PERM (R92). -/
def execPerm (f : Fields) (s : State) : Host.Outcome State Fault Refusal :=
  fireMove 0x47 f (fun a b l => a.get ((b.get l).toNat % 8)) s

/-- The lane that a SHUF form takes (R92). -/
def shufLane (form n : Nat) (a b : Oct Word) (l : Nat) : Word :=
  match form with
  | 0 => a.get ((l + n) % 8)
  | 1 => if l ≥ n then a.get (l - n) else 0
  | 2 => if l + n ≤ 7 then a.get (l + n) else 0
  | 3 => a.get (l ^^^ n)
  | 4 => if l % 2 = 0 then a.get (l / 2) else b.get ((l - 1) / 2)
  | 5 => if l % 2 = 0 then a.get (4 + l / 2) else b.get (4 + (l - 1) / 2)
  | 6 => if l ≤ 3 then a.get (2 * l) else b.get (2 * (l - 4))
  | _ => if l ≤ 3 then a.get (2 * l + 1) else b.get (2 * (l - 4) + 1)

/-- SHUF (R92). -/
def execShuf (f : Fields) (s : State) : Host.Outcome State Fault Refusal :=
  fireMove 0x48 f (shufLane f.var.toNat (f.imm.extractLsb' 0 3).toNat) s

/-- The identity of a reduction operator (R93). -/
def redId (op : Nat) : Word :=
  match op with
  | 1 => 0x7FFFFFFF
  | 2 => 0x80000000
  | 3 => 0xFFFFFFFF
  | 5 => 0xFFFFFFFF
  | _ => 0

/-- One step of a reduction other than a sum (R93). -/
def redStep (op : Nat) (x y : Word) : Word :=
  match op with
  | 1 => if x.toInt ≤ y.toInt then x else y
  | 2 => if x.toInt ≤ y.toInt then y else x
  | 3 => if x.toNat ≤ y.toNat then x else y
  | 4 => if x.toNat ≤ y.toNat then y else x
  | 5 => x &&& y
  | 6 => x ||| y
  | _ => x ^^^ y

/-- The combination of `a` over the listed lanes (R93), with SAT where a sum was clamped. -/
def combine (op : Nat) (sat : Bool) (a : Oct Word) (ls : List Nat) : Word × Byte :=
  if op = 0 then
    let r := fit (ls.foldl (fun t l => t + (a.get l).toInt) 0) 32 sat false
    (BitVec.ofNat 32 r.1, r.2)
  else (ls.foldl (fun t l => redStep op t (a.get l)) (redId op), 0)

/-- The lanes of a mask, ascending. -/
def lanesOf (m : Byte) : List Nat := (List.range 8).filter fun l => m.getLsbD l

/-- A reduction whose lane `l` combines the lanes of E that `pick l` keeps. -/
def fireRed (opc : Byte) (f : Fields) (pick : Nat → Nat → Bool) (s : State) : Host.Outcome State Fault Refusal :=
  fireLane opc f f.efmt (fun x m =>
    let a := srcAll x f f.sa
    let r := fun l => combine f.var.toNat (f.sat == 1) a ((lanesOf m).filter (pick l))
    Res.plain m (Oct.ofFn fun l => (r l).1) ((lanesOf m).foldl (fun e l => e ||| (r l).2) 0)) s

/-- LRED (R93). -/
def execLred (f : Fields) (s : State) : Host.Outcome State Fault Refusal := fireRed 0x49 f (fun _ _ => true) s

/-- LSCAN (R93). -/
def execLscan (f : Fields) (s : State) : Host.Outcome State Fault Refusal :=
  fireRed 0x4A f (fun l j => if f.imm.getLsbD 0 then decide (j < l) else decide (j ≤ l)) s

/-- The predicate that IMM16[2:0] names, as a mask over lanes (R89). -/
def immPred (x : Elem) (f : Fields) : Byte := maskOf fun l => predAt x l (f.imm.extractLsb' 0 3).toNat

/-- PCOUNT (R94). -/
def execPcount (f : Fields) (s : State) : Host.Outcome State Fault Refusal :=
  fireLane 0x4B f 0 (fun x m =>
    let p := immPred x f &&& m
    let n := fun l => (lanesOf p).countP fun j => !f.var.getLsbD 0 || decide (j < l)
    Res.plain m (Oct.ofFn fun l => BitVec.ofNat 32 (n l)) 0) s

/-- FIRST (R94). -/
def execFirst (f : Fields) (s : State) : Host.Outcome State Fault Refusal :=
  fireLane 0x4C f 0 (fun x m =>
    let j := (lowestLane (immPred x f &&& m)).getD 8
    { Res.plain m (Oct.all (BitVec.ofNat 32 j)) 0 with cmp := maskOf fun l => l == j }) s

end Sys2Proof.Machine
end

