-- ==== Sys2Proof/Machine/FloatOps.lean ====
section
/-!
DEFINITION. The floating-point instructions (R95 to R108).
-/
namespace Sys2Proof.Machine

/-- The floating format that EFMT names (R95). -/
def floatFmt (efmt : BitVec 3) : FFmt :=
  match efmt.toNat with
  | 2 => .bf16
  | 3 => .rn8
  | 4 => .f4
  | _ => .fp32

/-- Bits of an element of a format code of R9 (R72, R95). -/
def fmtWidth (fmt : Nat) : Nat :=
  match fmt with
  | 2 => 16
  | 3 => 8
  | 4 => 4
  | 5 => 8
  | 6 => 16
  | _ => 32

/-- ResolveMode of R52: code 7 takes CONV.RMODE. -/
def resolveMode (x : Elem) (rnd : BitVec 3) : RMode :=
  RMode.ofCode (if rnd = 7 then ((x.field 162).extractLsb' 0 3).toNat else rnd.toNat)

/-- The saturation of floating targets (R95). -/
def satFloat (x : Elem) (f : Fields) : Bool := f.sat == 1 || (x.field 162).getLsbD 3
/-- The saturation of integer targets (R95). -/
def satInt (x : Elem) (f : Fields) : Bool := f.sat == 1 || (x.field 162).getLsbD 4

/-- Element `i` of width `w` of a lane, as a word (R95). -/
def elemWord (w : Nat) (v : Word) (i : Nat) : Word := BitVec.ofNat 32 (elemAt w v i)

/-- A result of rounding as an element and its events. -/
def Rounded.pair (r : Rounded) : Nat × Byte := (r.bits.toNat, r.ev)

/-- Lane results of an operation on lanes, with the events of the lanes of E (R24, R95). -/
def laneRes (m : Byte) (g : Nat → Word × Byte) : Res :=
  Res.plain m (Oct.ofFn fun l => (g l).1) ((lanesOf m).foldl (fun e l => e ||| (g l).2) 0)

/-- An element-wise floating instruction (R95): `op` sees the resolved mode, satf and the element bits of a, b, c and of the
destination's old value, and gives the result element. -/
def fireFloat (opc : Byte) (f : Fields) (outFmt : BitVec 3)
    (op : RMode → Bool → Word → Word → Word → Word → Rounded) (s : State) : Host.Outcome State Fault Refusal :=
  fireLane opc f outFmt (fun x m =>
    let w := fmtWidth f.efmt.toNat
    let mode := resolveMode x f.rnd
    let sf := satFloat x f
    laneRes m fun l => laneElems w fun i =>
      let at_ := fun sp => elemWord w (srcLane x f sp l) i
      ((op mode sf (at_ f.sa) (at_ f.sb) (at_ f.sc) (at_ f.dst)).pair)) s

/-- An arithmetic instruction of R98: NaN handling over its operands, the invalid case, and one rounding. -/
def fireArith (opc : Byte) (f : Fields) (xs : Word → Word → Word → Word → List Word)
    (exact : RMode → FVal → FVal → FVal → FVal → Option FVal) (s : State) : Host.Outcome State Fault Refusal :=
  let t := floatFmt f.efmt
  fireFloat opc f f.efmt (fun mode sf a b c d =>
    let v := decodeF t
    nanFirst t ((xs a b c d).map v) (roundOpt t mode sf (exact mode (v a) (v b) (v c) (v d)))) s

/-- FADD (R98). -/
def execFadd (f : Fields) (s : State) : Host.Outcome State Fault Refusal :=
  fireArith 0x50 f (fun a b _ _ => [a, b]) (fun m a b _ _ => addE m a b) s
/-- FSUB (R98). -/
def execFsub (f : Fields) (s : State) : Host.Outcome State Fault Refusal :=
  fireArith 0x51 f (fun a b _ _ => [a, b]) (fun m a b _ _ => addE m a b.negate) s
/-- FMUL (R98). -/
def execFmul (f : Fields) (s : State) : Host.Outcome State Fault Refusal :=
  fireArith 0x52 f (fun a b _ _ => [a, b]) (fun _ a b _ _ => mulE a b) s
/-- FMA (R98): a·b + c, fused. -/
def execFma (f : Fields) (s : State) : Host.Outcome State Fault Refusal :=
  fireArith 0x53 f (fun a b c _ => [a, b, c]) (fun m a b c _ => (mulE a b).bind fun p => addE m p c) s
/-- FNMA (R98): c − a·b, fused. -/
def execFnma (f : Fields) (s : State) : Host.Outcome State Fault Refusal :=
  fireArith 0x54 f (fun a b c _ => [a, b, c]) (fun m a b c _ => (mulE a b).bind fun p => addE m c p.negate) s
/-- FMA3 (R98, R99): a·b·c + d with the destination's old element. -/
def execFma3 (f : Fields) (s : State) : Host.Outcome State Fault Refusal :=
  fireArith 0x55 f (fun a b c d => [a, b, c, d]) (fun m a b c d => (triple a b c).bind fun p => addE m p d) s

/-- FMIN and FMAX of two elements (R100): one operand unchanged. -/
def minMax (greater : Bool) (t : FFmt) (a b : Word) : Rounded :=
  let x := decodeF t a
  let y := decodeF t b
  nanFirst t [x, y] ⟨if pickVal greater x y then a else b, 0⟩

/-- FMIN (R100). -/
def execFmin (f : Fields) (s : State) : Host.Outcome State Fault Refusal :=
  fireFloat 0x56 f f.efmt (fun _ _ a b _ _ => minMax false (floatFmt f.efmt) a b) s
/-- FMAX (R100). -/
def execFmax (f : Fields) (s : State) : Host.Outcome State Fault Refusal :=
  fireFloat 0x57 f f.efmt (fun _ _ a b _ _ => minMax true (floatFmt f.efmt) a b) s

/-- FABS and FNEG of an element (R101): `flip` inverts the sign, otherwise it is cleared. -/
def signOp (flip : Bool) (t : FFmt) (a : Word) : Rounded :=
  let sb := signBit t true
  match t with
  | .rn8 => ⟨if a = 0 ∨ a = 0x80 then a else if flip then a ^^^ sb else a &&& ~~~sb, 0⟩
  | t => nanFirst t [decodeF t a] ⟨if flip then a ^^^ sb else a &&& ~~~sb, 0⟩

/-- FABS (R101). -/
def execFabs (f : Fields) (s : State) : Host.Outcome State Fault Refusal :=
  fireFloat 0x58 f f.efmt (fun _ _ a _ _ _ => signOp false (floatFmt f.efmt) a) s
/-- FNEG (R101). -/
def execFneg (f : Fields) (s : State) : Host.Outcome State Fault Refusal :=
  fireFloat 0x59 f f.efmt (fun _ _ a _ _ _ => signOp true (floatFmt f.efmt) a) s

/-- The integer format of a comparison's result (R102). -/
def cmpFmt (efmt : BitVec 3) : BitVec 3 :=
  match efmt.toNat with
  | 2 => 6
  | 3 => 5
  | _ => 0

/-- A comparison whose elements `t` decides (R102, R103): 1 or 0 per element, and the outcome of each lane. -/
def fireTest (opc : Byte) (f : Fields) (t : Word → Word → Bool × Byte) (s : State) :
    Host.Outcome State Fault Refusal :=
  fireLane opc f (cmpFmt f.efmt) (fun x m =>
    let w := fmtWidth f.efmt.toNat
    let hit := fun l i => t (elemWord w (srcLane x f f.sa l) i) (elemWord w (srcLane x f f.sb l) i)
    let o := laneRes m fun l => laneElems w fun i => (if (hit l i).1 then 1 else 0, (hit l i).2)
    let out := maskOf fun l =>
      if f.var.getLsbD 0 then (List.range (32 / w)).any fun i => (hit l i).1
      else (List.range (32 / w)).all fun i => (hit l i).1
    { o with cmp := out }) s

/-- FCMP (R102). -/
def execFcmp (f : Fields) (s : State) : Host.Outcome State Fault Refusal :=
  let t := floatFmt f.efmt
  fireTest 0x5A f (fun a b =>
    let x := decodeF t a
    let y := decodeF t b
    let cc := f.cc.toNat
    let isN := fun v : FVal => match v with | .nan _ => true | _ => false
    let quiet := cc == 0 || cc == 1 || cc == 10 || cc == 11
    let nv := if quiet then x.isSig || y.isSig else isN x || isN y
    (floatCond cc x y, if nv then evNV else 0)) s

/-- The class of an element (R103). -/
def classOf (t : FFmt) (a : Word) : Nat :=
  match decodeF t a with
  | .inf s => if s then 0 else 7
  | .nan b => if isSigBits b then 8 else 9
  | .nar => 10
  | .fin s n d =>
    if n = 0 then (if s then 3 else 4)
    else
      let sub := (match t with | .rn8 => false | _ => decide (n * 2 ^ 126 < d))
      if s then (if sub then 2 else 1) else (if sub then 5 else 6)

/-- FCLASS (R103). -/
def execFclass (f : Fields) (s : State) : Host.Outcome State Fault Refusal :=
  fireTest 0x5B f (fun a _ => (f.imm.getLsbD (classOf (floatFmt f.efmt) a), 0)) s

/-- A value rounded to an integral value of the same format (R105). -/
def rintVal (t : FFmt) (m : RMode) (a : Word) : Rounded :=
  nanFirst t [decodeF t a] (match decodeF t a with
    | .fin s n d =>
      let i := roundToInt m s n d
      let r := roundFin t .rne false s i.natAbs 1
      ⟨r.bits, if n % d = 0 then 0 else evNX⟩
    | _ => ⟨a, 0⟩)

/-- FRINT (R105). -/
def execFrint (f : Fields) (s : State) : Host.Outcome State Fault Refusal :=
  fireFloat 0x5C f f.efmt (fun m _ a _ _ _ => rintVal (floatFmt f.efmt) m a) s

/-- FTOI (R105). -/
def execFtoi (f : Fields) (s : State) : Host.Outcome State Fault Refusal :=
  fireLane 0x5D f (if f.efmt = 2 then 6 else 0) (fun x m =>
    let w := fmtWidth f.efmt.toNat
    laneRes m fun l => laneElems w fun i =>
      (convToInt w (f.uns == 1) (resolveMode x f.rnd) (satInt x f)
        (decodeF (floatFmt f.efmt) (elemWord w (srcLane x f f.sa l) i))).pair) s

/-- ITOF (R105). -/
def execItof (f : Fields) (s : State) : Host.Outcome State Fault Refusal :=
  fireLane 0x5E f (if f.efmt = 6 then 2 else 1) (fun x m =>
    let w := fmtWidth f.efmt.toNat
    let t : FFmt := if f.efmt = 6 then .bf16 else .fp32
    laneRes m fun l => laneElems w fun i =>
      let v := elemAt w (srcLane x f f.sa l) i
      (roundConv t (resolveMode x f.rnd) false (FVal.ofInt (if f.uns = 1 then (v : Int) else sgn w v))).pair) s

/-- A function of one FP32 operand (R106), NaN handling first. -/
def fireFun (opc : Byte) (f : Fields) (g : RMode → Bool → Bool → Nat → Nat → Rounded) (h : Bool → Rounded) (s : State) :
    Host.Outcome State Fault Refusal :=
  fireFloat opc f f.efmt (fun m sf a _ _ _ =>
    nanFirst .fp32 [decodeFp32 a] (match decodeFp32 a with
      | .fin sg n d => g m sf sg n d
      | .inf sg => h sg
      | _ => invalidOf .fp32)) s

/-- FRCP (R106). -/
def execFrcp (f : Fields) (s : State) : Host.Outcome State Fault Refusal :=
  fireFun 0x5F f (fun m sf sg n d => if n = 0 then ⟨infBits .fp32 sg, evDZ⟩ else roundFin .fp32 m sf sg d n)
    (fun sg => ⟨zeroBits .fp32 sg, 0⟩) s

/-- FRSQ (R106). -/
def execFrsq (f : Fields) (s : State) : Host.Outcome State Fault Refusal :=
  fireFun 0x60 f (fun m _ sg n d =>
    if n = 0 then ⟨infBits .fp32 sg, evDZ⟩ else if sg then invalidOf .fp32 else roundArith .fp32 m false (rsqrtVal n d))
    (fun sg => if sg then invalidOf .fp32 else ⟨0, 0⟩) s

/-- FEXPF (R106). -/
def execFexpf (f : Fields) (s : State) : Host.Outcome State Fault Refusal :=
  fireFun 0x61 f (fun m _ sg n d =>
    if n = 0 then ⟨0x3F800000, 0⟩ else if d < n then invalidOf .fp32 else roundArith .fp32 m false (exp2Val sg n d))
    (fun _ => invalidOf .fp32) s

/-- FLOGF (R106). -/
def execFlogf (f : Fields) (s : State) : Host.Outcome State Fault Refusal :=
  fireFun 0x62 f (fun m _ sg n d =>
    if n = 0 then ⟨infBits .fp32 true, evDZ⟩
    else if sg || decide (2 * n < d) || decide (2 * d < n) then invalidOf .fp32
    else roundArith .fp32 m false (log2Val n d))
    (fun sg => if sg then invalidOf .fp32 else ⟨infBits .fp32 false, 0⟩) s

/-- y·2^n of R107, case by case. -/
def expIns (m : RMode) (sf : Bool) (a b : Word) : Rounded :=
  let y := decodeFp32 a
  nanFirst .fp32 [y, decodeFp32 b] (match decodeFp32 b with
    | .fin bs n d =>
      if n % d ≠ 0 then invalidOf .fp32
      else
        match y with
        | .fin s k e =>
          if k = 0 then ⟨a, 0⟩
          else
            let p := Nat.min (n / d) 1000
            if bs then roundFin .fp32 m sf s k (e * 2 ^ p) else roundFin .fp32 m sf s (k * 2 ^ p) e
        | _ => ⟨a, 0⟩
    | .inf bs =>
      if bs then (match y with | .inf _ => invalidOf .fp32 | _ => ⟨zeroBits .fp32 y.sign, 0⟩)
      else if y.isZero then invalidOf .fp32 else ⟨infBits .fp32 y.sign, 0⟩
    | _ => invalidOf .fp32)

/-- FEXPINS (R107). -/
def execFexpins (f : Fields) (s : State) : Host.Outcome State Fault Refusal :=
  fireFloat 0x63 f f.efmt (fun m sf a b _ _ => expIns m sf a b) s

/-- FEXPEXT (R107). -/
def execFexpext (f : Fields) (s : State) : Host.Outcome State Fault Refusal :=
  fireFloat 0x64 f 0 (fun _ _ a _ _ _ =>
    match decodeFp32 a with
    | .fin _ n d => if n = 0 then ⟨0x80000000, evNV⟩ else ⟨wordOfInt 32 (floorLog2 n d), 0⟩
    | _ => ⟨0x80000000, evNV⟩) s

/-- FMANT (R107). -/
def execFmant (f : Fields) (s : State) : Host.Outcome State Fault Refusal :=
  fireFun 0x65 f (fun _ _ sg n d =>
    if n = 0 then ⟨zeroBits .fp32 sg, 0⟩
    else
      let e := floorLog2 n d
      if 0 ≤ e then roundFin .fp32 .rne false sg n (d * 2 ^ e.toNat)
      else roundFin .fp32 .rne false sg (n * 2 ^ (-e).toNat) d)
    (fun sg => ⟨infBits .fp32 sg, 0⟩) s

/-- The exact sum of values, the first taken as it is; nothing where an addition is invalid. -/
def sumE (m : RMode) : List (Option FVal) → Option FVal
  | [] => none
  | v :: vs => vs.foldl (fun t u => t.bind fun a => u.bind fun b => addE m a b) v

/-- A dot product (R104) over `n` elements: `term` gives each product, and the destination's FP32 value is added. -/
def fireDot (opc : Byte) (f : Fields) (n : Nat) (three : Bool) (s : State) : Host.Outcome State Fault Refusal :=
  fireLane opc f 1 (fun x m =>
    let w := fmtWidth f.efmt.toNat
    let t := floatFmt f.efmt
    let mode := resolveMode x f.rnd
    laneRes m fun l =>
      let e := fun sp => (List.range n).map fun i => (decodeF t (elemWord w (srcLane x f sp l) i)).narAsNaN
      let d := decodeFp32 (srcLane x f f.dst l)
      let prods := if three then (((e f.sa).zip (e f.sb)).zip (e f.sc)).map fun p => triple p.1.1 p.1.2 p.2
        else ((e f.sa).zip (e f.sb)).map fun p => mulE p.1 p.2
      let xs := e f.sa ++ e f.sb ++ (if three then e f.sc else []) ++ [d]
      let r := nanFirst .fp32 xs (roundOpt .fp32 mode (satFloat x f) (sumE mode (prods ++ [some d])))
      (r.bits, r.ev)) s

/-- FDOT2 (R104). -/
def execFdot2 (f : Fields) (s : State) : Host.Outcome State Fault Refusal := fireDot 0x66 f 2 false s
/-- FDOT4 (R104). -/
def execFdot4 (f : Fields) (s : State) : Host.Outcome State Fault Refusal := fireDot 0x67 f 4 false s
/-- FTRI (R104). -/
def execFtri (f : Fields) (s : State) : Host.Outcome State Fault Refusal := fireDot 0x68 f 2 true s

end Sys2Proof.Machine
end

