-- ==== Sys2Proof/Machine/ConvOps.lean ====
section
/-!
DEFINITION. The conversion instructions (R109 to R116).
-/
namespace Sys2Proof.Machine

/-- Whether a format code of R9 is an integer format. -/
def isIntFmt (fmt : Nat) : Bool := fmt == 0 || fmt == 5 || fmt == 6 || fmt == 7

/-- Whether a format code is unsigned by itself (COORD; R110) or by UNS. -/
def isUns (f : Fields) (fmt : Nat) : Bool := f.uns == 1 || fmt == 7

/-- One source element converted to a format (R45, R110, R111): integer to floating and back, floating to floating, and
integer to integer by Fit. (DEDUCED, log entry 145) -/
def convElem (x : Elem) (f : Fields) (src tgt : Nat) (sf si : Bool) (v : Nat) : Rounded :=
  let ws := fmtWidth src
  let wt := fmtWidth tgt
  let mode := resolveMode x f.rnd
  if isIntFmt src then
    let i : Int := if isUns f src then (v : Int) else sgn ws v
    if isIntFmt tgt then
      let r := fit i wt si (f.uns == 1)
      ⟨BitVec.ofNat 32 r.1, r.2⟩
    else roundConv (floatFmt (BitVec.ofNat 3 tgt)) mode sf (FVal.ofInt i)
  else
    let val := decodeF (floatFmt (BitVec.ofNat 3 src)) (BitVec.ofNat 32 v)
    if isIntFmt tgt then convToInt wt (isUns f tgt) mode si val
    else roundConv (floatFmt (BitVec.ofNat 3 tgt)) mode sf val

/-- CVT (R110). -/
def execCvt (f : Fields) (s : State) : Host.Outcome State Fault Refusal :=
  let src := f.efmt.toNat
  let tgt := f.var.toNat
  fireLane 0x80 f f.var (fun x m =>
    let w := fmtWidth src
    laneRes m fun l => laneElems w fun i =>
      (convElem x f src tgt (satFloat x f) (satInt x f) (elemAt w (srcLane x f f.sa l) i)).pair) s

/-- The elements of a PACK result in one lane (R111): a's elements and then b's, at 2s·p upward, with the other elements as
`old` holds them. -/
def packLane (x : Elem) (f : Fields) (src tgt : Nat) (p : Nat) (sf si : Bool) (l : Nat) (old : Word) : Word × Byte × Nat :=
  let ws := fmtWidth src
  let wt := fmtWidth tgt
  let n := 32 / ws
  let conv := fun i =>
    let sp := if i < n then f.sa else f.sb
    convElem x f src tgt sf si (elemAt ws (srcLane x f sp l) (i % n))
  let base := 2 * n * p
  let r := laneElems wt fun j =>
    if base ≤ j ∧ j < base + 2 * n then (conv (j - base)).pair else (elemAt wt old j, 0)
  let ovr := (List.range (2 * n)).foldl (fun k i => if (conv i).ev &&& evOF != 0 then k + 2 ^ (base + i) else k) 0
  (r.1, r.2, ovr)

/-- PACK (R111). (DEDUCED, log entry 19) -/
def execPack (f : Fields) (s : State) : Host.Outcome State Fault Refusal :=
  let src := f.efmt.toNat
  let tgt := f.var.toNat
  fireLane 0x81 f f.var (fun x m =>
    let four := fmtWidth src = 4 * fmtWidth tgt
    laneRes m fun l =>
      let r := packLane x f src tgt (if four then (f.imm.extractLsb' 0 1).toNat else 0) (satFloat x f) (satInt x f) l
        (if four then srcLane x f f.dst l else 0)
      (r.1, r.2.1)) s

/-- A value widened exactly into a format (R112); an infinite source under SATF becomes the largest finite value (R45). -/
def widen (x : Elem) (f : Fields) (tgt : Nat) (v : FVal) : Rounded :=
  roundConv (floatFmt (BitVec.ofNat 3 tgt)) .rne (satFloat x f) v

/-- UNPK (R112): element p, or elements 2p and 2p+1, of a. -/
def execUnpk (f : Fields) (s : State) : Host.Outcome State Fault Refusal :=
  let src := f.efmt.toNat
  let tgt := f.var.toNat
  fireLane 0x82 f f.var (fun x m =>
    let ws := fmtWidth src
    let wt := fmtWidth tgt
    let n := 32 / wt
    let p := (f.imm.extractLsb' 0 3).toNat
    laneRes m fun l => laneElems wt fun j =>
      let v := elemAt ws (srcLane x f f.sa l) (n * p + j)
      if isIntFmt src then wrapped wt (if f.uns = 1 then (v : Int) else sgn ws v)
      else if src = 4 then (widen x f tgt (decodeF4 (BitVec.ofNat 32 v) (srcLane x f f.sb l))).pair
      else (widen x f tgt (decodeF (floatFmt f.efmt) (BitVec.ofNat 32 v))).pair) s

/-- The greater of two finite magnitudes, as fractions. -/
def maxFrac (a b : Nat × Nat) : Nat × Nat := if a.1 * b.2 < b.1 * a.2 then b else a

/-- The scale that GSCALE picks (R113): the smallest positive Ralnum-8 magnitude s with m ≤ 3·s. -/
def groupScale (vs : List FVal) : Word × Byte :=
  if vs.any FVal.isNaN then (0x80, if vs.any FVal.isSig then evNV else 0)
  else if vs.any (fun v => match v with | .inf _ => true | _ => false) then (0x40, 0)
  else
    let mag := fun v : FVal => match v with | .fin _ n d => (n, d) | _ => (0, 1)
    let q := (vs.map mag).foldl maxFrac (0, 1)
    if q.1 = 0 then (0x60, 0)
    else
      match rn8Ranks.find? fun p => decide (q.1 * 2048 ≤ 3 * rn8Units p * q.2) with
      | some p => (BitVec.ofNat 32 p, 0)
      | none => (0x40, 0)

/-- GSCALE (R113). -/
def execGscale (f : Fields) (s : State) : Host.Outcome State Fault Refusal :=
  fireLane 0x83 f 3 (fun x m =>
    let r := groupScale ((lanesOf m).map fun l => decodeFp32 (srcLane x f f.sa l))
    Res.plain m (Oct.all r.1) (if m = 0 then 0 else r.2)) s

/-- The eight codes of QSCALE and their events (R114): element i is lane i of a over the scale, rounded once to F4. Only the
lanes of E raise an event (R24; log entry 26). -/
def quantize (x : Elem) (f : Fields) (m : Byte) (p : Nat) : Nat × Byte × Nat :=
  let sc := (srcLane x f f.sb p) &&& 0xFF
  let mode := resolveMode x f.rnd
  let code := fun i : Nat =>
    match decodeRn8 sc with
    | .fin st sn sd =>
      if !m.getLsbD i then (⟨0, 0⟩ : Rounded)
      else if sn = 0 then ⟨0, evNV⟩
      else
        match decodeFp32 (srcLane x f f.sa i) with
        | .fin t n d => roundFin .f4 mode true (t != st) (n * sd) (d * sn)
        | .inf t => roundConv .f4 mode true (.inf (t != st))
        | v => roundConv .f4 mode true v
    | _ => ⟨0, if m.getLsbD i then evNV else 0⟩
  (List.range 8).foldl (fun r i =>
    let c := code i
    (r.1 + c.bits.toNat * 16 ^ i, r.2.1 ||| c.ev, if c.ev &&& evOF != 0 then r.2.2 + 2 ^ i else r.2.2)) (0, 0, 0)

/-- The commit of a firing that writes lane `p` of its destination register whether or not it is in E (R114). In the other lanes the entry states no result
(log entry 25): `nz` says which of them count as nonzero. -/
def commitLane (x : Elem) (f : Fields) (m nz : Byte) (p code : Nat) (ev : Byte) : Elem :=
  let y := match regOf f.dst with
    | some k => x.writeLanes k (maskOf fun l => l == p) (Oct.all (BitVec.ofNat 32 code))
    | none => x
  closeFiring y f ⟨Oct.all 0, m, 0, maskOf fun l => if l = p then code != 0 else nz.getLsbD l, ev⟩

/-- QSCALE (R114). (DEDUCED, log entry 26) -/
def execQscale (f : Fields) (s : State) : Host.Outcome State Fault Refusal :=
  fireOwn 0x84 f (Look.lane f) (fun x m =>
    let p := (f.imm.extractLsb' 0 3).toNat
    let r := quantize x f m p
    .done (commitLane x f m (s.openRes m).nz p r.1 r.2.1) (usedRes f)) s

/-- The overflow notice of CVTOV (R115): lane l holds the mask of its overflowed elements. -/
def ovfToken (seq : BitVec 12) (ovr : Nat → Nat) : Token :=
  let v : Oct Word := Oct.ofFn fun l => BitVec.ofNat 32 (ovr l)
  ⟨seq, nonzero v, 0, kOvf, 0, v⟩

/-- Pushes the notice of a CVTOV firing, or drops it and sets OVFD (R115). -/
def notify (f : Fields) (seq : BitVec 12) (ovr : Nat → Nat) (x : Elem) : Elem :=
  if (List.range 8).all fun l => ovr l == 0 then x
  else if f.imm.getLsbD 2 then x.push (f.imm.extractLsb' 0 2).toNat (ovfToken seq ovr)
  else x.flag evOVFD

/-- CVTOV (R115): saturating in every form, with a notice of the elements that overflowed. (DEDUCED, log entry 26) -/
def execCvtov (f : Fields) (s : State) : Host.Outcome State Fault Refusal :=
  let b := (f.imm.extractLsb' 0 2).toNat
  let outs := (outOf f.dst).toList ++ (if f.imm.getLsbD 2 then [b] else [])
  fireOwn 0x85 f { Look.lane f with outs := outs } (fun x m =>
    if f.var = 4 then
      let p := (f.imm.extractLsb' 3 3).toNat
      let r := quantize x f m p
      .done (notify f (seqFor x f b) (fun l => if l = p then r.2.2 else 0) (commitLane x f m (s.openRes m).nz p r.1 r.2.1)) (usedRes f)
    else
      let tgt := f.var.toNat
      let g := fun l => packLane x f f.efmt.toNat tgt 0 true true l 0
      let o := laneRes m fun l => ((g l).1, (g l).2.1)
      let seq := match outOf f.dst with
        | some c => seqFor x f c
        | none => seqFor x f b
      match commitRes x f f.var o with
      | .done y k => .done (notify f seq (fun l => if m.getLsbD l then (g l).2.2 else 0) y) k
      | r => r) s

end Sys2Proof.Machine
end

