-- ==== Sys2Proof/Machine/StreamOps.lean ====
section
/-!
DEFINITION. The stream and fiber instructions (R157 to R182).
-/
namespace Sys2Proof.Machine

/-- The check of CheckToken for a token of a stream of level `lv` (R160): the STREAM detail it raises, if any. -/
def trackFault (tr : Tracker) (t : Token) (lv : Nat) : Option Byte :=
  let atTop := tr.st == 2 && tr.lvl.toNat == lv
  if t.kind = kPoison then some 0x06
  else if t.kind ≠ kData ∧ t.kind ≠ kStop ∧ t.kind ≠ kDone then some 0x08
  else if tr.st = 3 then some 0x05
  else if t.kind = kData then
    if atTop then some 0x03
    else if t.fmt = 7 ∧ tr.lcv = true ∧ (t.lanes.get 0).toNat ≤ tr.lc.toNat then some 0x01
    else none
  else if t.kind = kStop then
    let j := t.lvl.toNat
    if j > lv ∨ atTop = true then some 0x02
    else if (tr.st = 1 ∧ j ≥ 1) ∨ (tr.st = 2 ∧ j > tr.lvl.toNat + 1) then some 0x03
    else none
  else if atTop then none
  else some 0x03

/-- The tracker after it took a token (R160). -/
def trackNext (tr : Tracker) (t : Token) : Tracker :=
  if t.kind = kData then
    (if t.fmt = 7 then { tr with st := 1, lc := t.lanes.get 0, lcv := true } else { tr with st := 1 })
  else if t.kind = kStop then { tr with st := 2, lvl := t.lvl, lcv := false }
  else { tr with st := 3 }

/-- The fault of the heads that a walker's step reads, in ascending channel order (R160). -/
def headFault (x : Elem) (ks : List Nat) : Option FaultRec :=
  ([0, 1, 2, 3].filter fun k => ks.contains k).findSome? fun k =>
    match x.head k with
    | some t =>
      if t.kind = kPoison then some ((FaultRec.of 0x03 0x06).token k t.seq)
      else if t.kind ≠ kData ∧ t.kind ≠ kStop ∧ t.kind ≠ kDone then some ((FaultRec.of 0x03 0x08).token k t.seq)
      else none
    | none => none

/-- A walker's step: the channels it dequeues with the level of their streams, the tokens it pushes, what it does to the
element beside, its compare outcome, its events, whether pushed tokens keep their own seq (R163, R398), and the fault that takes its place
where two of its heads do not match (R170, R175). (DEDUCED, log entry 31) -/
structure WStep where
  deq  : List (Nat × Nat)
  out  : List (Nat × Token)
  upd  : Elem → Elem
  cmp  : Bool
  ev   : Byte
  keep : Bool
  bad  : Option FaultRec

/-- A step that only dequeues and pushes. -/
def WStep.of (deq : List (Nat × Nat)) (out : List (Nat × Token)) : WStep := ⟨deq, out, id, false, 0, false, none⟩

/-- A STREAM fault on a channel. -/
def streamFault (x : Elem) (det : Byte) (k : Nat) : FaultRec :=
  (FaultRec.of 0x03 det).token k (((x.head k).map (·.seq)).getD 0)

/-- The fault of the first dequeued token, up the channels, that its tracker refuses (R160). (DEDUCED, log entry 141) -/
def grammarFault (x : Elem) (deq : List (Nat × Nat)) : Option FaultRec :=
  ([0, 1, 2, 3].flatMap fun k => deq.filter fun p => p.1 == k).findSome? fun p =>
    match x.head p.1 with
    | some t => (trackFault (x.tracker p.1) t p.2).map fun d => (FaultRec.of 0x03 d).token p.1 t.seq
    | none => none

/-- The effect of a walker's step: it waits for the credit of its DATA pushes (R145); heads that do not match and then every dequeued token
are checked, tokens are pushed with SEQOc (or their own seq), the trackers advance, and the firing closes (R160, R163, R170, R175).
(DEDUCED, log entry 141) -/
def walkStep (x : Elem) (f : Fields) (m : Byte) (w : WStep) : Fired :=
  if w.out.all fun p => x.mayPush p.1 p.2.kind then
    match w.bad.or (grammarFault x w.deq) with
    | some r => .fault r
    | none =>
      let y := w.upd x
      let y := w.out.foldl (fun y p => y.push p.1 (if w.keep then p.2 else { p.2 with seq := y.seqOut p.1 })) y
      let y := w.deq.foldl (fun y p =>
        match x.head p.1 with
        | some t => { y with trk := SMap.set y.trk p.1 (trackNext (x.tracker p.1) t) }.dequeue p.1
        | none => y) y
      .done (closeFiring y f ⟨Oct.all 0, m, if w.cmp then 0xFF else 0, 0, w.ev⟩) id
  else .wait

/-- A walker (R162, R163): it reads the heads of `reads`, and `step` chooses its step or its fault. (DEDUCED, log entry 141) -/
def fireWalk (opc : Byte) (f : Fields) (reads outs : List Nat) (step : Elem → Byte → Except FaultRec WStep) (s : State) :
    Host.Outcome State Fault Refusal :=
  fire opc f ⟨chansIn f.deq, reads, outs⟩ (fun x =>
    match laneFault s x { f with sa := 30, sb := if 16 ≤ f.sb.toNat ∧ f.sb.toNat ≤ 19 then 30 else f.sb, sc := 30 }, headFault x reads with
    | some r, _ => .fault r
    | none, some r => .fault r
    | none, none =>
      let m := walkerLanes x f
      match step x m with
      | .error r => .fault r
      | .ok w => walkStep x f m w) s

/-- A STOP token of a level (R164). -/
def stopTok (j : Nat) : Token := markTok kStop (BitVec.ofNat 3 j)
/-- A DONE token (R164). -/
def doneTok : Token := markTok kDone 0
/-- A coordinate token (R164). -/
def coordTok (c : Word) : Token := ⟨0, 1, 7, kData, 0, Oct.ofFn fun l => if l = 0 then c else 0⟩
/-- A zero value token (R164). -/
def zeroTok (fmt : BitVec 3) : Token := dataTok fmt 0xFF (Oct.all 0)

/-- The head of a channel, or a stand-in where there is none. -/
def headOf (x : Elem) (k : Nat) : Token := (x.head k).getD doneTok

/-- The channel that a source names, 0 where it names none. -/
def chanIx (sp : BitVec 6) : Nat := (chanOf sp).getD 0
/-- The output that the destination names, 0 where it names none. -/
def outIx (f : Fields) : Nat := (outOf f.dst).getD 0

/-- An IMM16 field: `n` bits from bit `i`. -/
def immBits (f : Fields) (i n : Nat) : Nat := f.imm.toNat / 2 ^ i % 2 ^ n

/-- SCAN (R169). (DEDUCED, log entry 31) -/
def execScan (f : Fields) (s : State) : Host.Outcome State Fault Refusal :=
  let k := chanIx f.sa
  let c := outIx f
  let lv := immBits f 0 3
  let stop := f.var.getLsbD 1
  fireWalk 0x90 f [k] [c] (fun x _ =>
    let h := headOf x k
    let u := x.su
    if h.kind = kData then
      if u.flag then .ok { WStep.of [(k, lv)] [(c, stopTok 0)] with
        upd := fun y => { y with su := { y.su with flag := false, phase := 0 } } }
      else
        let pos := if u.phase = 0 then h.lanes.get 0 else u.spos
        let rem := if u.phase = 0 then h.lanes.get 1 else u.srem
        if rem = 0 then .ok { WStep.of [(k, lv)] (if stop then [(c, stopTok 0)] else []) with
          upd := fun y => { y with su := { y.su with phase := 0, spos := pos, srem := rem } } }
        else
          let n := Nat.min rem.toNat (if f.var.getLsbD 0 then 1 else 8)
          let st := h.lanes.get 2
          let t := dataTok f.efmt (maskOf fun l => decide (l < n))
            (Oct.ofFn fun l => if l < n then pos + BitVec.ofNat 32 l * st else 0)
          let rem' := rem - BitVec.ofNat 32 n
          let last := rem' == 0
          .ok { WStep.of (if last && !stop then [(k, lv)] else []) [(c, t)] with
            upd := fun y => { y with su := { y.su with
              spos := pos + BitVec.ofNat 32 n * st, srem := rem',
              flag := last && stop, phase := if last && !stop then 0 else if u.phase = 0 then 1 else u.phase } } }
    else if h.kind = kStop then
      .ok (WStep.of [(k, lv)] [(c, stopTok (if stop then h.lvl.toNat + 1 else h.lvl.toNat))])
    else .ok (WStep.of [(k, lv)] [(c, doneTok)])) s

/-- The three merges of R170. -/
inductive Merge where
  | intsc
  | union
  | join
deriving DecidableEq, Repr

/-- Whether two heads have the same kind, and for STOP the same level (R170, R230). -/
def sameMark (t u : Token) : Bool := t.kind == u.kind && (t.kind != kStop || t.lvl == u.lvl)

/-- One step of a merge (R170). Of two value channels that do not match, I1 is named. (DEDUCED, log entry 141) -/
def mergeStep (g : Merge) (f : Fields) (x : Elem) : Except FaultRec WStep :=
  let va := f.var.getLsbD 0
  let vb := f.var.getLsbD 1
  let co := f.var.getLsbD 2
  let lv := immBits f 0 3
  let a := headOf x 0
  let b := headOf x 2
  let dA := (0, lv) :: (if va then [(1, lv)] else [])
  let dB := (2, lv) :: (if vb then [(3, lv)] else [])
  let push := fun (c v w : Token) =>
    (if co then [(0, c)] else []) ++ (if va then [(1, v)] else []) ++ (if vb then [(2, w)] else [])
  let badVal := fun (pa pb : Bool) =>
    if pa && va && !sameMark (headOf x 1) a then some (streamFault x 0x04 1)
    else if pb && vb && !sameMark (headOf x 3) b then some (streamFault x 0x04 3) else none
  let z := zeroTok f.efmt
  let go := fun (pa pb : Bool) (out : List (Nat × Token)) (hit : Bool) =>
    Except.ok { WStep.of ((if pa then dA else []) ++ (if pb then dB else [])) out with cmp := hit, bad := badVal pa pb }
  let aOnly := go true false (if g = .intsc then [] else push (coordTok (a.lanes.get 0)) (headOf x 1) z) false
  let bOnly := go false true (if g = .union then push (coordTok (b.lanes.get 0)) z (headOf x 3) else []) false
  if a.kind = kData ∧ b.kind = kData then
    let ca := (a.lanes.get 0).toNat
    let cb := (b.lanes.get 0).toNat
    if ca < cb then aOnly else if cb < ca then bOnly
    else go true true (push (coordTok (a.lanes.get 0)) (headOf x 1) (headOf x 3)) true
  else if a.kind = kData ∧ b.kind = kStop ∧ b.lvl = 0 then aOnly
  else if b.kind = kData ∧ a.kind = kStop ∧ a.lvl = 0 then bOnly
  else if a.kind = kStop ∧ b.kind = kStop ∧ a.lvl = b.lvl then
    go true true (push (stopTok a.lvl.toNat) (stopTok a.lvl.toNat) (stopTok a.lvl.toNat)) false
  else if a.kind = kDone ∧ b.kind = kDone then go true true (push doneTok doneTok doneTok) false
  else if b.kind = kData then .error (streamFault x 0x04 0)
  else .error (streamFault x 0x04 2)

/-- A merge with its opcode (R170). -/
def fireMerge (opc : Byte) (g : Merge) (f : Fields) (s : State) : Host.Outcome State Fault Refusal :=
  let ins := [0] ++ (if f.var.getLsbD 0 then [1] else []) ++ [2] ++ (if f.var.getLsbD 1 then [3] else [])
  let outs := (if f.var.getLsbD 2 then [0] else []) ++ (if f.var.getLsbD 0 then [1] else [])
    ++ (if f.var.getLsbD 1 then [2] else [])
  fireWalk opc f ins outs (fun x _ => mergeStep g f x) s

/-- INTSC (R170). -/
def execIntsc (f : Fields) (s : State) : Host.Outcome State Fault Refusal := fireMerge 0x91 .intsc f s
/-- UNION (R170). -/
def execUnion (f : Fields) (s : State) : Host.Outcome State Fault Refusal := fireMerge 0x92 .union f s
/-- JOIN (R170). -/
def execJoin (f : Fields) (s : State) : Host.Outcome State Fault Refusal := fireMerge 0x93 .join f s

/-- REPT (R171). -/
def execRept (f : Fields) (s : State) : Host.Outcome State Fault Refusal :=
  let v := chanIx f.sa
  let r := chanIx f.sb
  let c := outIx f
  let lv := immBits f 0 3
  fireWalk 0x94 f [v, r] [c] (fun x _ =>
    let hv := headOf x v
    let hr := headOf x r
    let both := [(r, lv), (v, lv - 1)]
    if hr.kind = kData ∧ hv.kind = kData then .ok (WStep.of [(r, lv)] [(c, hv)])
    else if hr.kind = kStop ∧ hr.lvl = 0 ∧ hv.kind = kData then .ok (WStep.of both [(c, stopTok 0)])
    else if hr.kind = kStop ∧ hr.lvl ≠ 0 ∧ hv.kind = kStop ∧ hv.lvl = hr.lvl - 1 then
      .ok (WStep.of both [(c, stopTok hr.lvl.toNat)])
    else if hr.kind = kDone ∧ hv.kind = kDone then .ok (WStep.of both [(c, doneTok)])
    else .error (streamFault x 0x04 v)) s

/-- The operator of REDS on one lane (R172), element by element. -/
def redsOp (x : Elem) (f : Fields) (a h : Word) : Word × Byte :=
  let t := floatFmt f.efmt
  let w := fmtWidth f.efmt.toNat
  match f.var.toNat with
  | 0 =>
    let r := fit (a.toInt + h.toInt) 32 (f.sat == 1) false
    (BitVec.ofNat 32 r.1, r.2)
  | 1 => laneElems w fun i =>
      let p := decodeF t (elemWord w a i)
      let q := decodeF t (elemWord w h i)
      let m := resolveMode x f.rnd
      (nanFirst t [p, q] (roundOpt t m (satFloat x f) (addE m p q))).pair
  | 2 => laneElems w fun i => (minMax true t (elemWord w a i) (elemWord w h i)).pair
  | _ => laneElems w fun i => (minMax false t (elemWord w a i) (elemWord w h i)).pair

/-- The identity of a REDS operator (R172). -/
def redsId (f : Fields) : Word :=
  match f.var.toNat with
  | 2 => if f.efmt = 2 then 0xFF80FF80 else 0xFF800000
  | 3 => if f.efmt = 2 then 0x7F807F80 else 0x7F800000
  | _ => 0

/-- REDS (R172). -/
def execReds (f : Fields) (s : State) : Host.Outcome State Fault Refusal :=
  let k := chanIx f.sa
  let c := outIx f
  let j := immBits f 0 3
  let lv := immBits f 3 3
  let rx := f.sb.toNat
  fireWalk 0x95 f [k] [c] (fun x m =>
    let h := headOf x k
    let acc := x.reg rx
    if h.kind = kData then
      let on := m &&& h.vmask
      let r := fun l => redsOp x f (acc.get l) (h.lanes.get l)
      .ok { WStep.of [(k, lv)] [] with
        upd := fun y => y.writeLanes rx on (Oct.ofFn fun l => (r l).1)
        ev := (lanesOf on).foldl (fun e l => e ||| (r l).2) 0 }
    else if h.kind = kStop then
      let n := h.lvl.toNat
      if n < j then .ok (WStep.of [(k, lv)] [])
      else if n = j then
        let t := dataTok f.efmt m (Oct.ofFn fun l => if m.getLsbD l then acc.get l else 0)
        .ok { WStep.of [(k, lv)] [(c, t)] with upd := fun y => y.writeLanes rx m (Oct.all (redsId f)) }
      else .ok (WStep.of [(k, lv)] [(c, stopTok (n - j - 1))])
    else .ok (WStep.of [(k, lv)] [(c, doneTok)])) s

/-- CRDDROP (R173). -/
def execCrddrop (f : Fields) (s : State) : Host.Outcome State Fault Refusal :=
  let o := chanIx f.sa
  let i := chanIx f.sb
  let a := outIx f
  let b := immBits f 3 2
  let lv := immBits f 0 3
  fireWalk 0x96 f [o, i] [a, b] (fun x _ =>
    let ho := headOf x o
    let hi := headOf x i
    let both := [(o, lv), (i, lv + 1)]
    let flag := fun (v : Bool) (y : Elem) => { y with su := { y.su with flag := v } }
    if ho.kind = kData ∧ hi.kind = kData then
      .ok { WStep.of [(i, lv + 1)] ((if x.su.flag then [] else [(a, coordTok (ho.lanes.get 0))]) ++ [(b, hi)]) with
        upd := flag true }
    else if ho.kind = kData ∧ hi.kind = kStop ∧ hi.lvl = 0 then
      .ok { WStep.of both (if x.su.flag then [(b, stopTok 0)] else []) with upd := flag false }
    else if ho.kind = kStop ∧ hi.kind = kStop ∧ hi.lvl.toNat = ho.lvl.toNat + 1 then
      .ok { WStep.of both [(a, stopTok ho.lvl.toNat), (b, stopTok hi.lvl.toNat)] with upd := flag false }
    else if ho.kind = kDone ∧ hi.kind = kDone then
      .ok { WStep.of both [(a, doneTok), (b, doneTok)] with upd := flag false }
    else .error (streamFault x 0x04 i)) s

/-- STOPLV `.lower` (R174). -/
def execStoplvLower (f : Fields) (s : State) : Host.Outcome State Fault Refusal :=
  let k := chanIx f.sa
  let c := outIx f
  let lv := immBits f 0 3
  let n := immBits f 3 3
  fireWalk 0x97 f [k] [c] (fun x _ =>
    let h := headOf x k
    if h.kind = kStop then
      .ok (WStep.of [(k, lv)] (if h.lvl.toNat < n then [] else [(c, stopTok (h.lvl.toNat - n))]))
    else .ok (WStep.of [(k, lv)] [(c, h)])) s

/-- STOPLV `.wrap` (R174). -/
def execStoplvWrap (f : Fields) (s : State) : Host.Outcome State Fault Refusal :=
  let k := chanIx f.sa
  let c := outIx f
  let lv := immBits f 0 3
  fireWalk 0x97 f [k] [c] (fun x _ =>
    let h := headOf x k
    let flag := fun (v : Bool) (y : Elem) => { y with su := { y.su with flag := v } }
    if h.kind = kData then
      if x.su.flag then .ok { WStep.of [(k, lv)] [(c, stopTok 0)] with upd := flag false }
      else .ok { WStep.of [] [(c, h)] with upd := flag true }
    else if h.kind = kStop then .ok (WStep.of [(k, lv)] [(c, stopTok (h.lvl.toNat + 1))])
    else .ok (WStep.of [(k, lv)] [(c, h)])) s

/-- ZIP (R175). -/
def execZip (f : Fields) (s : State) : Host.Outcome State Fault Refusal :=
  let ks := if f.var.getLsbD 0 then [0, 1, 2] else [0, 1]
  let lv := immBits f 0 3
  fireWalk 0x98 f ks ks (fun x _ =>
    .ok { WStep.of (ks.map fun k => (k, lv)) (ks.map fun k => (k, headOf x k)) with
      bad := (ks.find? fun k => !sameMark (headOf x k) (headOf x 0)).map (streamFault x 0x04) }) s

/-- GCHK (R176). -/
def execGchk (f : Fields) (s : State) : Host.Outcome State Fault Refusal :=
  let k := chanIx f.sa
  let c := outIx f
  fireWalk 0x99 f [k] [c] (fun x _ => .ok (WStep.of [(k, immBits f 0 3)] [(c, headOf x k)])) s

/-- `gchk.arm` (R161, R176). -/
def execGchkArm (f : Fields) (s : State) : Host.Outcome State Fault Refusal :=
  let k := immBits f 3 2
  fire 0x99 f ⟨chansIn f.deq, [], []⟩ (fun x =>
    match laneFault s x f with
    | some r => .fault r
    | none => .done (closeFiring { x with trk := SMap.set x.trk k Tracker.start } f (noResult (walkerLanes x f))) id) s

/-- The order of FP32 values for selection (R177): less, equal or greater by value, a NaN below every number and equal to any
other NaN. -/
def cmpScore (a b : Word) : Ordering :=
  match isNaNBits a, isNaNBits b with
  | true, true => .eq
  | true, false => .lt
  | false, true => .gt
  | false, false => cmpVal (decodeFp32 a) (decodeFp32 b)

/-- Whether one score is strictly better than another (R177): greater, or lesser with `.min`, and any number before a NaN. -/
def betterScore (fp min : Bool) (a b : Word) : Bool :=
  if fp then
    if isNaNBits a then false
    else if isNaNBits b then true
    else cmpScore a b == (if min then .lt else .gt)
  else if min then decide (a.toInt < b.toInt) else decide (b.toInt < a.toInt)

/-- Whether two scores tie (R177). -/
def tieScore (fp : Bool) (a b : Word) : Bool := if fp then cmpScore a b == .eq else a == b

/-- Whether an entry of a list stands before a candidate (R177): it is better, or it ties and its index is no greater. -/
def scoreAhead (fp min : Bool) (c e : Word × Word) : Bool :=
  betterScore fp min e.1 c.1 || (tieScore fp e.1 c.1 && decide (e.2.toNat ≤ c.2.toNat))

/-- A candidate put after every entry that stands before it (R177), wherever those are in the list. -/
def insertScore (fp min : Bool) (c : Word × Word) : List (Word × Word) → List (Word × Word)
  | [] => [c]
  | e :: r => if (e :: r).any (scoreAhead fp min c) then e :: insertScore fp min c r else c :: e :: r

/-- SELK (R177). -/
def execSelk (f : Fields) (s : State) : Host.Outcome State Fault Refusal :=
  fireOwn 0x9A f (Look.lane f) (fun x m =>
    let k := immBits f 0 7
    let best : Nat → List (Word × Word) := fun l =>
      let old := x.sel.get l
      if m.getLsbD l then
        (insertScore (f.efmt == 1) (f.var.getLsbD 0) (srcLane x f f.sa l, srcLane x f f.sb l) old).take k
      else old
    let y := { x with sel := Oct.ofFn best }
    .done (closeFiring y f (noResult m)) id) s

/-- SELO (R178). A set-from-nonzero update tests the score. (DEDUCED, log entry 142) -/
def execSelo (f : Fields) (s : State) : Host.Outcome State Fault Refusal :=
  let a := outIx f
  let b := immBits f 0 2
  fireOwn 0x9B f { Look.lane f with outs := [a, b] } (fun x m =>
    let took := maskOf fun l => m.getLsbD l && !(x.sel.get l).isEmpty
    let top := fun l => ((x.sel.get l).head?).getD (0, 0)
    let sc : Token := { dataTok f.efmt took (Oct.ofFn fun l => if took.getLsbD l then (top l).1 else 0) with
      seq := seqFor x f a }
    let ix : Token := { dataTok 0 took (Oct.ofFn fun l => if took.getLsbD l then (top l).2 else 0) with
      seq := seqFor x f b }
    if x.mayPush a kData && x.mayPush b kData then
      let rest : Nat → List (Word × Word) := fun l => if took.getLsbD l then (x.sel.get l).drop 1 else x.sel.get l
      let y := { x with sel := Oct.ofFn rest }
      .done (closeFiring ((y.push a sc).push b ix) f ⟨sc.lanes, m, took, nonzero sc.lanes, 0⟩) id
    else .wait) s

/-- `selo.clr` (R178). It has no result for a set-from-nonzero update to test. (DESIGN CHOICE, log entry 25) -/
def execSeloClr (f : Fields) (s : State) : Host.Outcome State Fault Refusal :=
  fireOwn 0x9B f (Look.lane f) (fun x m =>
    let rest : Nat → List (Word × Word) := fun l => if m.getLsbD l then [] else x.sel.get l
    let y := { x with sel := Oct.ofFn rest }
    .done (closeFiring y f (s.openRes m)) (usedRes f)) s

/-- The rank of an FP32 word in the total order of R179, NaNs last. -/
def sortKey (efmt : Nat) (w : Word) : Int :=
  match efmt with
  | 1 => if isNaNBits w then 2 ^ 32 else if w.getLsbD 31 then -((w.toNat % 2 ^ 31 : Nat) : Int) - 1 else w.toNat
  | 7 => w.toNat
  | _ => w.toInt

/-- Inserts a lane into a list sorted by key, after its equals (R179). -/
def insertLane (key : Nat → Int) (desc : Bool) (l : Nat) : List Nat → List Nat
  | [] => [l]
  | j :: r =>
    let after := if desc then decide (key l ≤ key j) else decide (key j ≤ key l)
    if after then j :: insertLane key desc l r else l :: j :: r

/-- SORT8 (R179). -/
def execSort8 (f : Fields) (s : State) : Host.Outcome State Fault Refusal :=
  fireLane 0x9C f f.efmt (fun x m =>
    let a := srcAll x f f.sa
    let ls := lanesOf m
    let ord := ls.foldl (fun acc l => insertLane (fun j => sortKey f.efmt.toNat (a.get j)) (f.var.getLsbD 0) l acc) []
    Res.plain m (Oct.ofFn fun l =>
      match ls.idxOf? l with
      | some j =>
        let from_ := ord.getD j 0
        if f.var.getLsbD 1 then BitVec.ofNat 32 from_ else a.get from_
      | none => 0) 0) s

/-- Row `r` of the block buffer (R165). -/
def blockRow (x : Elem) (r : Nat) : Oct Word := SMap.get (fun _ => Oct.all 0) x.su.block r

/-- The element with a block-buffer row stored and a new phase. -/
def storeRow (r : Nat) (v : Oct Word) (ph : Nat) (y : Elem) : Elem :=
  { y with su := { y.su with block := SMap.set y.su.block r v, phase := BitVec.ofNat 5 ph } }

/-- The element with a new phase. -/
def setPhase (ph : Nat) (y : Elem) : Elem := { y with su := { y.su with phase := BitVec.ofNat 5 ph } }

/-- The byte `n` of eight lanes (R4). -/
def octByte (v : Oct Word) (n : Nat) : Byte := (v.get (n / 4)).extractLsb' (8 * (n % 4)) 8

/-- Whether the header of an F4 line is well formed (R40, R180). -/
def lineOk (lfmt gmask : Byte) : Bool :=
  (lfmt == 0 && gmask == 0x7F) || (lfmt == 1 && !gmask.getLsbD 7)

/-- The two tokens of pair `q` of a line whose tokens are `row` (R180). -/
def linePair (row : Nat → Oct Word) (q : Nat) : Token × Token :=
  let g := octByte (row 0) 8
  let on := fun i => g.getLsbD i
  let data : Oct Word := Oct.ofFn fun l =>
    if l < 4 then (if on (2 * q) then (row q).get (4 + l) else 0)
    else if q < 3 ∧ on (2 * q + 1) = true then (row (q + 1)).get (l - 4) else 0
  let sc := fun i => if on i then (octByte (row 0) i).zeroExtend 32 else 0
  let scale : Oct Word := Oct.ofFn fun l => if l < 4 then sc (2 * q) else if q < 3 then sc (2 * q + 1) else 0
  let vm : Byte := if q = 3 then 0x0F else 0xFF
  (dataTok 4 vm data, dataTok 3 vm scale)

/-- DECOMP (R180). (DEDUCED, log entries 31, 143) -/
def execDecomp (f : Fields) (s : State) : Host.Outcome State Fault Refusal :=
  let k := chanIx f.sa
  let d := outIx f
  let sc := immBits f 0 2
  let lv := immBits f 2 3
  let ph := (s.elem s.cur.reg s.cur.elem).su.phase.toNat
  fireWalk 0xA1 f (if ph = 4 then [] else [k]) [d, sc] (fun x _ =>
    let h := headOf x k
    if ph = 4 then
      let p := linePair (blockRow x) 3
      .ok { WStep.of [] [(d, p.1), (sc, p.2)] with upd := setPhase 0 }
    else if h.kind = kData then
      if ph = 0 then
        if lineOk (octByte h.lanes 7) (octByte h.lanes 8) then
          .ok { WStep.of [(k, lv)] [] with upd := storeRow 0 h.lanes 1 }
        else .error (streamFault x 0x07 k)
      else
        let p := linePair (fun r => if r = ph then h.lanes else blockRow x r) (ph - 1)
        .ok { WStep.of [(k, lv)] [(d, p.1), (sc, p.2)] with upd := storeRow ph h.lanes (ph + 1) }
    else if ph = 0 then .ok (WStep.of [(k, lv)] [(d, h), (sc, h)])
    else .error (streamFault x 0x04 k)) s

/-- The codes of group `g` of the pairs stored in the block buffer: lane words 0 to 3 (R181). -/
def groupWord (row : Nat → Oct Word) (g i : Nat) : Word := (row (g / 2)).get (4 * (g % 2) + i)

/-- The number of elements of a group whose code bits [2:0] are nonzero (R181). -/
def groupNzc (row : Nat → Oct Word) (g : Nat) : Nat :=
  (List.range 32).countP fun i => elemAt 4 (groupWord row g (i / 8)) (i % 8) % 8 != 0

/-- Byte `n` of the line that COMP writes (R40, R181). -/
def compByte (sparse : Bool) (row : Nat → Oct Word) (scale : Nat → Byte) (n : Nat) : Byte :=
  let on := fun g => !sparse || groupNzc row g != 0
  if n < 7 then (if on n then scale n else 0)
  else if n = 7 then (if sparse then 1 else 0)
  else if n = 8 then maskOf fun g => decide (g < 7) && on g
  else if n < 16 then BitVec.ofNat 8 (groupNzc row (n - 9))
  else
    let g := (n - 16) / 16
    if on g then (groupWord row g ((n - 16) % 16 / 4)).extractLsb' (8 * (n % 4)) 8 else 0

/-- Line token `t` that COMP pushes (R181). -/
def compTok (sparse : Bool) (row : Nat → Oct Word) (aux : BitVec 64) (t : Nat) : Token :=
  let sc := fun g => aux.extractLsb' (8 * g) 8
  let by_ := compByte sparse row sc
  dataTok 0 0xFF (Oct.ofFn fun l => by_ (32 * t + 4 * l + 3) ++ by_ (32 * t + 4 * l + 2) ++ by_ (32 * t + 4 * l + 1)
    ++ by_ (32 * t + 4 * l))

/-- The auxiliary words of the stream unit as one value. -/
def auxOf (x : Elem) : BitVec 64 := x.su.aux1 ++ x.su.aux0

/-- The element with the auxiliary words replaced. -/
def setAux (v : BitVec 64) (y : Elem) : Elem :=
  { y with su := { y.su with aux0 := v.extractLsb' 0 32, aux1 := v.extractLsb' 32 32 } }

/-- A value with the `n` bits from bit `i` replaced. -/
def putBits (v : BitVec 64) (i n : Nat) (b : Nat) : BitVec 64 :=
  (v &&& ~~~(BitVec.ofNat 64 ((2 ^ n - 1) * 2 ^ i))) ||| BitVec.ofNat 64 (b % 2 ^ n * 2 ^ i)

/-- COMP (R181): of two equal marks it forwards that of Id, and lanes 4 to 7 of pair 3 are stored as they come. (DEDUCED, log entries 31, 143) -/
def execComp (f : Fields) (s : State) : Host.Outcome State Fault Refusal :=
  let d := chanIx f.sa
  let k := chanIx f.sb
  let c := outIx f
  let lv := immBits f 0 3
  let sp := f.var.getLsbD 0
  let ph := (s.elem s.cur.reg s.cur.elem).su.phase.toNat
  fireWalk 0xA2 f (if ph ≤ 3 then [d, k] else []) [c] (fun x _ =>
    let hd := headOf x d
    let hs := headOf x k
    let both := [(d, lv), (k, lv)]
    if ph ≥ 4 then
      .ok { WStep.of [] [(c, compTok sp (blockRow x) (auxOf x) (ph - 3))] with
        upd := setPhase (if ph ≥ 6 then 0 else ph + 1) }
    else if hd.kind = kData ∧ hs.kind = kData then
      let pair := ((hs.lanes.get 0).toNat % 256) + 256 * ((hs.lanes.get 4).toNat % 256)
      let aux := putBits (auxOf x) (16 * ph) 16 pair
      let row := fun r => if r = ph then hd.lanes else blockRow x r
      let upd := fun y => setAux aux (storeRow ph hd.lanes (ph + 1) y)
      .ok { WStep.of both (if ph = 3 then [(c, compTok sp row aux 0)] else []) with upd := upd }
    else if ph = 0 ∧ sameMark hd hs = true then .ok (WStep.of both [(c, hd)])
    else .error (streamFault x 0x04 k)) s

/-- Column `c` of the block (R182): lane r is word c of row r. -/
def columnTok (fmt : BitVec 3) (row : Nat → Oct Word) (aux : BitVec 64) (c : Nat) : Token :=
  dataTok fmt (maskOf fun r => aux.getLsbD (8 * r + c)) (Oct.ofFn fun r => (row r).get c)

/-- TRANSP (R182). (DEDUCED, log entries 31, 143) -/
def execTransp (f : Fields) (s : State) : Host.Outcome State Fault Refusal :=
  let k := chanIx f.sa
  let c := outIx f
  let lv := immBits f 0 3
  let ph := (s.elem s.cur.reg s.cur.elem).su.phase.toNat
  fireWalk 0xA3 f (if ph ≤ 7 then [k] else []) [c] (fun x _ =>
    let h := headOf x k
    if ph ≥ 8 then
      .ok { WStep.of [] [(c, columnTok f.efmt (blockRow x) (auxOf x) (ph - 7))] with
        upd := setPhase (if ph ≥ 14 then 0 else ph + 1) }
    else if h.kind = kData then
      let aux := putBits (auxOf x) (8 * ph) 8 h.vmask.toNat
      let row := fun r => if r = ph then h.lanes else blockRow x r
      .ok { WStep.of [(k, lv)] (if ph = 7 then [(c, columnTok f.efmt row aux 0)] else []) with
        upd := fun y => setAux aux (storeRow ph h.lanes (ph + 1) y) }
    else if ph = 0 then .ok (WStep.of [(k, lv)] [(c, h)])
    else .error (streamFault x 0x04 k)) s

end Sys2Proof.Machine
end

