-- ==== Sys2Proof/Machine/Legal.lean ====
section
/-!
DEFINITION. Which slots a page may hold: the rows of R18 and what each entry of the instruction tables lists for its
specifiers, immediate, output kind, predicate update and modifier (R54 to R59, R69, R424).
-/
namespace Sys2Proof.Machine

/-- What an entry lets a destination be. -/
inductive DstForm where
  | no
  | any
  | out
  | outOrNo
  | reg
  | const
deriving DecidableEq, Repr

/-- What an entry lets a source be. -/
inductive SrcForm where
  | no
  | any
  | chan
  | reg
deriving DecidableEq, Repr

/-- How an entry treats OKIND and OLVL (R424). -/
inductive KindForm where
  | fixed
  | result
  | emit
  | demand
deriving DecidableEq, Repr

/-- Where an opcode is legal (R28, R202, R218). -/
inductive Place where
  | every
  | compute
  | lead
  | sPort
  | gPort
  | sgPort
  | rowPort
  | wsPort
deriving DecidableEq, Repr

/-- What an entry lists. `dst`, `sa`, `sb` and `sc` bound the specifiers; `imm` is none where IMM16 is only read through specifier
28, and otherwise tests the field; `zero` says that it holds 0 even then; `deq` tests the dequeue mask; `pmodes` are the update modes that PUE may hold; `must` says
that PUE must be set; the rest are the values of the modifier. -/
structure Entry where
  place : Place := .every
  dst : DstForm := .any
  sa : SrcForm := .no
  sb : SrcForm := .no
  sc : SrcForm := .no
  imm : Option (Half → Bool) := none
  zero : Bool := false
  deq : BitVec 4 → Bool := fun _ => true
  kind : KindForm := .result
  pmodes : List Nat := [0, 2, 3]
  must : Bool := false
  efmts : List Nat := [0]
  rnds : Bool := false
  sat : Bool := false
  uns : Bool := false
  w64 : Bool := false
  ccs : List Nat := [0]
  vars : List Nat := [0]

/-- The values of IMM16 below `n` and no other bit. -/
def immBelow (n : Nat) (v : Half) : Bool := decide (v.toNat < n)

/-- EFMT of the integer instructions (R82). -/
def efInt : List Nat := [0, 5, 6, 7]
/-- Every EFMT. -/
def efAll : List Nat := [0, 1, 2, 3, 4, 5, 6, 7]
/-- EFMT of the floating instructions (R97). -/
def efFlt : List Nat := [1, 2, 3]

/-- The entries of the token and channel instructions (R74). -/
def tokenEntry (opc : Nat) (f : Fields) : Option Entry :=
  let zero := some (immBelow 1)
  match opc with
  | 0x00 => some { dst := .no, imm := zero, kind := .fixed, pmodes := [2, 3] }
  | 0x01 => some { dst := .out, sa := .chan, imm := zero, vars := [0, 1, 2, 3], kind := if f.var.getLsbD 1 then .result else .fixed }
  | 0x02 => some { dst := .out, sa := .any, efmts := efAll, kind := .emit }
  | 0x03 => some { dst := .out, sa := .chan, imm := zero, efmts := efAll, kind := .fixed }
  | 0x04 => some { dst := .no, sa := .any, vars := [0, 1, 2, 3], kind := .fixed }
  | 0x05 => some { imm := zero, vars := [0, 1, 2, 3] }
  | 0x06 => some { dst := .out, sa := .any, kind := .demand }
  | 0x07 => some { sa := .chan, imm := zero, deq := fun d => d.getLsbD (f.sa.toNat % 4) }
  | 0x08 => some {
      dst := .out, sa := .chan, imm := some fun v => immBelow 4 v && v.toNat != f.dst.toNat % 4,
      deq := fun d => d.getLsbD (f.sa.toNat % 4), kind := .fixed, vars := efAll }
  | _ => none

/-- pos + len of BFX and BFI does not pass the lane (R82). -/
def bitField (v : Half) : Bool := immBelow 1024 v && decide (v.toNat % 32 + v.toNat / 32 + 1 ≤ 32)

/-- The entries of the integer and address instructions (R82). UNS goes with SAT only, but for BFX and MOVI. -/
def intEntry (opc : Nat) (f : Fields) : Option Entry :=
  let field := some fun (_ : Half) => true
  let u := f.sat == 1
  match opc with
  | 0x10 => some { sa := .any, sb := .any, efmts := efInt, sat := true, uns := u, w64 := true }
  | 0x11 => some { sa := .any, sb := .any, efmts := efInt, sat := true, uns := u, w64 := true }
  | 0x12 => some { sa := .any, sb := .any, efmts := efInt, sat := true, uns := u, w64 := true }
  | 0x13 => some { sa := .any, sb := .any, efmts := efInt, w64 := true }
  | 0x14 => some { sa := .any, sb := .any, efmts := efInt, w64 := true }
  | 0x15 => some { sa := .any, sb := .any, sc := .any, efmts := efInt, sat := true, uns := u }
  | 0x16 => some { sa := .any, efmts := [0, 5, 6], sat := true }
  | 0x17 => some { sa := .any, efmts := [0, 5, 6], sat := true }
  | 0x24 => some { sa := .any, efmts := efInt }
  | 0x25 => some { sa := .any, efmts := efInt }
  | 0x26 => some { sa := .any, efmts := efInt }
  | 0x27 => some { sa := .any, uns := true, imm := some bitField }
  | 0x28 => some { sa := .any, sb := .any, imm := some bitField }
  | 0x29 => some { sa := .any, sb := .any, sc := .any, efmts := efInt, w64 := true }
  | 0x2A => some {
      sa := .any, sb := .any, efmts := efInt, w64 := true, ccs := List.range 10, vars := [0, 1], pmodes := [0, 1, 2, 3] }
  | 0x2B => some { sa := .any, sb := .any, efmts := efInt, w64 := true, ccs := [0, 1], vars := [0, 1], pmodes := [0, 1, 2, 3] }
  | 0x2C => some { sa := .any, efmts := efAll, w64 := true }
  | 0x2D => some { efmts := [0, 7], uns := true, imm := field }
  | 0x2E => some { sa := .any, efmts := [0, 7], imm := field }
  | 0x2F => some { sa := .any, sb := .any, w64 := true, vars := efAll, imm := field }
  | 0x30 => some {
      sa := .any, sb := .any, efmts := [0, 7], vars := [0, 1], imm := field,
      pmodes := if f.var = 1 then [0, 1, 2, 3] else [0, 2, 3] }
  | _ => if 0x18 ≤ opc ∧ opc ≤ 0x23 then some { sa := .any, sb := .any, efmts := efInt, w64 := true } else none

/-- The entries of the predicate and lane instructions (R89). The 0 that the table lists for `preg.set` is a field, so that specifier 28 is
refused there (R55). (DEDUCED, log entry 144) -/
def predEntry (opc : Nat) (f : Fields) : Option Entry :=
  let three := some (immBelow 8)
  match opc with
  | 0x40 => some { dst := .no, imm := some (immBelow 256), pmodes := [1], must := true, kind := .fixed }
  | 0x41 => some { dst := .no, imm := some (immBelow 256), pmodes := [1], must := true, kind := .fixed }
  | 0x42 => some { dst := .no, imm := some (immBelow 256), pmodes := [1], must := true, kind := .fixed }
  | 0x43 => some { dst := .no, imm := some fun v => v &&& 0xFFB8 == 0, pmodes := [1], must := true, kind := .fixed }
  | 0x44 => some { dst := .no, imm := some fun v => v &&& 0xFFB8 == 0, pmodes := [1], must := true, kind := .fixed }
  | 0x45 =>
    if f.var = 1 then some { dst := .no, sa := .any, vars := [1], pmodes := [], kind := .fixed, imm := some (immBelow 1) }
    else some { imm := some (immBelow 1), pmodes := [0, 1, 2, 3] }
  | 0x46 => some { sa := .any, efmts := efAll, imm := three }
  | 0x47 => some { sa := .any, sb := .any, efmts := efAll }
  | 0x48 =>
    let two := decide (4 ≤ f.var.toNat)
    some { sa := .any, sb := if two then .any else .no, efmts := efAll, vars := efAll,
           imm := some (immBelow (if two then 1 else 8)) }
  | 0x49 => some { sa := .any, efmts := [0, 7], vars := efAll, sat := f.var == 0 }
  | 0x4A => some { sa := .any, efmts := [0, 7], vars := efAll, sat := f.var == 0, imm := some (immBelow 2) }
  | 0x4B => some { vars := [0, 1], imm := three }
  | 0x4C => some { imm := three, pmodes := [0, 1, 2, 3] }
  | _ => none

/-- The entries of the floating-point instructions (R97, R99, R102, R104 to R107). -/
def floatEntry (opc : Nat) : Option Entry :=
  let two : Entry := { place := .compute, sa := .any, sb := .any, efmts := efFlt, rnds := true, sat := true }
  let one : Entry := { place := .compute, sa := .any, efmts := [1], rnds := true }
  match opc with
  | 0x50 => some two
  | 0x51 => some two
  | 0x52 => some two
  | 0x53 => some { two with sc := .any }
  | 0x54 => some { two with sc := .any }
  | 0x55 => some { two with sc := .any, dst := .reg }
  | 0x56 => some { two with rnds := false, sat := false }
  | 0x57 => some { two with rnds := false, sat := false }
  | 0x58 => some { one with rnds := false, efmts := efFlt }
  | 0x59 => some { one with rnds := false, efmts := efFlt }
  | 0x5A => some { two with rnds := false, sat := false, ccs := [0, 1, 2, 3, 4, 5, 10, 11], vars := [0, 1], pmodes := [0, 1, 2, 3] }
  | 0x5B => some { one with rnds := false, efmts := efFlt, vars := [0, 1], imm := some (immBelow 2048), pmodes := [0, 1, 2, 3] }
  | 0x5C => some { one with efmts := [1, 2] }
  | 0x5D => some { one with efmts := [1, 2], sat := true, uns := true }
  | 0x5E => some { one with efmts := [0, 6], uns := true }
  | 0x5F => some { one with sat := true }
  | 0x60 => some one
  | 0x61 => some one
  | 0x62 => some one
  | 0x63 => some { one with sb := .any, sat := true }
  | 0x64 => some { one with rnds := false }
  | 0x65 => some { one with rnds := false }
  | 0x66 => some { two with dst := .reg, efmts := [2] }
  | 0x67 => some { two with dst := .reg, efmts := [3] }
  | 0x68 => some { two with sc := .any, dst := .reg, efmts := [2] }
  | _ => none

/-- The entry of a conversion from EFMT to VAR with parts below `p` (R109 to R112); no parts where the pair is not listed. -/
def convPair (opc : Nat) (src dst : Nat) : Option (Nat × Bool × Bool) :=
  -- parts, whether both formats are integers, whether the destination keeps old elements
  match opc, src, dst with
  | 0x80, 0, 1 => some (1, false, false)
  | 0x80, 7, 1 => some (1, false, false)
  | 0x80, 1, 0 => some (1, false, false)
  | 0x80, 1, 7 => some (1, false, false)
  | 0x80, 6, 2 => some (1, false, false)
  | 0x80, 2, 6 => some (1, false, false)
  | 0x80, 5, 3 => some (1, false, false)
  | 0x80, 3, 5 => some (1, false, false)
  | 0x81, 1, 2 => some (1, false, false)
  | 0x81, 1, 3 => some (2, false, true)
  | 0x81, 2, 3 => some (1, false, false)
  | 0x81, 0, 6 => some (1, true, false)
  | 0x81, 0, 5 => some (2, true, true)
  | 0x81, 6, 5 => some (1, true, false)
  | 0x82, 2, 1 => some (2, false, false)
  | 0x82, 3, 1 => some (4, false, false)
  | 0x82, 3, 2 => some (2, false, false)
  | 0x82, 4, 1 => some (8, false, false)
  | 0x82, 4, 2 => some (4, false, false)
  | 0x82, 6, 0 => some (2, true, false)
  | 0x82, 5, 0 => some (4, true, false)
  | 0x82, 5, 6 => some (2, true, false)
  | _, _, _ => none

/-- The entries of the conversion instructions (R99, R109 to R115). A pair that no entry lists has no values of EFMT;
its other fields are judged as the instruction's. -/
def convEntry (opc : Nat) (f : Fields) : Option Entry :=
  let src := f.efmt.toNat
  let tgt := f.var.toNat
  let refused : Entry := { place := .compute, sa := .any, sb := .any, efmts := [] }
  match opc with
  | 0x80 => some (match convPair opc src tgt with
    | some _ => { place := .compute, sa := .any, efmts := [src], vars := [tgt], rnds := true, sat := true,
                  uns := src != 7 && tgt != 7 }
    | none => { refused with sb := .no })
  | 0x81 => some (match convPair opc src tgt with
    | some (n, int, keep) => { place := .compute, sa := .any, sb := .any, dst := if keep then .reg else .any, efmts := [src],
                               vars := [tgt], rnds := !int, sat := true, uns := int, imm := some (immBelow n) }
    | none => { refused with imm := some (immBelow 2) })
  | 0x82 => some (match convPair opc src tgt with
    | some (n, int, _) => { place := .compute, sa := .any, sb := if src = 4 then .any else .no, efmts := [src], vars := [tgt],
                            uns := int, imm := some (immBelow n) }
    | none => { refused with sb := if src = 4 then .any else .no, imm := some (immBelow 8) })
  | 0x83 => some { place := .compute, sa := .any, efmts := [1] }
  | 0x84 => some { place := .compute, sa := .any, sb := .any, dst := .reg, efmts := [1], rnds := true, imm := some (immBelow 8) }
  | 0x85 =>
    let four := tgt == 4
    some { place := .compute, sa := .any, sb := .any, dst := if four then .reg else .any, efmts := [if tgt = 3 then 2 else 1],
           rnds := true, vars := [2, 3, 4],
           imm := some fun v =>
             immBelow 64 v && (four || decide (v.toNat < 8))
               && (if v.getLsbD 2 then v.toNat % 4 + 20 != f.dst.toNat else v.toNat % 4 == 0) }
  | _ => none

/-- The entries of the stream instructions (R163, R168, R177 to R179) and of the routing instructions (R398, R399). -/
def streamEntry (opc : Nat) (f : Fields) : Option Entry :=
  let w : Entry := { place := .compute, dst := .no, kind := .fixed, pmodes := [2, 3], deq := fun d => d == 0 }
  let level := some (immBelow 8)
  let imm := f.imm.toNat
  match opc with
  | 0x90 => some { w with dst := .out, sa := .chan, efmts := [0, 7], vars := [0, 1, 2, 3],
                          imm := some (immBelow (if f.var.getLsbD 1 then 7 else 8)) }
  | 0x91 => some { w with imm := level, vars := [1, 2, 3, 4, 5, 6, 7], pmodes := [1, 2, 3] }
  | 0x92 => some { w with imm := level, vars := [1, 2, 3, 4, 5, 6, 7], pmodes := [1, 2, 3], efmts := efAll }
  | 0x93 => some { w with imm := level, vars := [1, 2, 3, 4, 5, 6, 7], pmodes := [1, 2, 3], efmts := efAll }
  | 0x94 => some { w with dst := .out, sa := .chan, sb := .chan,
                          imm := some fun v => immBelow 8 v && v != 0 && f.sa != f.sb }
  | 0x95 => some { w with
      dst := .out, sa := .chan, sb := .reg, imm := some fun v => immBelow 64 v && decide (v.toNat % 8 < v.toNat / 8),
      vars := [0, 1, 2, 3], efmts := if f.var = 0 then [0] else [1, 2], rnds := f.var == 1, sat := f.var == 0 || f.var == 1 }
  | 0x96 => some { w with
      dst := .out, sa := .chan, sb := .chan,
      imm := some fun v => immBelow 32 v && decide (v.toNat % 8 ≤ 6) && v.toNat / 8 + 20 != f.dst.toNat && f.sa != f.sb }
  | 0x97 => some { w with
      dst := .out, sa := .chan, vars := [0, 1],
      imm := some fun v =>
        if f.var = 0 then immBelow 64 v && decide (1 ≤ v.toNat / 8) && decide (v.toNat / 8 ≤ v.toNat % 8) else immBelow 7 v }
  | 0x98 => some { w with imm := level, vars := [0, 1] }
  | 0x99 =>
    if f.var = 1 then
      some { w with vars := [1], imm := some fun v => immBelow 32 v && v.toNat % 8 == 0, deq := fun d => !d.getLsbD (imm / 8) }
    else some { w with dst := .out, sa := .chan, imm := level }
  | 0x9A => some { w with sa := .any, sb := .any, imm := some fun v => decide (1 ≤ v.toNat ∧ v.toNat ≤ 64), efmts := [0, 1],
                          vars := [0, 1], deq := fun _ => true }
  | 0x9B =>
    if f.var = 1 then
      some { w with vars := [1], efmts := [0, 1], imm := some (immBelow 1), pmodes := [0, 2, 3], deq := fun _ => true }
    else
      some { w with dst := .out, efmts := [0, 1], imm := some fun v => immBelow 4 v && v.toNat + 20 != f.dst.toNat,
                    pmodes := [0, 1, 2, 3], deq := fun _ => true }
  | 0x9C => some { place := .compute, sa := .any, efmts := [0, 1, 7], vars := [0, 1, 2, 3] }
  | 0x9D => some { w with
      dst := .out, imm := some fun v => immBelow 128 v && v.toNat % 16 != 0, vars := [0, 1],
      efmts := if f.var = 1 then [1, 2] else efAll, rnds := f.var == 1, sat := f.var == 1 }
  | 0x9E => some { w with imm := some (immBelow 256), vars := [0, 1] }
  | 0x9F => some { w with imm := some fun v => immBelow 128 v && v.toNat % 16 != 0 }
  | 0xA0 => some {
      place := .compute, sa := .any, efmts := [0, 1], vars := [0, 1], pmodes := [0, 1, 2, 3],
      imm := some fun v => immBelow 64 v && decide (1 ≤ v.toNat / 4 ∧ v.toNat / 4 ≤ 8 / 2 ^ (v.toNat % 4)) }
  | 0xA1 => some { w with dst := .out, sa := .chan, imm := some fun v => immBelow 32 v && v.toNat % 4 + 20 != f.dst.toNat }
  | 0xA2 => some { w with dst := .out, sa := .chan, sb := .chan, vars := [0, 1], imm := some fun v => immBelow 8 v && f.sa != f.sb }
  | 0xA3 => some { w with dst := .out, sa := .chan, efmts := efAll, imm := level }
  | _ => none

/-- The entries of the matrix instructions (R201, R202). -/
def matrixEntry (opc : Nat) (f : Fields) : Option Entry :=
  let m : Entry := { place := .lead, dst := .no, kind := .fixed, pmodes := [2, 3], deq := fun d => d == 0 }
  let tiles := some fun (v : Half) => immBelow 256 v && decide (v.toNat % 16 + v.toNat / 16 + 1 ≤ 16)
  match opc with
  | 0xB0 => some { m with imm := some (immBelow 1), vars := [0, 1] }
  | 0xB1 => some { m with efmts := [1, 2, 3, 4],
                          imm := some fun v => immBelow 512 v && decide (32 * (v.toNat % 4) + v.toNat / 4 + 1 ≤ 128) }
  | 0xB2 => some { m with imm := some (immBelow 4) }
  | 0xB3 => some { m with imm := tiles }
  | 0xB4 => some { m with imm := tiles, vars := [0, 1, 2, 3] }
  | 0xB5 => some { m with
      place := .compute, dst := .const, deq := fun _ => true, vars := [0, 1, 2], sa := if f.var = 0 then .any else .no,
      imm := some fun v => f.var != 0 || v == 0 }
  | _ =>
    if 0xB8 ≤ opc ∧ opc ≤ 0xBF then
      some { m with efmts := [1, 2, 3, 4], vars := [0, 1], imm := some fun v => decide (1 ≤ v.toNat ∧ v.toNat ≤ 256) }
    else none

/-- The entries of the port operations (R218, R226). The forms marked S only need a scratchpad port. -/
def portEntry (opc : Nat) (f : Fields) (s : Bool) : Option Entry :=
  let p : Entry := { place := .sgPort, dst := .no, kind := .fixed, pmodes := [2, 3], sa := .any }
  let disp := some fun (_ : Half) => true
  match opc with
  | 0xC0 => some { p with dst := .out, imm := disp, efmts := efAll, vars := [0, 1], w64 := true }
  | 0xC1 => some { p with sb := .any, imm := disp, vars := [0, 1], w64 := true }
  | 0xC2 => some { p with place := .sPort, dst := .out, imm := disp, efmts := efAll, vars := [0, 1, 2, 3], w64 := true }
  | 0xC3 => some { p with place := .sPort, sb := .any, imm := disp, vars := [0, 1], w64 := true }
  | 0xC4 => some { p with place := .sPort, imm := disp, vars := [0, 1], w64 := true }
  | 0xC5 => some { p with dst := .out, sb := .any, efmts := efAll }
  | 0xC6 => some { p with dst := .out, sa := .chan, sb := .any, vars := if s then [0, 1] else [0] }
  | 0xC7 => some { p with dst := .out, sa := .chan, imm := disp, efmts := efAll, w64 := true }
  | 0xC8 => some { p with dst := .out, sa := .chan, sb := .chan, imm := some fun _ => f.sa != f.sb, w64 := true,
                          vars := if s then [0, 1] else [0] }
  | 0xC9 => some { p with dst := .out, sb := .any, sc := if f.var.getLsbD 0 then .any else .no, ccs := List.range 10, w64 := true,
                          vars := if s then [0, 1, 2, 3] else [0, 1] }
  | 0xCA =>
    let fp := f.efmt == 1
    some { p with
      dst := .outOrNo, sb := .any, sc := if f.var = 7 then .any else .no, vars := efAll, uns := f.var == 1 || f.var == 2,
      efmts := if f.var.toNat < 3 ∧ f.w64 = 0 then [0, 1] else [0], rnds := fp && f.var == 0, w64 := true }
  | 0xCB => some { p with place := .gPort, dst := .out, sb := .chan, efmts := [1, 2], rnds := true, sat := true,
                          imm := some (immBelow 4) }
  | 0xCC => some { p with place := .gPort, dst := .out, sb := .chan, efmts := [1, 2], imm := some (immBelow 4) }
  | 0xCD => some { p with place := .gPort, dst := .out, efmts := efAll, vars := [0, 1], imm := some (immBelow 4) }
  | 0xCE => some { p with dst := .out, sa := .no, imm := some (immBelow 1), vars := [0, 1, 2, 3] }
  | 0xCF => some { p with place := .gPort, sb := .any }
  | 0xD0 => some { p with
      place := .wsPort, dst := .out, efmts := efAll,
      imm := some fun v => immBelow 8 v && (if v.getLsbD 2 then v.toNat % 4 + 20 != f.dst.toNat else v == 0) }
  | 0xD1 => some { p with place := .wsPort, dst := .any, sa := .no, imm := some (immBelow 1), pmodes := [0, 2, 3] }
  | _ => none

/-- The entries of the row instructions (R249). -/
def rowEntry (opc : Nat) (f : Fields) : Option Entry :=
  let r : Entry :=
    { place := .rowPort, dst := .no, sa := .any, kind := .fixed, pmodes := [2, 3], deq := fun d => d == 0 }
  match opc with
  | 0xE0 => some { r with vars := [0, 1] }
  | 0xE1 =>
    if f.var = 1 then some { r with dst := .out, efmts := efAll, vars := [1] }
    else if f.var = 2 then some { r with vars := [2], imm := some (immBelow 1024) }
    else some r
  | 0xE2 => some { r with sb := .chan }
  | 0xE3 => some r
  | 0xE4 => some { r with dst := .any, sa := .no, imm := some (immBelow (if f.var.getLsbD 1 then 2 else 1)),
                          vars := [0, 1, 2, 4, 5] }
  | _ => none

/-- The counters of CNTRD and whether `.clr` may name them (R352). -/
def cntClears (sel : Nat) : Option Bool :=
  if sel = 0 then some true
  else if sel ≤ 6 then some false
  else if 0x10 ≤ sel ∧ sel ≤ 0x18 then some true
  else none

/-- The entries of the system instructions (R325, R348, R356). -/
def systemEntry (opc : Nat) (f : Fields) : Option Entry :=
  let y : Entry := { dst := .no, kind := .fixed, pmodes := [2, 3] }
  match opc with
  | 0xE8 => some { y with dst := .outOrNo, imm := some (immBelow 1) }
  | 0xE9 => some { y with dst := .outOrNo, imm := some (immBelow 1) }
  | 0xEA => some { y with dst := .outOrNo, imm := some (immBelow 1) }
  | 0xEB => some { y with place := .gPort, dst := .outOrNo, sa := .any, imm := some (immBelow 64) }
  | 0xEC => some { y with sa := .any, imm := some (immBelow 0xFF), pmodes := [] }
  | 0xED => some { y with sa := .any }
  | 0xEE => some { y with place := .lead, imm := some fun _ => true }
  | 0xEF => some { y with place := .gPort, dst := .out, sa := .any }
  | 0xF0 => some { y with place := .gPort, sa := .any, sb := .any }
  | 0xF1 => some { y with place := .lead, dst := .outOrNo, sa := .any, zero := true }
  | 0xF2 => some { y with imm := some (immBelow 1) }
  | 0xF3 => some { y with
      dst := .any, imm := some fun v => (cntClears v.toNat).isSome,
      vars := if cntClears f.imm.toNat = some true then [0, 1] else [0] }
  | 0xF4 => some { y with place := .gPort, sa := .any, sb := .any, imm := some (immBelow 64) }
  | _ => none

/-- The entry of an opcode (R59); none where the code is reserved. (DEDUCED, log entries 16, 28, 29, 38) -/
def entryOf (opc : Byte) (f : Fields) (sPort : Bool) : Option Entry :=
  let k := opc.toNat
  if k < 0x10 then tokenEntry k f
  else if k < 0x40 then intEntry k f
  else if k < 0x50 then predEntry k f
  else if k < 0x80 then floatEntry k
  else if k < 0x90 then convEntry k f
  else if k < 0xB0 then streamEntry k f
  else if k < 0xC0 then matrixEntry k f
  else if k < 0xE0 then portEntry k f sPort
  else if k < 0xE8 then rowEntry k f
  else systemEntry k f

/-- Whether element `e` is a place where the opcode is legal (R27, R28, R218). -/
def Place.ok (p : Place) (e : Nat) : Bool :=
  match p with
  | .every => true
  | .compute => decide (e < 128)
  | .lead => decide (e = 0)
  | .sPort => decide (128 ≤ e ∧ e < 144)
  | .gPort => decide (e = 144 ∨ e = 145)
  | .sgPort => decide (128 ≤ e ∧ e < 146)
  | .rowPort => decide (e = 146)
  | .wsPort => decide (e = 147)

/-- The output channels that a slot can write (R18). -/
def canWrite (opc : Byte) (f : Fields) : List Nat :=
  let d := if 20 ≤ f.dst.toNat ∧ f.dst.toNat ≤ 23 then [f.dst.toNat - 20] else []
  let imm := f.imm
  let low := (imm.extractLsb' 0 2).toNat
  match opc.toNat with
  | 0x08 => d ++ [low]
  | 0x85 => d ++ (if imm.getLsbD 2 then [low] else [])
  | 0x91 => (if f.var.getLsbD 2 then [0] else []) ++ (if f.var.getLsbD 0 then [1] else []) ++ (if f.var.getLsbD 1 then [2] else [])
  | 0x92 => (if f.var.getLsbD 2 then [0] else []) ++ (if f.var.getLsbD 0 then [1] else []) ++ (if f.var.getLsbD 1 then [2] else [])
  | 0x93 => (if f.var.getLsbD 2 then [0] else []) ++ (if f.var.getLsbD 0 then [1] else []) ++ (if f.var.getLsbD 1 then [2] else [])
  | 0x96 => d ++ [(imm.extractLsb' 3 2).toNat]
  | 0x98 => [0, 1] ++ (if f.var = 1 then [2] else [])
  | 0x9B => d ++ (if f.var = 0 then [low] else [])
  | 0x9E => [0, 1] ++ (if f.var = 0 then [2, 3] else [])
  | 0x9F => [0, 1, 2, 3].filter fun c => imm.getLsbD c
  | 0xA1 => d ++ [low]
  | 0xD0 => d ++ (if imm.getLsbD 2 then [low] else [])
  | _ => d

/-- The trigger rows of R18. -/
def triggerLegal (opc : Byte) (f : Fields) : Bool :=
  f.pv &&& ~~~f.pm == 0 && f.rsv90 == 0 && f.rsv80 == 0
    && (f.bEn == 0 || f.aEn == 1)
    && !(f.aEn == 1 && f.bEn == 1 && f.aCh == f.bCh)
    && (f.schk == 0 || f.aEn == 1)
    && (canWrite opc f).all fun c => f.room.getLsbD c

/-- Whether a register code exists on an element (R27). -/
def codeExists (e : Nat) (k : Nat) : Bool :=
  decide (e < 128) || !(decide (4 ≤ k ∧ k ≤ 15) || decide (24 ≤ k ∧ k ≤ 27))

/-- Whether a destination specifier is legal (R18, R27, R55). -/
def DstForm.ok (d : DstForm) (e : Nat) (sp : BitVec 6) : Bool :=
  let k := sp.toNat
  let out := decide (20 ≤ k ∧ k ≤ 23)
  let reg := decide (k ≤ 15 ∨ (24 ≤ k ∧ k ≤ 27)) && codeExists e k
  match d with
  | .no => k == 30
  | .any => reg || out || k == 30
  | .out => out
  | .outOrNo => out || k == 30
  | .reg => reg
  | .const => decide (56 ≤ k)

/-- Whether a source specifier is legal (R18, R27, R55): code 31 needs condition A, and code 28 an entry without an immediate
field. -/
def SrcForm.ok (x : SrcForm) (e : Nat) (f : Fields) (field : Bool) (sp : BitVec 6) : Bool :=
  let k := sp.toNat
  match x with
  | .no => k == 30
  | .any => codeExists e k && !(decide (20 ≤ k ∧ k ≤ 23)) && (k != 31 || f.aEn == 1) && (k != 28 || !field)
  | .chan => decide (16 ≤ k ∧ k ≤ 19)
  | .reg => decide (k ≤ 15 ∨ (24 ≤ k ∧ k ≤ 27)) && codeExists e k

/-- Whether the output kind and level are legal (R18, R424, R75, R76, R79). -/
def KindForm.ok (k : KindForm) (f : Fields) : Bool :=
  let out := decide (20 ≤ f.dst.toNat ∧ f.dst.toNat ≤ 23)
  let lvl := f.olvl == 0 || f.okind == 1
  match k with
  | .fixed => f.okind == 0 && f.olvl == 0
  | .result => ([0, 1, 2, 4, 5].contains f.okind.toNat) && lvl && (out || (f.okind == 0 && f.olvl == 0))
  | .emit => ([1, 2, 4, 5].contains f.okind.toNat) && lvl
  | .demand => f.okind == 5 && f.olvl == 0

/-- Whether the predicate update is legal (R18, R23). -/
def Entry.pueOk (t : Entry) (f : Fields) : Bool :=
  if f.pue = 1 then t.pmodes.contains f.pmode.toNat else f.pidx == 0 && f.pmode == 0 && !t.must

/-- Whether IMM16 is legal (R55, R69): a field in its range, and otherwise zero unless specifier 28 reads it. -/
def Entry.immOk (t : Entry) (f : Fields) : Bool :=
  match t.imm with
  | some p => p f.imm
  | none => f.imm == 0 || (!t.zero && [f.sa, f.sb, f.sc].any fun sp => sp == 28)

/-- Whether the specifiers, the immediate, the output kind and the predicate update are legal (detail 0x08). -/
def Entry.specOk (t : Entry) (e : Nat) (f : Fields) : Bool :=
  let field := t.imm.isSome
  t.dst.ok e f.dst && t.sa.ok e f field f.sa && t.sb.ok e f field f.sb && t.sc.ok e f field f.sc
    && t.deq f.deq && t.kind.ok f && t.pueOk f && t.immOk f

/-- Whether the modifier is legal (R42, R56, R58, R72; detail 0x09). A 64-bit form of an integer instruction takes EFMT 0 only;
the 64-bit form of a port operation takes any format its entry lists. -/
def Entry.modOk (t : Entry) (opc : Byte) (f : Fields) : Bool :=
  (if t.rnds then [0, 1, 2, 3, 4, 7].contains f.rnd.toNat else f.rnd == 7)
    && (t.sat || f.sat == 0) && t.efmts.contains f.efmt.toNat && (t.uns || f.uns == 0)
    && (f.w64 == 0 || (t.w64 && (f.efmt == 0 || decide (0xC0 ≤ opc.toNat))))
    && t.ccs.contains f.cc.toNat && t.vars.contains f.var.toNat

/-- The first check of R64 that a slot of element `e` fails, by its detail code: opcode, place, trigger, specifiers,
modifier. -/
def slotBad (e : Nat) (opc : Byte) (f : Fields) : Option Byte :=
  match entryOf opc f (decide (128 ≤ e ∧ e < 144)) with
  | none => some 0x06
  | some t =>
    if !t.place.ok e then some 0x0A
    else if !triggerLegal opc f then some 0x07
    else if !t.specOk e f then some 0x08
    else if !t.modOk opc f then some 0x09
    else none

/-- Whether a configuration field exists on element `e` (R61, R223). -/
def fieldExists (e fld : Nat) : Bool :=
  decide (fld < 165) || decide (176 ≤ fld ∧ fld < 240)
    || (decide (165 ≤ fld ∧ fld ≤ 168) && decide (e < 128))
    || (fld == 169 && decide (128 ≤ e ∧ e < 148))
    || (decide (170 ≤ fld ∧ fld ≤ 175) && decide (128 ≤ e ∧ e < 146))

/-- The bits of a configuration field that are not reserved on element `e` (R5, R61, R62, R140, R223). -/
def fieldMask (e fld : Nat) : Half :=
  if !fieldExists e fld then 0
  else if fld < 128 then (if fld % 8 = 5 then 0xFBFC else 0xFFFF)
  else if fld < 144 then (if fld % 2 = 0 then 0xC3FF else 0x03FF)
  else if fld < 148 then 0xF000
  else if fld < 160 then 0
  else if fld = 161 then 0x00FF
  else if fld = 162 then 0x071F
  else if 165 ≤ fld ∧ fld ≤ 168 then 0xF87F
  else if fld = 169 then 0xE000
  else if fld = 173 then 0x0001
  else if fld = 174 ∨ fld = 175 then (if 144 ≤ e then 0 else 0x07FF)
  else 0xFFFF

/-- The other fields that the check of a configuration word reads (R140, R223): the first route word of a channel beside its second, a
page word beside its route word, and the two bounds. -/
def wordGroup (fld : Nat) : List Nat :=
  if 128 ≤ fld ∧ fld < 144 then
    match (fld - 128) % 4 with
    | 0 => [fld]
    | 2 => [fld - 2, fld - 1, fld, fld + 1]
    | _ => [fld - 1, fld]
  else if fld = 174 then [174, 175] else [fld]

/-- The channels that an instruction itself reads or dequeues, beside those that its specifiers and DEQ name (R170, R175, R398, R400 to
R402). -/
def entryChans (opc : Byte) (f : Fields) : List Nat :=
  let merge := [0, 2] ++ (if f.var.getLsbD 0 then [1] else []) ++ (if f.var.getLsbD 1 then [3] else [])
  match opc.toNat with
  | 0x91 => merge
  | 0x92 => merge
  | 0x93 => merge
  | 0x98 => [0, 1] ++ (if f.var.getLsbD 0 then [2] else [])
  | 0x9D => [0, 1, 2, 3].filter fun k => f.imm.getLsbD k
  | 0x9E => [0, 1]
  | 0x9F => [0, 1]
  | _ => []

/-- The channels that a slot reads or dequeues (R62). -/
def slotChans (opc : Byte) (f : Fields) : List Nat :=
  [0, 1, 2, 3].filter fun k => f.deq.getLsbD k || (entryChans opc f).contains k
    || [f.sa, f.sb, f.sc].any fun sp => sp.toNat == 16 + k

/-- Whether a slot has a condition that names a kind on a channel. -/
def condNames (f : Fields) (kind : BitVec 3) (ch : Nat) : Bool :=
  (f.aEn == 1 && f.aKind == kind && f.aCh.toNat == ch) || (f.bEn == 1 && f.bKind == kind && f.bCh.toNat == ch)

/-- Whether a slot holds an access without a result token of its own, which is completed by a CMPL (R224, R348). -/
def needsCmpl (opc : Byte) (f : Fields) : Bool :=
  let k := opc.toNat
  [0xC1, 0xC3, 0xC4, 0xCF, 0xE0, 0xE2, 0xE3, 0xF0, 0xF4].contains k || (k == 0xE1 && f.var != 1)
    || ([0xCA, 0xEB].contains k && f.dst.toNat == 30)

/-- Whether a slot holds an access (R223): every such slot names CPLCH in ROOM while CPLEN is set. The port operations but WSPH, the row
instructions but ROWSTAT, and the system instructions of a global port that access or start something. (DEDUCED, log entry 128) -/
def isAccess (opc : Byte) : Bool :=
  let k := opc.toNat
  (decide (0xC0 ≤ k) && decide (k ≤ 0xD0)) || (decide (0xE0 ≤ k) && decide (k ≤ 0xE3)) || [0xEB, 0xEF, 0xF0, 0xF4].contains k

/-- Whether an opcode uses the stream unit (R165, R398). -/
def usesUnit (opc : Byte) (f : Fields) : Bool :=
  [0x90, 0x96, 0xA1, 0xA2, 0xA3, 0x9D].contains opc.toNat || (opc == 0x97 && f.var == 1)

/-- Whether one configuration word of element `e` holds a refused value (R46, R62, R140, R223), judged by that word and those
that go with it; `w` reads the configuration. -/
def wordBad (e : Nat) (w : Nat → Half) (fld : Nat) : Bool :=
  let v := w fld
  if 128 ≤ fld ∧ fld < 144 then
    let c := (fld - 128) / 4
    let a := w (128 + 4 * c)
    let far (d : Half) (p : Half) : Half := if d.getLsbD 14 then p else 0
    match (fld - 128) % 4 with
    | 0 => v &&& 0x3C00 != 0 || (v.getLsbD 15 && decide (147 < (v &&& 0xFF).toNat))
    | 2 =>
      v &&& 0x3C00 != 0 || (v.getLsbD 15 && (decide (147 < (v &&& 0xFF).toNat) || !a.getLsbD 15
        || (v == a && far v (w (fld + 1)) == far a (w (fld - 1)))))
    | _ => v &&& 0xFC00 != 0 || (v &&& 0x3FF != 0 && !(w (fld - 1)).getLsbD 14)
  else if 144 ≤ fld ∧ fld < 148 then
    v &&& 0x0FFF != 0 || (v.getLsbD 15 && v.getLsbD 14) || (v &&& 0x3000 != 0 && !v.getLsbD 14)
  else if 148 ≤ fld ∧ fld < 160 then v != 0
  else if fld = 161 then v &&& 0xFF00 != 0
  else if fld = 162 then v &&& 0xF8E0 != 0 || decide (5 ≤ (v &&& 7).toNat)
  else if 165 ≤ fld ∧ fld ≤ 168 then
    decide (e < 128) && (v &&& 0x0780 != 0 || (v.getLsbD 15 && (v &&& 0x7F).toNat == e))
  else if fld = 169 then decide (128 ≤ e) && v &&& 0x1FFF != 0
  else if fld = 173 then decide (128 ≤ e) && v &&& 0xFFFE != 0
  else if fld = 174 then
    if e = 144 ∨ e = 145 then v != 0
    else decide (128 ≤ e) && (v &&& 0xF800 != 0 || decide ((w 175 &&& 0x7FF).toNat < (v &&& 0x7FF).toNat))
  else if fld = 175 then (if e = 144 ∨ e = 145 then v != 0 else decide (128 ≤ e) && v &&& 0xF800 != 0)
  else false

end Sys2Proof.Machine
end

