-- ==== Sys2Proof/Machine/Remote.lean ====
section
/-!
DEFINITION. Requests to other devices: units and flits (R384, R385), the CRC-32 over them, the choice of a link (R387), and the
sending of flits under credits (R386).
-/
namespace Sys2Proof.Machine

/-- One byte of the reflected CRC-32 (R384). -/
def crcByte (c : Word) (b : Byte) : Word :=
  (List.range 8).foldl (fun c _ => if c.getLsbD 0 then (c >>> 1) ^^^ 0xEDB88320 else c >>> 1) (c ^^^ b.zeroExtend 32)

/-- The CRC-32 of IEEE 802.3 over bytes (R384). -/
def crc32 (bs : List Byte) : Word := ~~~(bs.foldl crcByte 0xFFFFFFFF)

/-- Bytes cut or filled with zeros to `n`. -/
def padTo (n : Nat) (bs : List Byte) : List Byte := (bs ++ List.replicate n 0).take n

/-- A unit of 40 bytes (R385). -/
def unitBytes (stream ukind idx tag : Nat) (hdr : Word) (data : List Byte) : List Byte :=
  leBytes 8 (stream + ukind * 2 ^ 8 + idx * 2 ^ 12 + tag * 2 ^ 16 + hdr.toNat * 2 ^ 32) ++ padTo 32 data

/-- The chunks of `n` elements of a list, by a bound on their number. -/
def chunks {α : Type} (n : Nat) : Nat → List α → List (List α)
  | 0, _ => []
  | k + 1, l => if l.isEmpty then [] else l.take n :: chunks n k (l.drop n)

/-- The units of a message (R385): its blocks of 32 bytes with their indices. -/
def unitsOf (stream ukind tag : Nat) (hdr : Word) (data : List Byte) : List (List Byte) :=
  ((chunks 32 9 data).zipIdx).map fun p => unitBytes stream ukind p.2 tag hdr p.1

/-- Bytes 4 to 251 of the data flits that carry units (R384): six units a flit, empty units filling the last. -/
def flitBodies (dst src : Byte) (units : List (List Byte)) : List (List Byte) :=
  (chunks 6 2 units).map fun us => padTo 248 ([dst, src, 0, 0] ++ us.flatten)

/-- A whole flit: its type, sequence numbers, body and CRC (R384). -/
def sealFlit (ftype : Nat) (fseq fack : BitVec 12) (body : List Byte) : List Byte :=
  let b := leBytes 2 (ftype + fseq.toNat * 16) ++ leBytes 2 fack.toNat ++ padTo 248 body
  b ++ leBytes 4 (crc32 b).toNat

/-- Glosutus link `k`. -/
def State.glink (s : State) (k : Nat) : GLink := SMap.get (fun _ => GLink.reset) s.links.gl k

/-- The state with Glosutus link `k` replaced. -/
def State.setGlink (s : State) (k : Nat) (x : GLink) : State := { s with links := { s.links with gl := SMap.set s.links.gl k x } }

/-- The link that carries a stream toward a device (R387), if one is up. -/
def State.linkFor (s : State) (dst stream : Nat) : Option Nat :=
  let mask := SMap.get (fun _ => (0 : Half)) s.links.route dst
  let ups := (List.range 16).filter fun k => mask.getLsbD k && (s.glink k).up
  if ups.isEmpty then none else ups[stream % ups.length]?

/-- The credit class of a flit's body (R386): requests 0, responses and acknowledgements 1. -/
def bodyClass (body : List Byte) : Nat := if 4 ≤ (body.getD 5 0).toNat % 16 then 1 else 0

/-- The credit that a link has left in a class (R386). -/
def GLink.credit (x : GLink) (cls : Nat) : Half :=
  if cls = 0 then 128 + x.peer0 - x.sent0 else 128 + x.peer1 - x.sent1

/-- Sends one data flit on a link (R384, R386): it takes a credit, a sequence number and a place in the retry buffer. -/
def GLink.send (x : GLink) (body : List Byte) : GLink :=
  let c := bodyClass body
  { x with
    txSeq := x.txSeq + 1
    out := x.out ++ [sealFlit 1 x.txSeq (x.rxSeq - 1) body]
    sent0 := if c = 0 then x.sent0 + 1 else x.sent0
    sent1 := if c = 1 then x.sent1 + 1 else x.sent1 }

/-- A buffer that a received flit of a class held is free (R386). -/
def GLink.free (x : GLink) (cls : Nat) : GLink :=
  if cls = 0 then { x with freed0 := x.freed0 + 1 } else { x with freed1 := x.freed1 + 1 }

/-- Frees the buffer that a forwarded flit held on the link it came from (R386, R387). -/
def State.freeBuffer (s : State) (from_ : Option Nat) (cls : Nat) : State :=
  match from_ with
  | some k => s.setGlink k ((s.glink k).free cls)
  | none => s

/-- A flit in line for a link: its stream, its body and, for a forwarded one, the link whose buffer it holds. -/
abbrev Waiting := Nat × List Byte × Option Nat

/-- The partition whose task made a request of this device (R380). -/
def State.remotePart (s : State) (p : Remote) : BitVec 4 :=
  if p.load < 2 ^ 64 then ((s.load p.load).map fun l => (s.queue l.queue).part).getD 0 else p.slot

/-- The key of a stream's send allowance on the links, for a partition whose requests a flit of this device carries (R380). Other flits have
no allowance. (DEDUCED, log entry 106) -/
def State.glKey (s : State) (stream : Nat) (body : List Byte) : Option (BitVec 4 × Nat) :=
  if body.getD 1 0 ≠ s.hub.dev ∨ bodyClass body ≠ 0 then none
  else (s.links.remote.find? fun p => BitVec.ofNat 16 (leNat ((body.drop 4).take 8) / 2 ^ 16) == p.tag).map fun p =>
    (s.remotePart p, 2 ^ 40 + 16 * stream + (s.remotePart p).toNat)

/-- Whether a flit is within the allowance of its stream for the period (R380, R394). -/
def State.glAllowed (s : State) (key : Option (BitVec 4 × Nat)) : Bool :=
  match key with
  | none => true
  | some (p, k) =>
    let n := ((SMap.get (fun _ => (0x0000_FFFF_FFFF_0000 : BitVec 64)) s.links.allow p.toNat).extractLsb' 32 16).toNat
    n == 0xFFFF || decide (SMap.get (fun _ => 0) s.links.spent k < n)

/-- Counts a flit on a link against its allowance. -/
def State.glSpend (s : State) (key : Option (BitVec 4 × Nat)) : State :=
  match key with
  | none => s
  | some (_, k) => { s with links := { s.links with spent := SMap.set s.links.spent k (SMap.get (fun _ => 0) s.links.spent k + 1) } }

/-- Sends the waiting flits that a link takes now (R386, R387), the oldest first; a flit of a stream does not pass an earlier
one of the same stream and class. `held` are the streams, with their devices and classes, that have an earlier flit that waits.
(DEDUCED, log entry 106) -/
def State.sendFlits (s : State) : List Waiting → List (Nat × Byte × Nat) → List Waiting → State
  | [], _, kept => { s with links := { s.links with wait := kept } }
  | w :: rest, held, kept =>
    let body := w.2.1
    let key := (w.1, body.getD 0 0, bodyClass body)
    match s.linkFor (body.getD 0 0).toNat w.1 with
    | some k =>
      let x := s.glink k
      let allow := s.glKey w.1 body
      if !held.contains key && x.credit (bodyClass body) != 0 && decide (x.out.length < 256) && s.glAllowed allow then
        (((s.setGlink k (x.send body)).freeBuffer w.2.2 (bodyClass body)).glSpend allow).sendFlits rest held kept
      else s.sendFlits rest (key :: held) (kept ++ [w])
    | none => s.sendFlits rest (key :: held) (kept ++ [w])

/-- Every waiting flit that can go is sent. -/
def State.flush (s : State) : State := s.sendFlits s.links.wait [] []

/-- The 64-bit header of a unit (R385). -/
def unitHdr (u : List Byte) : Nat := leNat (u.take 8)

/-- A message with one more unit, in index order (R385), if the unit continues it. -/
def Inbound.add (b : Inbound) (u : List Byte) : Option Inbound :=
  if unitHdr u / 2 ^ 12 % 16 = b.units.length then some { b with units := b.units ++ [(u.drop 8).take 32] } else none

/-- The acts that a complete response or an acknowledgement leads to (R385): the request it answers completes. -/
def State.answered (s : State) (src : Byte) (tag : BitVec 16) (status : Byte) (data : List Byte) (ack : Bool) : List Act :=
  match s.links.remote.find? fun p => p.tag == tag && p.dev == src with
  | none => []
  | some p =>
    if status = 0 ∧ (if ack = true then 0 < p.want ∧ p.opc ≠ 0xCA else data.length < p.want) then []
    else [.event (.remoteResponse tag.toNat status (if ack = true then data else data.take p.want))]

/-- A unit arrives from a device (R385): a request is ready once its last unit has come, and a response or an acknowledgement completes
its request. -/
def State.deliverUnit (s : State) (src : Byte) (u : List Byte) : State :=
  let h := unitHdr u
  let kind := h / 2 ^ 8 % 16
  let tag := BitVec.ofNat 16 (h / 2 ^ 16)
  let hdr := BitVec.ofNat 32 (h / 2 ^ 32)
  if kind = 5 then { s with agenda := s.agenda ++ s.answered src tag (hdr.extractLsb' 0 8) ((u.drop 8).take 1) true }
  else if 1 ≤ kind ∧ kind ≤ 4 then
    let mine := fun (b : Inbound) => b.dev == src && b.ukind == kind && b.stream == BitVec.ofNat 8 h && b.tag == tag
    let rest := s.links.inb.filter fun b => !mine b
    let b0 : Inbound := if h / 2 ^ 12 % 16 = 0 then ⟨src, kind, BitVec.ofNat 8 h, tag, hdr, []⟩
      else (s.links.inb.find? mine).getD ⟨src, kind, BitVec.ofNat 8 h, tag, hdr, []⟩
    match b0.add u with
    | none => { s with links := { s.links with inb := rest } }
    | some b =>
      if kind = 4 then
        match s.answered src tag (hdr.extractLsb' 0 8) b.units.flatten false with
        | [] => { s with links := { s.links with inb := rest ++ [b] } }
        | acts => { s with links := { s.links with inb := rest }, agenda := s.agenda ++ acts }
      else
        let n := (b.hdr.extractLsb' 8 8).toNat
        if n = 0 ∨ 9 < n then { s with links := { s.links with inb := rest } }
        else if n ≤ b.units.length then { s with links := { s.links with inb := rest, ready := s.links.ready ++ [b] } }
        else { s with links := { s.links with inb := rest ++ [b] } }
  else s

/-- Puts a message's flits in line and sends what can go; a message to the device itself is delivered at once (R387).
(DEDUCED, log entry 103) -/
def State.post (s : State) (dst : Byte) (stream : Nat) (units : List (List Byte)) : State :=
  if dst = s.hub.dev then units.foldl (fun s u => s.deliverUnit dst u) s
  else
    let fs := (flitBodies dst s.hub.dev units).map fun b => ((stream, b, none) : Waiting)
    { s with links := { s.links with wait := s.links.wait ++ fs } }.flush

/-- The reference timer's count of 100 µs (R388), in units of 1/21 ns. -/
def hundredMicros : Nat := 2100000

/-- The bytes that follow a row in the answer to an LDROW (log entry 21): the slot's version, and whether the read was stale (R235). -/
def rowTail : Nat := 3

/-- Sends a request of an access to another device (R385, R388). Unit 0 holds the address and, from byte 8 on, the modifiers of
the operation (log entry 21); the following units hold the data. -/
def State.request (s : State) (r e id : Nat) (dev : Byte) (ukind : Nat) (opc mod : Byte) (addr : Nat)
    (mods : List Byte) (data : List Byte) : State :=
  let tag := s.links.nextTag
  let stream := r / 192
  let n := (data.length + 31) / 32 + 1
  let hdr : Word := BitVec.ofNat 32 (opc.toNat + n * 2 ^ 8 + mod.toNat * 2 ^ 16)
  let units := unitsOf stream ukind tag.toNat hdr (padTo 32 (leBytes 8 addr ++ mods) ++ data)
  let s1 := { s with links := { s.links with
    nextTag := tag + 1
    remote := s.links.remote ++ [(⟨tag, dev, ((s.region r).owner).getD 0,
      ((s.elem r e).port.accs.find? fun (a : Access) => a.id == id).map fun (a : Access) => a.task, r, e, id, s.rt + hundredMicros,
      if ukind = 1 ∨ opc = 0xCA then leNat (mods.take 2) + (if opc = 0xCD then rowTail else 0) else 0,
      (((s.elem r e).port.accs.find? fun (a : Access) => a.id == id).map fun (a : Access) => a.slot).getD 0, opc⟩ : Remote)] } }
  s1.post dev stream units

end Sys2Proof.Machine
end

