-- ==== Sys2Proof/Machine/Mmu.lean ====
section
/-!
DEFINITION. Address translation (R311 to R316), and what a task reads and writes at a home: its version and its snapshot
(R259 to R263).
-/
namespace Sys2Proof.Machine

/-- What an agent needs of a leaf (R314). -/
inductive Need where
  | nothing
  | r
  | w
  | rw
  | x
deriving DecidableEq, Repr

/-- The lowest address bit that a level does not index (R311). -/
def levelShift (lvl : Nat) : Nat :=
  match lvl with
  | 1 => 43
  | 2 => 29
  | 3 => 21
  | _ => 16

/-- The number of bits that index a level (R311). -/
def levelBits (lvl : Nat) : Nat :=
  match lvl with
  | 1 => 14
  | 2 => 14
  | 3 => 8
  | _ => 5

/-- Whether the table at `base` of a level lies wholly in the row store (R312). -/
def tableOk (base lvl : Nat) : Bool := decide (base + 8 * 2 ^ levelBits lvl ≤ rowStoreEnd)

/-- Whether `n` bytes at `a` lie in the range of a memory kind (R313). -/
def kindOk (kind a n : Nat) : Bool :=
  match kind with
  | 0 => decide (a + n ≤ rowStoreEnd)
  | 1 => decide (spadBase ≤ a ∧ a + n ≤ spadBase + 768 * 0x80000)
  | 2 => decide (wstoreBase ≤ a ∧ a + n ≤ wstoreBase + 768 * 0x100000)
  | 3 => decide (xferBase ≤ a ∧ a + n ≤ xferBase + 768 * 4096)
  | 4 => true
  | 5 => true
  | _ => false

/-- Bits [i+n−1:i] of an entry. -/
def entryBits (e : BitVec 64) (i n : Nat) : Nat := e.toNat / 2 ^ i % 2 ^ n

/-- Whether a non-leaf entry is malformed at a level (R312). -/
def nonLeafBad (lvl : Nat) (e : BitVec 64) : Bool := lvl == 4 || entryBits e 2 6 != 0 || entryBits e 52 12 != 0

/-- The memory kind of a leaf. -/
def leafKind (e : BitVec 64) : Nat := entryBits e 8 3
/-- The physical page of a leaf. -/
def leafPage (e : BitVec 64) : Nat := entryBits e 16 36 * 0x10000

/-- Whether a leaf is malformed at a level (R312). (DEDUCED, log entry 52) -/
def leafBad (lvl : Nat) (e : BitVec 64) : Bool :=
  lvl == 1 || entryBits e 60 4 != 0 || entryBits e 12 4 != 0
    || (leafKind e != 4 && entryBits e 52 8 != 0) || leafPage e % 2 ^ levelShift lvl != 0
    || (e.getLsbD 3 && e.getLsbD 4) || (e.getLsbD 7 && leafKind e != 0)
    || !kindOk (leafKind e) (leafPage e) (2 ^ levelShift lvl)

/-- The fault of a translation: its class and detail. -/
abbrev Bad := Byte × Byte

/-- A walk from the table at `base` of level 4 − `left` (R311, R312): the leaf, its level and its own address. (DEDUCED, log entry 52) -/
def walkFrom (m : Mem) (va : BitVec 64) : Nat → Nat → Except Bad (BitVec 64 × Nat × Nat)
  | left, base =>
    let lvl := 4 - left
    if !tableOk base lvl then .error (0x04, 0x07) else
    let at_ := base + 8 * (va.toNat / 2 ^ levelShift lvl % 2 ^ levelBits lvl)
    if m.isLost at_ 8 then .error (0x0B, 0x04) else
    let e := BitVec.ofNat 64 (m.readLe at_ 8)
    if !e.getLsbD 0 then .error (0x04, 0x01)
    else if e.getLsbD 1 then (if leafBad lvl e then .error (0x04, 0x07) else .ok (e, lvl, at_))
    else if nonLeafBad lvl e then .error (0x04, 0x07)
    else match left with
      | 0 => .error (0x04, 0x07)
      | n + 1 => walkFrom m va n (entryBits e 8 44 * 256)

/-- What a valid leaf gives an agent that needs `need` (R313, R314): the private-page, domain and permission faults. A fetch from a page of a
kind that holds no chain is refused for its kind (R361), so its permission is not looked at. -/
def useLeaf (priv part dom : Nat) (need : Need) (e : BitVec 64) (lvl : Nat) (va : BitVec 64) : Except Bad Phys :=
  let kind := leafKind e
  if e.getLsbD 11 && priv != part then .error (0x04, 0x06)
  else if kind = 4 ∧ dom < entryBits e 52 8 then .error (0x04, 0x08)
  else
    let ok : Phys := ⟨BitVec.ofNat 3 kind, leafPage e + va.toNat % 2 ^ levelShift lvl, BitVec.ofNat 8 (entryBits e 52 8), e.getLsbD 7⟩
    match need with
    | .nothing => .ok ok
    | .r => if e.getLsbD 2 then .ok ok else .error (0x04, 0x04)
    | .w => if e.getLsbD 3 then .ok ok else .error (0x04, 0x05)
    | .rw => if !e.getLsbD 2 then .error (0x04, 0x04) else if e.getLsbD 3 then .ok ok else .error (0x04, 0x05)
    | .x => if e.getLsbD 4 || (kind != 0 && kind != 2) then .ok ok else .error (0x07, 0x01)

/-- Whether bits [63:57] of an address equal bit 56 (R311). -/
def canonical (va : BitVec 64) : Bool := entryBits va 56 8 == 0 || entryBits va 56 8 == 255

/-- Register MMU_ROOTp (R317). -/
def State.mmuRoot (s : State) (p : BitVec 4) : BitVec 64 := SMap.get (fun _ => 0) s.mmu.root p.toNat

/-- The cached translation of a page, if the unit still uses it: it may drop one at any time (R316). (DESIGN CHOICE, log entry 53) -/
def State.cached (s : State) (stack : Nat) (p : BitVec 4) (va : BitVec 64) : Option TlbEntry :=
  (s.mmu.tlb.find? fun t => t.stack == stack && t.part == p && t.page == va.toNat / 0x10000).filter fun _ => s.free % 2 == 0

/-- The leaf that an address translates through (R315, R316, R317): a cached one, or that of a walk. (DESIGN CHOICE, log entry 53) -/
def State.leafFor (s : State) (stack : Nat) (p : BitVec 4) (va : BitVec 64) : Except Bad (BitVec 64 × Nat × Nat) :=
  let root := s.mmuRoot p
  if !canonical va then .error (0x04, 0x02)
  else if !root.getLsbD 0 then .error (0x04, 0x01)
  else match s.cached stack p va with
    | some t => .ok (t.leaf, t.lvl, t.at_)
    | none => walkFrom s.mem va 3 (entryBits root 17 35 * 0x20000)

/-- Sets A, and D for a write, in the entry at its home (R315), and caches the translation (R316). (DEDUCED, log entry 51) -/
def State.touchLeaf (s : State) (stack : Nat) (p : BitVec 4) (va : BitVec 64) (write : Bool) (e : BitVec 64) (lvl at_ : Nat) :
    State :=
  let bits : Byte := if write then 0x60 else 0x40
  let e' := e ||| bits.zeroExtend 64
  let s1 := if e' = e then s else { s with mem := s.mem.commit [(at_, s.mem.read at_ ||| bits)] }
  let page := va.toNat / 0x10000
  let rest := s1.mmu.tlb.filter fun t => !(t.stack == stack && t.part == p && t.page == page)
  { s1 with mmu := { s1.mmu with tlb := ⟨stack, p, page, e', lvl, at_⟩ :: rest } }

/-- Whether a need includes writing. -/
def Need.writes (n : Need) : Bool := n == .w || n == .rw

/-- A translation (R311 to R317): the physical place or the fault, and the state with the entry's A and D and the counter of
free values advanced. (DEDUCED, log entry 52) -/
def State.translate (s : State) (stack : Nat) (p : BitVec 4) (va : BitVec 64) (need : Need) : Except Bad Phys × State :=
  match s.leafFor stack p va with
  | .error b => (.error b, s.bump)
  | .ok (e, lvl, at_) =>
    match useLeaf (entryBits (s.mmuRoot p) 52 4) p.toNat s.hub.dom.toNat need e lvl va with
    | .error b => (.error b, s.bump)
    | .ok ph =>
      let s1 := s.touchLeaf stack p va need.writes e lvl at_
      let s2 := if ph.rs then { s1 with mem := s1.mem.useWindow (leafPage e) at_ (2 ^ levelShift lvl) } else s1
      (.ok ph, s2.bump)

/- Versions and snapshots (R260 to R265). -/

/-- The bytes of the version that a load's task builds in a phase (R262). -/
def Load.version (l : Load) (ph : Nat) : List Host.Cell := SMap.get (fun _ => []) l.vers ph

/-- The distinct 128-byte lines of cells (R310). -/
def linesOf (cells : List Host.Cell) : List Nat := cells.foldl (fun acc c => setInsert acc (c.1 / 128)) []

/-- The lines of a load's versions (R310): those that its stores have written since the last commit, each once. -/
def Load.lines (l : Load) : Nat := (linesOf (l.vers.flatMap (·.2))).length

/-- The watermark that a load reads under in a phase (R261): the snapshot of the phase, while a task is current, and the published watermark
otherwise. (DEDUCED, log entry 45) -/
def Load.watermark (l : Load) (m : Mem) (ph : Nat) : Nat := (SMap.find l.snaps ph).getD ((l.task.map (·.csn)).getD m.pw)

/-- The snapshots that are open (R265): those of the current tasks. -/
def State.openSnaps (s : State) : List Nat :=
  (s.loads.filterMap fun p => if p.2.ph = .faulted then none else p.2.task.map (·.csn)).eraseDups

/-- The oldest snapshot that a read may still use, or the published watermark where none is open: an open one, or that of an earlier phase
some load of which is still to be performed. -/
def State.oldestSnap (s : State) : Nat :=
  ((s.loads.flatMap fun p => p.2.snaps.map (·.2)) ++ s.openSnaps).foldl Nat.min s.mem.pw

/-- The old line versions that a snapshot `w` reads (R265), each as its line and the commit that replaced it: the first above `w` that wrote
the line. -/
def Mem.oldLines (m : Mem) (w : Nat) : List (Nat × Nat) :=
  m.undo.reverse.foldl (fun acc u =>
    if w < u.csn then
      (linesOf u.old).foldl (fun acc n => if acc.any fun p => p.1 == n then acc else acc ++ [(n, u.csn)]) acc
    else acc) []

/-- The lines that the last-level cache's reserve holds (R262, R265): those of every version, and the old ones that an open snapshot still
reads. (DEDUCED, log entry 47) -/
def State.reserveLines (s : State) : Nat :=
  s.loads.foldl (fun n p => n + p.2.lines) 0 + (s.openSnaps.flatMap s.mem.oldLines).eraseDups.length

/-- The lines of a task's version, 8 MiB (R262). (DEDUCED, log entry 47) -/
def versionLimit : Nat := 65536
/-- The lines of the package's reserve, 2 GiB (R262). -/
def reserveLimit : Nat := 16777216

/-- A store into the version of load `k` (R262, R310): the state, or the detail of the VERSION fault that refuses it. A store of a load
that is gone or stopped belongs to a discarded version. (DEDUCED, log entry 47) -/
def State.storeVersion (s : State) (k ph : Nat) (cells : List Host.Cell) : Except Byte State :=
  match s.load k with
  | none => .ok s
  | some l =>
    if l.ph = .faulted then .ok s else
    let l1 := { l with vers := SMap.set l.vers ph (cells.foldl (fun v c => SMap.set v c.1 c.2) (l.version ph)) }
    if versionLimit < l1.lines ∧ l.lines < l1.lines then .error 0x01
    else if l.lines < l1.lines ∧ reserveLimit < s.reserveLines + (l1.lines - l.lines) then .error 0x02
    else .ok (s.setLoad k l1)

/-- What the version of a phase, committed or not, holds at an address (R261, R262). -/
def Load.versionByte (l : Load) (ph a : Nat) : Option Byte :=
  (SMap.find (l.version ph) a).or (SMap.find (SMap.get (fun _ => []) l.kept ph) a)

/-- A byte of the row store as a task of load `l` reads it in a phase (R261): its version's, or its snapshot's. (DEDUCED, log entry 45) -/
def State.taskByte (s : State) (l : Option Load) (ph a : Nat) : Byte :=
  match l with
  | some l => (l.versionByte ph a).getD (s.mem.snap (l.watermark s.mem ph) a)
  | none => s.mem.read a

/-- Whether a load of phase `ph` may read now (R263): no earlier boundary of its task waits for its commit. (DEDUCED, log entry 46) -/
def Load.phaseOpen (l : Load) (ph : Nat) : Bool := l.bounds.all fun b => decide (ph ≤ b.phase)

/-- Whether a byte is lost to a task that reads it in a phase (R227, R263): its version's line, or the byte at its home that the version does
not stand in for. -/
def State.byteLost (s : State) (l : Option Load) (ph a : Nat) : Bool :=
  match l with
  | some l => if (SMap.find (l.version ph) a).isSome then l.vbad.contains (a / 128) else s.mem.lost.contains a
  | none => s.mem.lost.contains a

/-- Whether a byte that a task's read touches is lost (R227). -/
def State.taskLost (s : State) (l : Option Load) (ph a n : Nat) : Bool := (List.range n).any fun i => s.byteLost l ph (a + i)

/-- Whether a store of a task into its version touches a byte that is lost to the task, in a word that it does not cover whole (R227,
R263). -/
def State.versionLost (s : State) (l : Option Load) (ph : Nat) (cells : List Host.Cell) : Bool :=
  cells.any fun c => s.byteLost l ph c.1 && !((List.range 8).all fun i => cells.any fun d => d.1 == 8 * (c.1 / 8) + i)

/-- Whether stores of a phase come after the load's last TEND (R306): no task will commit them, and they write no record. -/
def Load.orphan (l : Load) (ph : Nat) : Bool :=
  (l.ph == .ended || (l.ended && decide (l.tiles ≤ l.tile + 1))) && l.bounds.all fun b => decide (b.phase < ph)

/-- Bytes that an agent reads as latest applied state at a place (R261): host memory through the hub, else device memory. -/
def State.latest (s : State) (p : Phys) (n : Nat) : List Byte :=
  if p.kind = 5 then (List.range n).map fun i => s.hostByte (p.addr + i) else s.mem.readBytes p.addr n

/-- Writes host memory (R259). -/
def State.hostWrite (s : State) (cells : List Host.Cell) : State :=
  { s with mem := { s.mem with host := cells.foldl (fun h c => SMap.set h c.1 c.2) s.mem.host } }

/-- An immediate write at a place (R267, R268): a commit in the row store, else the bytes alone; the words it covers whole are
whole again. (DEDUCED, log entry 43) -/
def State.immediate (s : State) (kind : BitVec 3) (cells : List Host.Cell) : State :=
  if kind = 5 then s.hostWrite cells
  else
    let m := if kind = 0 then s.mem.commit cells else cells.foldl (fun m c => m.write c.1 c.2) s.mem
    let whole := m.lost.filter fun b => !((List.range 8).all fun i => cells.any fun c => c.1 == 8 * (b / 8) + i)
    { s with mem := { m with lost := whole } }

/-- Publishes the bytes of a version as one commit (R263): they are whole, and what is lost beside them in their words stays lost.
(DEDUCED, log entry 43) -/
def State.publish (s : State) (cells : List Host.Cell) : State :=
  let m := s.mem.commit cells
  { s with mem := { m with lost := m.lost.filter fun b => !(cells.any fun c => c.1 == b) } }

/-- Cells from an address upward. -/
def cellsAt (a : Nat) (bs : List Byte) : List Host.Cell := bs.mapIdx fun i b => (a + i, b)

end Sys2Proof.Machine
end

