-- ==== Sys2Proof/Machine/Edges.lean ====
section
/-!
DEFINITION. The bridged edges of the stacks: the way between two stacks, the send allowances of streams, the flits in line at an edge, and the
crossing of accesses and copies (R378 to R382, R394).
-/
namespace Sys2Proof.Machine

/-- The stack that holds a place (R241, R313); the hub side, 4, for remote and host memory. -/
def stackOf (p : Phys) : Nat :=
  match p.kind.toNat with
  | 0 => p.addr / 2 ^ 28 % 1024 / 192
  | 1 => (p.addr - spadBase) / 0x80000 / 192
  | 2 => (p.addr - wstoreBase) / 0x100000 / 192
  | 3 => (p.addr - xferBase) / 4096 / 192
  | _ => 4

/-- The die edges that traffic from stack `a` to stack `b` crosses, each numbered on its sending side (R378, R394); the hub die, 4, sends
to stack `b` on number 12 + `b`. -/
def edgePath (a b : Nat) : List Nat :=
  if a = b then []
  else if b = 4 then [3 * a]
  else if a = 4 then [12 + b]
  else if a ^^^ 1 = b then [3 * a + 1]
  else if a ^^^ 2 = b then [3 * a + 2]
  else [3 * a + 1, 3 * (a ^^^ 1) + 2]

/-- The stack that edge `e` leads to (R378); the hub side is 4. -/
def edgeEnd (e : Nat) : Nat :=
  if 12 ≤ e then e - 12
  else match e % 3 with
    | 1 => (e / 3) ^^^ 1
    | 2 => (e / 3) ^^^ 2
    | _ => 4

/-- The number of the other direction of edge `e` (R378). -/
def edgePeer (e : Nat) : Nat :=
  if 12 ≤ e then 3 * (e - 12)
  else match e % 3 with
    | 1 => 3 * ((e / 3) ^^^ 1) + 1
    | 2 => 3 * ((e / 3) ^^^ 2) + 2
    | _ => 12 + e / 3

/-- A die edge. -/
def State.edge (s : State) (e : Nat) : Edge := SMap.get (fun _ => Edge.reset) s.links.edges e

/-- The state with a die edge replaced. -/
def State.setEdge (s : State) (e : Nat) (x : Edge) : State := { s with links := { s.links with edges := SMap.set s.links.edges e x } }

/-- Whether a die edge is down (R382). -/
def State.edgeDown (s : State) (e : Nat) : Bool := (s.edge e).down

/-- Whether a down edge cuts region `r` from a place, on the way there or on the way back (R378, R382). -/
def State.cut (s : State) (r : Nat) (p : Phys) : Bool :=
  (edgePath (r / 192) (stackOf p) ++ edgePath (stackOf p) (r / 192)).any s.edgeDown

/-- The key of a stream's send allowance on an edge (R380). (DEDUCED, log entry 106) -/
def allowKey (b : Nat) (stream : Byte) (p : BitVec 4) : Nat := (b * 256 + stream.toNat) * 16 + p.toNat

/-- The die-edge allowance of a partition (R394). -/
def State.dieAllow (s : State) (p : BitVec 4) : Nat :=
  ((SMap.get (fun _ => (0x0000_FFFF_FFFF_0000 : BitVec 64)) s.links.allow p.toNat).extractLsb' 16 16).toNat

/-- Whether a stream has `n` flits of a partition left in its allowance on an edge (R380). (DEDUCED, log entry 106) -/
def State.allowed (s : State) (b : Nat) (stream : Byte) (p : BitVec 4) (n : Nat) : Bool :=
  let m := s.dieAllow p
  m == 0xFFFF || decide (SMap.get (fun _ => 0) s.links.spent (allowKey b stream p) + n ≤ m)

/-- Counts a flit against the allowance of its stream. (DEDUCED, log entry 106) -/
def State.spend (s : State) (b : Nat) (stream : Byte) (p : BitVec 4) : State :=
  let k := allowKey b stream p
  { s with links := { s.links with spent := SMap.set s.links.spent k (SMap.get (fun _ => 0) s.links.spent k + 1) } }

/-- Puts a flit in the retry buffer of a die edge, with the next sequence number; it arrives by cycle `due` (R142, R381).
(DESIGN CHOICE, log entry 101) -/
def Edge.enqueue (x : Edge) (due : Nat) (fl : BridgeFlit) : Edge :=
  { x with txSeq := x.txSeq + 1, retryBuf := x.retryBuf ++ [{ fl with fseq := x.txSeq, crcOk := true }], due := x.due ++ [due] }

/-- Whether the retry buffer of an edge that is not down takes `n` more flits (R381, R382): it keeps 64. -/
def Edge.hasRoom (x : Edge) (n : Nat) : Bool := !x.down && decide (x.retryBuf.length + n ≤ 64)

/-- Sends the flits that wait at edge `b` for their allowance or for room (R380), each stream in its own order: `blocked` are the streams with
an earlier flit that waits, `kept` the flits that stay. (DESIGN CHOICE, log entry 101) -/
def State.sendHeld (b : Nat) : List (BridgeFlit × Nat) → List Byte → List (BridgeFlit × Nat) → State → State
  | [], _, kept, s => s.setEdge b { s.edge b with hold := kept }
  | h :: hs, blocked, kept, s =>
    let x := s.edge b
    let st := h.1.stream
    if !blocked.contains st && x.hasRoom 1 && s.allowed b st h.1.part 1 then
      State.sendHeld b hs blocked kept ((s.setEdge b (x.enqueue h.2 h.1)).spend b st h.1.part)
    else State.sendHeld b hs (st :: blocked) (kept ++ [h]) s

/-- The waiting flits of an edge go on as far as they may. -/
def State.pumpEdge (s : State) (b : Nat) : State := s.sendHeld b (s.edge b).hold [] []

/-- The waiting flits of every edge go on as far as they may. -/
def State.pumpEdges (s : State) : State := s.links.edges.foldl (fun s e => s.pumpEdge e.1) s

/-- A flit comes to wait at edge `b` behind the others of its stream, and leaves when it may. -/
def State.handEdge (s : State) (b due : Nat) (fl : BridgeFlit) : State :=
  (s.setEdge b { s.edge b with hold := (s.edge b).hold ++ [(fl, due)] }).pumpEdge b

/-- The flits of an edge, sent or waiting. -/
def Edge.flits (x : Edge) : List BridgeFlit := x.retryBuf ++ x.hold.map (·.1)

/-- Bytes on a reserved stream cross from stack `a` to stack `b` (R379). Those that a down edge cuts off are lost.
(DESIGN CHOICE, log entry 101) -/
def State.ship (s : State) (a b : Nat) (stream : Byte) (p : BitVec 4) (who : Sender) (data : List Byte) : State :=
  match edgePath a b with
  | [] => s
  | e :: es =>
    if (e :: es).any s.edgeDown then s
    else s.handEdge e (s.cyc + 78) ⟨0, true, stream, p, b, [], some who, data⟩

/-- Whether a flit of region `r`'s accesses, sequencer or copies is on its way over an edge. -/
def State.inFlight (s : State) (r : Nat) : Bool :=
  s.links.edges.any fun e => e.2.flits.any fun f => (f.who.map fun w => w.reg == r).getD false

/-- The load of a region, for its flits. -/
def State.loadOf (s : State) (r : Nat) : Nat := ((s.region r).owner).getD 0

/-- Whether a request of an access of a global port, or with `back` an answer to it, is on its way over an edge (R381): the home acts once
the request has come, and the access completes once the answer has. -/
def State.crossing (s : State) (r e id : Nat) (back : Bool) : Bool :=
  (e == 144 || e == 145) && s.links.edges.any fun k => k.2.flits.any fun f => f.who == some ⟨s.loadOf r, r, e, id, back⟩

/-- The request of an access of region `r` goes to a place, or with `back` its answer comes from there, on the stream of the region's stack
(R379). (DESIGN CHOICE, log entry 101) -/
def State.cross (s : State) (r e id : Nat) (p : Phys) (back : Bool) (data : List Byte) : State :=
  if e = 144 ∨ e = 145 then
    s.ship (if back then stackOf p else r / 192) (if back then r / 192 else stackOf p) (BitVec.ofNat 8 (r / 192)) (s.partOf r)
      ⟨s.loadOf r, r, e, id, back⟩ data
  else s

end Sys2Proof.Machine
end

