-- ==== Sys2Proof/Machine/RouteOps.lean ====
section
/-!
DEFINITION. The routing instructions MRG, STEER, FANOUT and GSEL (R398 to R404).
-/
namespace Sys2Proof.Machine

/-- The distance of a head's seq from the seq last forwarded (R402). -/
def mrgDist (x : Elem) (t : Token) : Nat := (t.seq - x.su.spos.extractLsb' 0 12).toNat

/-- The sum of the chosen heads in one lane, element by element in ascending channel order (R403). -/
def mrgLane (x : Elem) (f : Fields) (ts : List Token) (l : Nat) : Word × Byte :=
  let t := floatFmt f.efmt
  let w := fmtWidth f.efmt.toNat
  let m := resolveMode x f.rnd
  laneElems w fun i =>
    let el := fun (u : Token) => elemWord w (u.lanes.get l) i
    match ts with
    | [] => (0, 0)
    | u :: us =>
      (us.foldl (fun (r : Rounded) v =>
        let a := decodeF t r.bits
        let b := decodeF t (el v)
        let q := nanFirst t [a, b] (roundOpt t m (satFloat x f) (addE m a b))
        ⟨q.bits, r.ev ||| q.ev⟩) ⟨el u, 0⟩).pair

/-- MRG (R402, R403). (DEDUCED, log entries 32, 33) -/
def execMrg (f : Fields) (s : State) : Host.Outcome State Fault Refusal :=
  let ks := [0, 1, 2, 3].filter fun k => f.imm.getLsbD k
  let lv := immBits f 4 3
  let c := outIx f
  fireWalk 0x9D f ks [c] (fun x _ =>
    let ds := ks.filter fun k => (headOf x k).kind == kData
    match ds.find? fun k => decide (mrgDist x (headOf x k) ≥ 2048) with
    | some k => .error (streamFault x 0x01 k)
    | none =>
      if !ds.isEmpty then
        let best := ds.foldl (fun b k => Nat.min b (mrgDist x (headOf x k))) 4096
        let js := ds.filter fun k => mrgDist x (headOf x k) == best
        let js := if f.var.getLsbD 0 then js else js.take 1
        let ts := js.map (headOf x)
        let sq := x.su.spos.extractLsb' 0 12 + BitVec.ofNat 12 best
        let first := ts.headD doneTok
        let upd := fun (y : Elem) => { y with su := { y.su with spos := sq.zeroExtend 32 } }
        if f.var.getLsbD 0 then
          let g := mrgLane x f ts
          let t : Token := ⟨sq, ts.foldl (fun v u => v ||| u.vmask) 0, f.efmt, kData, 0, Oct.ofFn fun l => (g l).1⟩
          .ok ⟨js.map fun k => (k, lv), [(c, t)], upd, false, (List.range 8).foldl (fun e l => e ||| (g l).2) 0, true, none⟩
        else .ok ⟨js.map fun k => (k, lv), [(c, { first with seq := sq })], upd, false, 0, true, none⟩
      else
        let first := headOf x (ks.headD 0)
        match ks.find? fun k => !sameMark (headOf x k) first with
        | some k => .error (streamFault x 0x04 k)
        | none => .ok ⟨ks.map fun k => (k, lv), [(c, first)], id, false, 0, true, none⟩) s

/-- STEER (R400). -/
def execSteer (f : Fields) (s : State) : Host.Outcome State Fault Refusal :=
  let b := immBits f 0 5
  let lv := immBits f 5 3
  let nk := f.var.getLsbD 0
  fireWalk 0x9E f [0, 1] (if nk then [0, 1] else [0, 1, 2, 3]) (fun x _ =>
    let r := headOf x 0
    let k := headOf x 1
    let deq := [(0, lv), (1, lv)]
    if r.kind = kData ∧ k.kind = kData then
      let side := if (k.lanes.get 0).getLsbD b then 1 else 0
      .ok { WStep.of deq ([(side, r)] ++ (if nk then [] else [(2 + side, k)])) with keep := true }
    else if r.kind ≠ kData ∧ sameMark r k = true then
      .ok { WStep.of deq ([(0, r), (1, r)] ++ (if nk then [] else [(2, k), (3, k)])) with keep := true }
    else .error (streamFault x 0x04 1)) s

/-- FANOUT (R401). -/
def execFanout (f : Fields) (s : State) : Host.Outcome State Fault Refusal :=
  let os := [0, 1, 2, 3].filter fun k => f.imm.getLsbD k
  let lv := immBits f 4 3
  fireWalk 0x9F f [0, 1] os (fun x _ =>
    let r := headOf x 0
    let k := headOf x 1
    let deq := [(0, lv), (1, lv)]
    if r.kind = kData ∧ k.kind = kData then
      .ok { WStep.of deq ((os.filter fun o => (k.lanes.get 1).getLsbD o).map fun o => (o, r)) with keep := true }
    else if r.kind ≠ kData ∧ sameMark r k = true then
      .ok { WStep.of deq (os.map fun o => (o, r)) with keep := true }
    else .error (streamFault x 0x04 1)) s

/-- The score of a group of lanes (R404): the best of its lanes in E, nothing where none is. -/
def groupScore (fp min : Bool) (a : Oct Word) (ls : List Nat) : Option Word :=
  match ls with
  | [] => none
  | l :: r => some (r.foldl (fun b j => if betterScore fp min (a.get j) b then a.get j else b) (a.get l))

/-- GSEL (R404). -/
def execGsel (f : Fields) (s : State) : Host.Outcome State Fault Refusal :=
  fireLane 0xA0 f 0 (fun x m =>
    let n := 2 ^ immBits f 0 2
    let k := immBits f 2 4
    let fp := f.efmt == 1
    let a := srcAll x f f.sa
    let score := fun g => groupScore fp (f.var.getLsbD 0) a ((lanesOf m).filter fun l => l / n == g)
    let gs := (List.range (8 / n)).filter fun g => (score g).isSome
    let ahead := fun g h =>
      match score g, score h with
      | some p, some q => betterScore fp (f.var.getLsbD 0) p q || (tieScore fp p q && decide (g < h))
      | _, _ => false
    let chosen := gs.filter fun g => decide (gs.countP (fun h => ahead h g) < k)
    let hit := maskOf fun l => chosen.contains (l / n)
    { Res.plain m (Oct.ofFn fun l => if hit.getLsbD l then 1 else 0) 0 with cmp := hit }) s

end Sys2Proof.Machine
end

