-- ==== Sys2Proof/Machine/Matrix.lean ====
section
/-!
DEFINITION. Matrix mode: the array's storage and accumulator file, the triple contraction, and the matrix instructions with the
events of the array (R183 to R211).
-/
namespace Sys2Proof.Machine

/-- Word `w` of the accumulator file (R185). -/
def Region.acc (g : Region) (w : Nat) : Word := ((g.elem (w % 1024 / 8)).reg (24 + w / 1024)).get (w % 8)

/-- The region with word `w` of the accumulator file replaced (R185). -/
def Region.setAcc (g : Region) (w : Nat) (v : Word) : Region :=
  let e := w % 1024 / 8
  g.setElem e ((g.elem e).writeLanes (24 + w / 1024) (maskOf fun l => l == w % 8) (Oct.all v))

/-- The region with accumulator tiles t to t+n−1 at +0 (R186, R206). -/
def Region.zeroTiles (g : Region) (t n : Nat) : Region :=
  (List.range n).foldl (fun g i =>
    (List.range 32).foldl (fun g j =>
      let e := 32 * ((t + i) % 4) + j
      g.setElem e ((g.elem e).setReg (24 + (t + i) / 4) (Oct.all 0))) g) g

/-- Storage token `j` (R187). -/
def MArray.token (a : MArray) (j : Nat) : Oct Word := SMap.get (fun _ => Oct.all 0) a.store j

/-- Scale byte `i` of the scale store (R187). -/
def MArray.scale (a : MArray) (i : Nat) : Byte := SMap.get (fun _ => 0) a.scales i

/-- Byte `o` of the stationary storage (R187). -/
def MArray.byte (a : MArray) (o : Nat) : Byte := octByte (a.token (o / 32)) (o % 32)

/-- Eight lanes with byte `n` replaced (R4). -/
def octPut (v : Oct Word) (n : Nat) (b : Byte) : Oct Word :=
  Oct.ofFn fun l =>
    if l = n / 4 then
      ((v.get l) &&& ~~~(0xFF#32 <<< (8 * (n % 4)))) ||| (b.zeroExtend 32 <<< (8 * (n % 4)))
    else v.get l

/-- Eight lanes from 32 bytes (R4). -/
def octOfBytes (b : Nat → Byte) : Oct Word :=
  Oct.ofFn fun l => b (4 * l + 3) ++ b (4 * l + 2) ++ b (4 * l + 1) ++ b (4 * l)

/-- The array with bytes written to storage from offset `o` upward. -/
def MArray.putBytes (a : MArray) (o : Nat) : List Byte → MArray
  | [] => a
  | b :: bs => ({ a with store := SMap.set a.store (o / 32) (octPut (a.token (o / 32)) (o % 32) b) } : MArray).putBytes (o + 1) bs

/-- The array with a scale byte written. -/
def MArray.setScale (a : MArray) (i : Nat) (b : Byte) : MArray := { a with scales := SMap.set a.scales i b }

/-- The shape of a TCON opcode (R189): columns N, contracted positions in FP32, tokens of a row, cycles of a step. -/
def shapeOf (opc : Nat) : Nat × Nat × Nat × Nat :=
  match opc with
  | 0xB8 => (32, 32, 4, 1)
  | 0xB9 => (64, 16, 2, 1)
  | 0xBA => (16, 64, 8, 1)
  | 0xBB => (128, 8, 1, 1)
  | 0xBC => (8, 128, 16, 2)
  | 0xBD => (256, 4, 1, 1)
  | 0xBE => (16, 32, 4, 1)
  | _ => (32, 16, 2, 1)

/-- Whether a shape has two banks (R189). -/
def shapeX (opc : Nat) : Bool := opc == 0xBE || opc == 0xBF

/-- A descriptor with its multiplicity (R190): the words of C24 to C31 and M. -/
structure Desc where
  c : List Word
  m : Nat
deriving DecidableEq, Repr

/-- Bits [i+n−1:i] of word `k` of a descriptor. -/
def Desc.bits (d : Desc) (k i n : Nat) : Nat := (d.c.getD k 0).toNat / 2 ^ i % 2 ^ n

/-- The role of slot `q` (R190). -/
def Desc.role (d : Desc) (q : Nat) : Nat := d.bits 2 (3 * q) 3

/-- The extent of slot `q`: the M slot takes M (R190). -/
def Desc.ext (d : Desc) (q : Nat) : Nat := if d.role q = 1 then d.m else d.bits (q / 2) (16 * (q % 2)) 16

/-- The slots of a role, ascending. -/
def Desc.slots (d : Desc) (role : Nat) : List Nat := [0, 1, 2, 3].filter fun q => d.role q == role

/-- The extent of the one slot of a role, or 1 (R190). -/
def Desc.size (d : Desc) (role : Nat) : Nat :=
  match d.slots role with
  | [] => 1
  | q :: _ => d.ext q

/-- The number of contracted positions (R190). -/
def Desc.kprod (d : Desc) : Nat := (d.slots 3).foldl (fun n q => n * d.ext q) 1

/-- The entries of operand `o`'s string, with their valid bits (R190). -/
def Desc.entries (d : Desc) (o : Nat) : List (Bool × Nat) :=
  [0, 1, 2].map fun e => (d.bits 3 (9 * o + 3 * e + 2) 1 == 1, d.bits 3 (9 * o + 3 * e) 2)

/-- Operand `o`'s string: the slots of its valid entries (R190). -/
def Desc.str (d : Desc) (o : Nat) : List Nat := ((d.entries o).filter (·.1)).map (·.2)

/-- The operand streamed from the west. -/
def Desc.xop (d : Desc) : Nat := d.bits 2 16 2
/-- The operand stationary in bank 0. -/
def Desc.sop (d : Desc) : Nat := d.bits 2 18 2
/-- The third operand. -/
def Desc.top (d : Desc) : Nat := d.bits 2 20 2
/-- Whether the third operand is stationary in bank 1. -/
def Desc.tbank (d : Desc) : Bool := d.bits 2 22 1 == 1
/-- The first accumulator tile of the output. -/
def Desc.base (d : Desc) : Nat := d.bits 2 12 4

/-- Values per token of a format code (R192). -/
def perToken (efmt : Nat) : Nat := 256 / fmtWidth efmt

/-- The capacity of a bank in values (R189). -/
def bankCap (opc efmt : Nat) : Nat := (shapeOf opc).1 * (shapeOf opc).2.1 * (32 / fmtWidth efmt)

/-- A valid string entry after an invalid one. -/
def gapIn : List (Bool × Nat) → Bool
  | (false, _) :: r => r.any (·.1) || gapIn r
  | _ :: r => gapIn r
  | [] => false

/-- Whether a descriptor is illegal for a shape and format (R191). -/
def Desc.bad (d : Desc) (opc efmt : Nat) : Bool :=
  let sh := shapeOf opc
  let used := fun q => d.role q != 0
  let ops := [d.xop, d.sop, d.top]
  let streamed := [d.xop] ++ (if d.tbank then [] else [d.top])
  let fixed := [d.sop] ++ (if d.tbank then [d.top] else [])
  let names := fun o role => (d.str o).any fun q => d.role q == role
  let kf := sh.2.1 * (32 / fmtWidth efmt)
  d.bits 2 23 9 != 0 || d.bits 3 27 5 != 0 || ([4, 5, 6, 7].any fun k => d.c.getD k 0 != 0)
    || ([0, 1, 2, 3].any fun q => decide (d.role q > 4))
    || (d.slots 1).length != 1 || decide ((d.slots 2).length > 1) || decide ((d.slots 4).length > 1)
    || (d.slots 3).isEmpty || decide ((d.slots 3).length > 2)
    || ([0, 1, 2, 3].any fun q => decide (2 ≤ d.role q) && d.ext q == 0)
    || decide (d.size 2 > sh.1) || decide (d.kprod > kf) || decide (d.size 4 * d.m > 256)
    || !([0, 1, 2].all fun o => ops.contains o) || d.tbank != shapeX opc
    || ([0, 1, 2].any fun o => gapIn (d.entries o) || !(d.str o).Nodup || (d.str o).any fun q => !used q)
    || (streamed.any fun o => names o 2)
    || (fixed.any fun o => names o 1 || names o 4
        || decide ((d.str o).foldl (fun n q => n * d.ext q) 1 > bankCap opc efmt))
    || (efmt == 4 && ((d.slots 3).length != 1 || d.kprod % 32 != 0
        || [0, 1, 2].any fun o => ((d.str o).dropLast).any fun q => d.role q == 3))

/-- The fault a TCON firing meets in its descriptor (R191). -/
def Desc.fault (d : Desc) (opc efmt : Nat) : Option Byte :=
  if d.bad opc efmt then some 0x11
  else if d.base * 256 + d.size 4 * d.m * d.size 2 > 4096 then some 0x12
  else none

/-- The digit of κ for K slot `q` (R190): the highest-numbered K slot varies fastest. -/
def Desc.digit (d : Desc) (q k : Nat) : Nat :=
  let inner := ((d.slots 3).filter fun t => decide (q < t)).foldl (fun n t => n * d.ext t) 1
  k / inner % d.ext q

/-- The bank value index of a stationary operand (R192): row-major over its string. -/
def Desc.index (d : Desc) (o n k : Nat) : Nat :=
  (d.str o).foldl (fun v q => v * d.ext q + (if d.role q = 2 then n else d.digit q k)) 0

/-- The bits of an element and its group's scale, as a streamed row gives them (R192, R194, R195). -/
def rowValue (efmt : Nat) (row scales : List Token) (k : Nat) : Word × Word :=
  let v := perToken efmt
  let j := k % v
  let t := row.getD (k / v) doneTok
  let b := elemWord (fmtWidth efmt) (t.lanes.get (j / (v / 8))) (j % (v / 8))
  let sc := (scales.getD (k / v) doneTok).lanes.get (if j < v / 2 then 0 else 4)
  (b, sc &&& 0xFF)

/-- The bits of a stationary element and its group's scale (R187). -/
def bankValue (a : MArray) (efmt base v : Nat) : Word × Word :=
  let w := fmtWidth efmt
  let bit := base * 8 + v * w
  let o := bit / 8
  (elemWord w ((a.token (o / 32)).get (o % 32 / 4)) (bit % 32 / w), (a.scale (o / 16)).zeroExtend 32)

/-- The streamed rows of a step (R192): X tokens and scales, T tokens and scales. -/
structure Rows where
  x  : List Token
  xs : List Token
  t  : List Token
  ts : List Token
deriving DecidableEq, Repr

/-- The bits of operand `o` at (n, κ) in a step (R192). -/
def opValue (a : MArray) (d : Desc) (efmt : Nat) (w : Rows) (o n k : Nat) : Word × Word :=
  if o = d.xop then rowValue efmt w.x w.xs k
  else if o = d.sop then bankValue a efmt 0 (d.index o n k)
  else if d.tbank then bankValue a efmt 2048 (d.index o n k)
  else rowValue efmt w.t w.ts k

/-- The value of a term with its events (R48, R193): the NaN of its operands in their order, the default NaN of an invalid product, or the
exact product. -/
def termValue (xs : List FVal) (t : Option FVal) : FVal × Byte :=
  match propagateNaN (xs.map FVal.narAsNaN), t with
  | some (b, ev), _ => (.nan b, ev)
  | none, some p => (p, 0)
  | none, none => (.nan defaultNaN, evNV)

/-- One addition of SumInOrder (R50), which is rounded once: of two NaNs the sum's comes before the term's. -/
def addTerm (sum : Rounded) (t : FVal × Byte) : Rounded :=
  let v := decodeFp32 sum.bits
  let r := nanFirst .fp32 [v, t.1] (roundOpt .fp32 .rne false (addE .rne v t.1))
  ⟨r.bits, sum.ev ||| t.2 ||| r.ev⟩

/-- The contribution of an F4 group (R49): the exact group sum times the exact product of scales, rounded once. -/
def groupTerm (v0 v1 v2 : Nat → Word × Word) (g : Nat) : Rounded :=
  let code := fun v k => decodeF4 (v (32 * g + k)).1 0x60
  let sum := sumE .rne ((List.range 32).map fun k => triple (code v0 k) (code v1 k) (code v2 k))
  let sc := fun v => decodeRn8 (v (32 * g)).2
  let scs := [sc v0, sc v1, sc v2]
  nanFirst .fp32 scs (roundOpt .fp32 .rne false
    (sum.bind fun q => (mulE q (sc v0)).bind fun q => (mulE q (sc v1)).bind fun q => mulE q (sc v2)))

/-- The output word of column `n` of a step (R193). -/
def stepWord (a : MArray) (d : Desc) (efmt : Nat) (w : Rows) (n : Nat) (old : Word) : Rounded :=
  let v := fun o => opValue a d efmt w o n
  if efmt = 4 then
    (List.range (d.kprod / 32)).foldl (fun r g =>
      let t := groupTerm (v 0) (v 1) (v 2) g
      addTerm r (decodeFp32 t.bits, t.ev)) ⟨old, 0⟩
  else
    let dec := fun o k => (decodeF (floatFmt (BitVec.ofNat 3 efmt)) (v o k).1).narAsNaN
    (List.range d.kprod).foldl (fun r k =>
      addTerm r (termValue [dec 0 k, dec 1 k, dec 2 k] (triple (dec 0 k) (dec 1 k) (dec 2 k)))) ⟨old, 0⟩

/- The instructions. -/

/-- The region changed once the firing has taken effect. -/
def onRegionAfter (r : Nat) (g : Region → Region) : State → State := fun s => s.onRegion r g

/-- A firing that faults first on a POISON head that it reads or dequeues (R14). (DEDUCED, log entry 117) -/
def poisonFirst (f : Fields) (act : Elem → Fired) (x : Elem) : Fired :=
  match poisonAt x (srcChans f ++ chansIn f.deq) with
  | some r => .fault r
  | none => act x

/-- A matrix instruction other than MMODE and IDXSET (R184, R202): in stream mode it faults, and otherwise it waits for the
idle array and `extra`. -/
def fireMatrix (opc : Byte) (f : Fields) (extra : Region → Bool) (act : Region → Elem → Fired) (s : State) :
    Host.Outcome State Fault Refusal :=
  let g := s.region s.cur.reg
  if g.mode = 0 then fire opc f (Look.lane f) (poisonFirst f fun _ => .fault (FaultRec.of 0x02 0x13)) s
  else if g.arr.op = 0 ∧ extra g = true then fire opc f (Look.lane f) (poisonFirst f (act g)) s
  else .next s

/-- The close of a firing that leaves no result: its dequeues and predicate update in E. -/
def closePlain (x : Elem) (f : Fields) : Elem := closeFiring x f (noResult (execLanes x f))

/-- `mmode.on` (R187, R188, R203). -/
def execMmodeOn (f : Fields) (s : State) : Host.Outcome State Fault Refusal :=
  let g := s.region s.cur.reg
  if g.mode = 0 then
    fire 0xB0 f (Look.lane f) (poisonFirst f fun x => .done (closePlain x f)
      (onRegionAfter s.cur.reg fun g => { g with mode := 1, arr := { MArray.idle with thr := g.arr.thr } })) s
  else if g.arr.op = 0 then fire 0xB0 f (Look.lane f) (poisonFirst f fun x => .done (closePlain x f) id) s
  else .next s

/-- `mmode.off` (R203). -/
def execMmodeOff (f : Fields) (s : State) : Host.Outcome State Fault Refusal :=
  let g := s.region s.cur.reg
  if g.mode = 0 then fire 0xB0 f (Look.lane f) (poisonFirst f fun x => .done (closePlain x f) id) s
  else if g.arr.op = 0 ∧ g.arr.armed.isEmpty = true then
    fire 0xB0 f (Look.lane f) (poisonFirst f fun x => .done (closePlain x f)
      (onRegionAfter s.cur.reg fun g => { g with mode := 0, arr := MArray.idle })) s
  else .next s

/-- The array with an operation begun (R211). -/
def MArray.start (a : MArray) (op : BitVec 3) (opc : Byte) (efmt : BitVec 3) (var0 : Bool) (imm : Half) (desc : List Word)
    (next : Nat) : MArray :=
  { a with op := op, opc := opc, efmt := efmt, var0 := var0, imm := imm, desc := desc, prog := 0, dur := next, fib := false,
           half := none, cnt := [] }

/-- WLOAD (R204). -/
def execWload (f : Fields) (s : State) : Host.Outcome State Fault Refusal :=
  fireMatrix 0xB1 f (fun _ => true) (fun _ x => .done (closePlain x f)
    (onRegionAfter s.cur.reg fun g =>
      { g with arr := g.arr.start 1 0xB1 f.efmt false f.imm g.arr.desc (s.cyc + 1) })) s

/-- WROW (R188, R205). -/
def execWrow (f : Fields) (s : State) : Host.Outcome State Fault Refusal :=
  let q := f.imm.extractLsb' 0 2
  fireMatrix 0xB2 f (fun _ => true) (fun g x =>
    if g.arr.armed.contains q then .fault (FaultRec.of 0x02 0x13)
    else .done (closePlain x f) (onRegionAfter s.cur.reg fun g =>
      { g with arr := { g.arr with armed := g.arr.armed ++ [q], lq := g.arr.lq &&& ~~~(1#4 <<< q.toNat) } })) s

/-- ACCZ (R206). -/
def execAccz (f : Fields) (s : State) : Host.Outcome State Fault Refusal :=
  fireMatrix 0xB3 f (fun _ => true) (fun _ x => .done (closePlain x f)
    (onRegionAfter s.cur.reg fun g => g.zeroTiles (immBits f 0 4) (immBits f 4 4 + 1))) s

/-- ACCRD (R207): the drain begins in the next cycle. -/
def execAccrd (f : Fields) (s : State) : Host.Outcome State Fault Refusal :=
  fireMatrix 0xB4 f (fun _ => true) (fun _ x => .done (closePlain x f)
    (onRegionAfter s.cur.reg fun g =>
      { g with arr := { g.arr.start 3 0xB4 0 (f.var.getLsbD 0) f.imm g.arr.desc (s.cyc + 1) with
                        done := f.var.getLsbD 1 } })) s

/-- IDXSET (R208). -/
def execIdxset (f : Fields) (s : State) : Host.Outcome State Fault Refusal :=
  fire 0xB5 f (Look.lane f) (poisonFirst f fun x =>
    let m := execLanes x f
    let k := f.dst.toNat - 32
    let old := x.const k
    let y := match f.var.toNat with
      | 1 => x.setConst k (old.extractLsb' 16 16 ++ f.imm)
      | 2 => x.setConst k (f.imm ++ old.extractLsb' 0 16)
      | _ => (match lowestLane m with
        | some l => x.setConst k (srcLane x f f.sa l)
        | none => x)
    .done (closeFiring y f (noResult m)) id) s

/-- The descriptor that a TCON captures from the lead's constants (R209). -/
def leadDesc (x : Elem) (f : Fields) : Desc := ⟨(List.range 8).map fun k => x.const (24 + k), immBits f 0 9⟩

/-- A TCON of a shape (R209). -/
def fireTcon (opc : Byte) (f : Fields) (s : State) : Host.Outcome State Fault Refusal :=
  fireMatrix opc f (fun g => g.arr.lq == 0xF) (fun _ x =>
    let d := leadDesc x f
    match d.fault opc.toNat f.efmt.toNat with
    | some det => .fault (FaultRec.of 0x02 det)
    | none => .done (closePlain x f) (onRegionAfter s.cur.reg fun g =>
        { g with arr := g.arr.start 2 opc f.efmt (f.var.getLsbD 0) f.imm d.c (s.cyc + 1) })) s

/-- TCON K64N32 (R189, R209). -/
def execTconK64n32 (f : Fields) (s : State) : Host.Outcome State Fault Refusal := fireTcon 0xB8 f s
/-- TCON K32N64 (R189, R209). -/
def execTconK32n64 (f : Fields) (s : State) : Host.Outcome State Fault Refusal := fireTcon 0xB9 f s
/-- TCON K128N16 (R189, R209). -/
def execTconK128n16 (f : Fields) (s : State) : Host.Outcome State Fault Refusal := fireTcon 0xBA f s
/-- TCON K16N128 (R189, R209). -/
def execTconK16n128 (f : Fields) (s : State) : Host.Outcome State Fault Refusal := fireTcon 0xBB f s
/-- TCON K256N8 (R189, R209). -/
def execTconK256n8 (f : Fields) (s : State) : Host.Outcome State Fault Refusal := fireTcon 0xBC f s
/-- TCON K8N256 (R189, R209). -/
def execTconK8n256 (f : Fields) (s : State) : Host.Outcome State Fault Refusal := fireTcon 0xBD f s
/-- TCON K64N16X (R189, R209). -/
def execTconK64n16x (f : Fields) (s : State) : Host.Outcome State Fault Refusal := fireTcon 0xBE f s
/-- TCON K32N32X (R189, R209). -/
def execTconK32n32x (f : Fields) (s : State) : Host.Outcome State Fault Refusal := fireTcon 0xBF f s

/- The events of the array. -/

/-- A channel that feeds the array (R195): the element, the input channel and whether its token is a scale token. -/
structure Feed where
  elem  : Nat
  chan  : Nat
  scale : Bool
deriving DecidableEq, Repr

/-- The head token of a feed. -/
def Feed.head (g : Region) (d : Feed) : Option Token := (g.elem d.elem).head d.chan

/-- The fault of a token that a step or a load is about to take (R197). -/
def feedFault (efmt : BitVec 3) (d : Feed) (t : Token) : Option FaultRec :=
  let mk := fun c det => some ((FaultRec.of c det).token d.chan t.seq)
  if t.kind = kPoison then mk 0x03 0x06
  else if t.kind = kStop ∨ t.kind = kDone then mk 0x03 0x04
  else if t.kind ≠ kData then mk 0x03 0x08
  else if t.fmt ≠ (if d.scale then 3 else efmt) then mk 0x02 0x10
  else none

/-- The first feed whose token fails (R197). -/
def firstBad (g : Region) (efmt : BitVec 3) (ds : List Feed) : Option (Feed × FaultRec) :=
  ds.findSome? fun d => (d.head g).bind fun t => (feedFault efmt d t).map fun r => (d, r)

/-- The region with the heads of the feeds dequeued (R196). -/
def takeFeeds (g : Region) (ds : List Feed) : Region :=
  ds.foldl (fun g d => g.setElem d.elem ((g.elem d.elem).dequeue d.chan)) g

/-- The west feeds of row tokens `c` to `c+n−1` (R195). -/
def westFeeds (c n chan : Nat) (scale : Bool) : List Feed := (List.range n).map fun i => ⟨16 * ((c + i) % 8), chan, scale⟩
/-- The north feeds of `n` row tokens (R195). -/
def northFeeds (n chan : Nat) (scale : Bool) : List Feed := (List.range n).map fun i => ⟨i, chan, scale⟩

/-- Whether the lead of a region may go on with its array (R25, R198, R200): no fault is pending and the clock runs. -/
def State.arrayRuns (s : State) (r : Nat) : Bool := s.clocked r && !s.stuck r 0

/-- The number of steps of the running contraction (R192). -/
def MArray.steps (a : MArray) : Nat :=
  let d : Desc := ⟨a.desc, a.imm.toNat % 512⟩
  d.size 4 * d.m

/-- The array's fault (R198): the lead sets its fault-pending bit and the record names the element that holds the channel. -/
def State.arrayFault (s : State) (r : Nat) (d : Feed) (f : FaultRec) : State :=
  s.raiseAs r 0 d.elem 0xFFFF (s.region r).arr.opc f

/-- The words of a step, from its rows (R193). -/
def stepVals (g : Region) (w : Rows) : Nat × List Word × Byte :=
  let a := g.arr
  let d : Desc := ⟨a.desc, a.imm.toNat % 512⟩
  let first := d.base * 256 + a.prog * d.size 2
  let rs := (List.range (d.size 2)).map fun n => stepWord a d a.efmt.toNat w n (g.acc (first + n))
  (first, rs.map (·.bits), rs.foldl (fun e r => e ||| r.ev) 0)

/-- Whether the throttle of R199 applies to region `r` (R411). -/
def State.gatedRows (s : State) (r : Nat) : Bool := decide (1 ≤ (SMap.get (fun _ => (0 : BitVec 2)) s.pwr.lvl (r / 192)).toNat)

/-- The array as a step begins in a cycle (R196, R199): the throttle of that time holds for the whole step. -/
def beginStep (thr : Bool) (cyc : Nat) (g : Region) : Region :=
  if g.arr.half.isSome then g else { g with arr := { g.arr with thr := thr, begun := cyc } }

/-- The end of a step: its words wait 24 cycles, and the next step waits until a step's duration after this one began (R196, R199). -/
def endStep (cyc : Nat) (w : Rows) (g : Region) : Region :=
  let v := stepVals g w
  let a := g.arr
  let span := (shapeOf a.opc.toNat).2.2.2 * (if a.thr then 2 else 1)
  { g with arr := { a with prog := a.prog + 1, half := none, dur := Nat.max (cyc + 1) (a.begun + span),
                           pend := a.pend ++ [⟨cyc + 24, v.1, v.2.1, v.2.2⟩] } }

/-- Whether a region takes no further step because it is to stop between steps (R200, R342, R371): a pre-emption is asked for, and the array
did not run when it was, or no PREPT has fired within 4096 cycles. (DEDUCED, log entry 87) -/
def Region.holdsSteps (g : Region) (cyc : Nat) : Bool :=
  g.rstate == 3 && (match g.req with | some q => !q.late || decide (q.cyc + 4096 ≤ cyc) | none => false)

/-- TCON_STEP_TAKE (R192, R196, R197): the array takes a step, a half step, or the stops that `.fib` asks for. -/
def execTconStepTake (r : Nat) (s : State) : Host.Outcome State Fault Refusal :=
  let g := s.region r
  let a := g.arr
  let d : Desc := ⟨a.desc, a.imm.toNat % 512⟩
  if a.op = 2 ∧ s.arrayRuns r = true ∧ a.dur ≤ s.cyc then
    let f4 := a.efmt == 4
    let w := (shapeOf a.opc.toNat).2.2.1
    if a.prog < a.steps then
      if a.half.isNone ∧ g.holdsSteps s.cyc = true then .next s else
      let second := a.half.isSome
      let c := if second then 8 else 0
      let n := if w = 16 then 8 else w
      let xF := westFeeds c n 0 false
      let xsF := if f4 then westFeeds c n 2 true else []
      let tOn := !d.tbank && !second
      let tF := if tOn then northFeeds w 1 false else []
      let tsF := if tOn && f4 then northFeeds w 3 true else []
      let all := xF ++ tF ++ xsF ++ tsF
      if all.all fun q => (q.head g).isSome then
        match firstBad g a.efmt all with
        | some (q, fr) => .next (s.arrayFault r q fr)
        | none =>
          let hs := fun ds : List Feed => ds.filterMap fun q => q.head g
          let g1 := beginStep (s.gatedRows r) s.cyc (takeFeeds g all)
          let rows := fun (x0 xs0 t0 ts0 : List Token) => (⟨x0 ++ hs xF, xs0 ++ hs xsF, t0 ++ hs tF, ts0 ++ hs tsF⟩ : Rows)
          match a.half with
          | some (x0, rest) =>
            let xs0 := if f4 then rest.take 8 else []
            let t := rest.drop xs0.length
            let tn := if d.tbank then 0 else w
            .next (s.setRegion r (endStep s.cyc (rows x0 xs0 (t.take tn) (t.drop tn)) g1))
          | none =>
            if w = 16 then
              let a1 := { g1.arr with half := some (hs xF, hs xsF ++ hs tF ++ hs tsF), dur := s.cyc + 1 }
              .next (s.setRegion r { g1 with arr := a1 })
            else .next (s.setRegion r (endStep s.cyc (rows [] [] [] []) g1))
      else .next s
    else if a.var0 ∧ a.fib = false then
      let ds := [(⟨0, 0, false⟩ : Feed)] ++ (if d.tbank then [] else [⟨0, 1, false⟩])
      if ds.all fun q => (q.head g).isSome then
        let isStop := fun q : Feed => match q.head g with | some t => t.kind == kStop && t.lvl == 0 | none => false
        match ds.find? fun q => !isStop q with
        | some q => .next (s.arrayFault r q ((FaultRec.of 0x03 0x04).token q.chan (((q.head g).map (·.seq)).getD 0)))
        | none =>
          let g1 := takeFeeds g ds
          let a1 := { g1.arr with fib := true, op := if g1.arr.pend.isEmpty then 0 else 2 }
          .next (s.setRegion r { g1 with arr := a1 })
      else .next s
    else .next s
  else .next s

/-- TCON_STEP_WRITE (R193, R196): the words of the oldest step are written when its time has come; the contraction completes with
its last words. -/
def execTconStepWrite (r : Nat) (s : State) : Host.Outcome State Fault Refusal :=
  let g := s.region r
  match g.arr.pend with
  | [] => .next s
  | w :: rest =>
    if w.due ≤ s.cyc then
      let g1 := (w.vals.zipIdx).foldl (fun g p => g.setAcc (w.first + p.2) p.1) g
      let g2 := g1.setElem 0 ((g1.elem 0).flag w.ev)
      let a := g2.arr
      let ovr := a.op == 2 && rest.isEmpty && decide (a.steps ≤ a.prog) && (!a.var0 || a.fib)
      .next (s.setRegion r { g2 with arr := { a with pend := rest, op := if ovr then 0 else a.op } })
    else .next s

/-- WLOAD_GROUP_TAKE (R204): up to eight tokens, once all of them are at their heads. -/
def execWloadGroupTake (r : Nat) (s : State) : Host.Outcome State Fault Refusal :=
  let g := s.region r
  let a := g.arr
  if a.op = 1 ∧ s.arrayRuns r = true ∧ a.dur ≤ s.cyc then
    let q := a.imm.toNat % 4
    let n := a.imm.toNat / 4 % 128 + 1
    let k := Nat.min 8 (n - a.prog)
    let f4 := a.efmt == 4
    let dF := westFeeds a.prog k 0 false
    let sF := if f4 then westFeeds a.prog k 2 true else []
    if (dF ++ sF).all fun p => (p.head g).isSome then
      match firstBad g a.efmt (dF ++ sF) with
      | some (p, fr) => .next (s.arrayFault r p fr)
      | none =>
        let g1 := takeFeeds g (dF ++ sF)
        let put := fun (a : MArray) (i : Nat) =>
          let j := 32 * q + a.prog + i
          let t := ((dF.getD i ⟨0, 0, false⟩).head g).getD doneTok
          let a1 := { a with store := SMap.set a.store j t.lanes }
          match (sF[i]?).bind fun p => p.head g with
          | some sc => (a1.setScale (2 * j) ((sc.lanes.get 0).extractLsb' 0 8)).setScale (2 * j + 1)
              ((sc.lanes.get 4).extractLsb' 0 8)
          | none => a1
        let a1 := (List.range k).foldl put g1.arr
        .next (s.setRegion r { g1 with arr := { a1 with prog := a.prog + k, op := if a.prog + k = n then 0 else 1 } })
    else .next s
  else .next s

/-- The token of a south column that an ACCRD pushes next (R207), with the element and accumulator it drains. `n0` is the counter of free
values. -/
def drainTok (g : Region) (n0 col i : Nat) : Option (Nat × Nat) × Token :=
  let t := g.arr.imm.toNat % 16
  let n := g.arr.imm.toNat / 16 % 16 + 1
  if i < 2 * n then
    let tile := t + i / 2
    let e := 16 * (2 * (tile % 4) + i % 2) + col
    (some (e, 24 + tile / 4), dataTok 1 0xFF ((g.elem e).reg (24 + tile / 4)))
  else (none, portMark (n0 + 9 * col) kDone 0)

/-- One south column of an ACCRD (R207): its next token is pushed when O3 has room. -/
def drainColumn (n0 : Nat) (g : Region) (col : Nat) : Region :=
  let a := g.arr
  let n := a.imm.toNat / 16 % 16 + 1
  let total := 2 * n + (if a.done then 1 else 0)
  let i := SMap.get (fun _ => 0) a.cnt col
  let x := g.elem (112 + col)
  let t := drainTok g n0 col i
  if i < total ∧ x.room 3 = true ∧ x.mayPush 3 t.2.kind = true then
    let g1 := g.setElem (112 + col) (x.push 3 { t.2 with seq := x.seqOut 3 })
    let g2 := match t.1 with
      | some (e, k) => if a.var0 then g1.setElem e ((g1.elem e).setReg k (Oct.all 0)) else g1
      | none => g1
    { g2 with arr := { g2.arr with cnt := SMap.set a.cnt col (i + 1), prog := a.prog + 1 } }
  else g

/-- ACCRD_PUSH (R207): every south O3 with room takes its next token. -/
def execAccrdPush (r : Nat) (s : State) : Host.Outcome State Fault Refusal :=
  let g := s.region r
  let a := g.arr
  if a.op = 3 ∧ s.arrayRuns r = true ∧ a.dur ≤ s.cyc then
    let g1 := (List.range 16).foldl (drainColumn s.tick) g
    let n := a.imm.toNat / 16 % 16 + 1
    let total := 16 * (2 * n + (if a.done then 1 else 0))
    let s1 := s.setRegion r { g1 with arr := { g1.arr with op := if g1.arr.prog = total then 0 else 3 } }
    .next (if a.prog = g1.arr.prog then s1 else { s1 with tick := s1.tick + 144 })
  else .next s

end Sys2Proof.Machine
end

