-- ==== Sys2Proof/Machine/Home.lean ====
section
/-!
DEFINITION. What an access does at its tile or home: loads, stores, waits, read-modify-writes and row updates (R220, R221,
R227 to R235), with the delivery of results (R224, R225).
-/
namespace Sys2Proof.Machine

/-- Whether an element is a scratchpad port (R27). -/
def isSpad (e : Nat) : Bool := decide (128 ≤ e ∧ e ≤ 143)
/-- Whether an element is a global-memory port (R27). -/
def isGmem (e : Nat) : Bool := e == 144 || e == 145

/-- Whether an access is in token form (R220). -/
def isTok (opc : Byte) (f : Fields) : Bool :=
  (decide (0xC0 ≤ opc.toNat ∧ opc.toNat ≤ 0xC4) && f.var.getLsbD 0) || opc == 0xC5 || opc == 0xC6

/-- The width of an access in bytes (R220). -/
def accWidth (opc : Byte) (f : Fields) : Nat := if isTok opc f then 32 else if f.w64 = 1 then 8 else 4

/-- The lane that a slot's element begins at (R220): lane k on a scratchpad port without W64, else lane 2k. (DEDUCED, log entry 126) -/
def slotLane (spad : Bool) (f : Fields) (k : Nat) : Nat := if spad && f.w64 == 0 then k else 2 * k

/-- Element `k` of an operand, in an access's width (R227, R232). -/
def slotValue (spad : Bool) (opc : Byte) (f : Fields) (v : Oct Word) (k : Nat) : Nat :=
  if accWidth opc f = 8 then (pairAt v k).toNat else (v.get (slotLane spad f k)).toNat

/-- The bytes that a slot stores (R227). -/
def slotBytes (spad : Bool) (opc : Byte) (f : Fields) (v : Oct Word) (k : Nat) : List Byte :=
  if accWidth opc f = 32 then (List.range 32).map (octByte v) else leBytes (accWidth opc f) (slotValue spad opc f v k)

/-- The result lanes with a slot's bytes in place, and their valid bits (R220, R227). (DEDUCED, log entry 126) -/
def placeBytes (spad : Bool) (opc : Byte) (f : Fields) (k : Nat) (bs : List Byte) (r : Oct Word × Byte) : Oct Word × Byte :=
  if bs.length = 32 then (octOfBytes fun n => bs.getD n 0, 0xFF)
  else
    let l0 := slotLane spad f k
    let v := leNat bs
    let n := if accWidth opc f = 8 then 2 else 1
    (Oct.ofFn fun l => if l0 ≤ l ∧ l < l0 + n then BitVec.ofNat 32 (v / 2 ^ (32 * (l - l0))) else r.1.get l,
      r.2 ||| maskOf fun l => decide (l0 ≤ l ∧ l < l0 + n))

/-- The cells that a slot of a storing access writes: an AGSNK token writes the lanes of its vmask (R227, R229). -/
def storeCells (spad : Bool) (a : Access) (k addr : Nat) : List Host.Cell :=
  let cs := cellsAt addr (slotBytes spad a.opc a.f a.b k)
  if a.opc = 0xC6 then cs.filter fun c => a.vm.getLsbD ((c.1 - addr) / 4) else cs

/-- Whether a store touches a lost byte in a word that it does not cover whole (R227). (DEDUCED, log entry 43) -/
def storeLost (m : Mem) (cells : List Host.Cell) : Bool :=
  cells.any fun c => m.lost.contains c.1 && !((List.range 8).all fun i => cells.any fun d => d.1 == 8 * (c.1 / 8) + i)

/-- The class and detail of an uncorrectable error at a place (R319). -/
def eccAt (kind : BitVec 3) : Bad := if kind = 1 then (0x0B, 0x01) else (0x0B, 0x02)

/-- What the performing of one address slot comes to: it waits, it faults, it is done with the bytes read, whether they are
lost and the events raised, or a request for it has left for another device. -/
inductive Perf where
  | wait
  | bad (b : Bad)
  | done (s : State) (bytes : List Byte) (lost : Bool) (ev : Byte)
  | sent (s : State)

/-- The modifiers that a request carries beside its address (log entry 21): the byte count, EFMT, the rounding code, UNS, the
saturation and the lane masks of a body. -/
def requestMods (x : Elem) (f : Fields) (n : Nat) (masks : List Byte) : List Byte :=
  leBytes 2 n ++ [f.efmt.zeroExtend 8, if f.rnd = 7 then ((x.field 162).extractLsb' 0 3).zeroExtend 8 else f.rnd.zeroExtend 8,
    f.uns.zeroExtend 8, if satFloat x f then 1 else 0] ++ masks

/-- The header byte [23:16] of a request (R385): ATOM's VAR and its width. (DESIGN CHOICE, log entry 21) -/
def requestMod (f : Fields) : Byte := f.var.zeroExtend 8 ||| (if f.w64 = 1 then 8 else 0)

/-- Performs a load of `n` bytes of a task (R227, R261, R263). -/
def State.performLoad (s : State) (r e id ph : Nat) (opc : Byte) (f : Fields) (p : Phys) (n : Nat) : Perf :=
  let l := s.ownerLoad r
  match p.kind.toNat with
  | 0 =>
    if (l.map fun l => l.phaseOpen ph).getD true then
      .done s ((List.range n).map fun i => s.taskByte l ph (p.addr + i)) (s.taskLost l ph p.addr n) 0
    else .wait
  | 1 => .done s (s.latest p n) (s.mem.isLost p.addr n) 0
  | 2 => if s.wsref then .wait else .done s (s.latest p n) (s.mem.isLost p.addr n) 0
  | 4 => .sent (s.request r e id p.dev 1 opc (requestMod f) p.addr (requestMods (s.elem r e) f n []) [])
  | 5 => .done s (s.latest p n) false 0
  | _ => .bad (0x04, 0x24)

/-- An adjustment word of a channel takes a value (R280). -/
def State.setAdjust (s : State) (off : Nat) (v : BitVec 64) : State :=
  let k := off / 4096 * 64 + off / 64 % 64
  let c := SMap.get (fun _ => Channel.free) s.eng.chans k
  let c' := if off % 64 = 8 then { c with adjs := v } else { c with adjd := v }
  { s with eng := { s.eng with chans := SMap.set s.eng.chans k c' } }

/-- Performs a store of a task (R227, R238, R259, R262, R280). -/
def State.performStore (s : State) (r e : Nat) (a : Access) (p : Phys) (k : Nat) (full : Bool) : Perf :=
  let spad := isSpad e
  let cells := storeCells spad a k p.addr
  let fill := fun (s : State) => if full then { s with mem := cells.foldl (fun m c => m.setFull c.1 1) s.mem } else s
  match p.kind.toNat with
  | 0 =>
    if s.versionLost (s.ownerLoad r) a.phase cells then .bad (eccAt 0)
    else match (s.region r).owner with
      | none => .done s [] false 0
      | some ld => match s.storeVersion ld a.phase cells with
        | .error d => .bad (0x08, d)
        | .ok s1 => .done s1 [] false 0
  | 1 => if storeLost s.mem cells then .bad (eccAt 1) else .done (fill (s.immediate 1 cells)) [] false 0
  | 2 => .bad (0x04, 0x23)
  | 3 =>
    let off := p.addr - xferBase
    if a.opc = 0xC1 ∧ accWidth a.opc a.f = 8 ∧ (off % 64 = 8 ∨ off % 64 = 16) then
      .done (s.setAdjust off (pairAt a.b k)) [] false 0
    else .bad (0x04, 0x24)
  | 4 => .sent (s.request r e a.id p.dev 2 a.opc (requestMod a.f) p.addr
      (requestMods (s.elem r e) a.f (accWidth a.opc a.f) [if a.opc = 0xC6 then a.vm else 0xFF]) (slotBytes spad a.opc a.f a.b k))
  | 5 => .done (s.immediate 5 cells) [] false 0
  | _ => .bad (0x04, 0x24)

/-- The new word of a read-modify-write, and its events (R232). -/
def atomNew (op w : Nat) (uns fp : Bool) (rm : RMode) (sf : Bool) (old b c : Nat) : Nat × Byte :=
  let wo := BitVec.ofNat 32 old
  let wb := BitVec.ofNat 32 b
  let sg := sgn w
  match op with
  | 0 =>
    if fp then (nanFirst .fp32 [decodeFp32 wo, decodeFp32 wb] (roundOpt .fp32 rm sf (addE rm (decodeFp32 wo) (decodeFp32 wb)))).pair
    else ((old + b) % 2 ^ w, 0)
  | 1 => if fp then (minMax false .fp32 wo wb).pair else if uns then (Nat.min old b, 0) else (if sg b < sg old then b else old, 0)
  | 2 => if fp then (minMax true .fp32 wo wb).pair else if uns then (Nat.max old b, 0) else (if sg old < sg b then b else old, 0)
  | 3 => (old &&& b, 0)
  | 4 => (old ||| b, 0)
  | 5 => (old ^^^ b, 0)
  | 6 => (b, 0)
  | _ => (if old = c then b else old, 0)

/-- The element that issued an access, with CONV as the firing saw it (R47). -/
def State.issuer (s : State) (r e : Nat) (a : Access) : Elem := (s.elem r e).setField 162 a.conv

/-- What ATOM makes of the old word of slot `k`, and its events (R232). -/
def atomFrom (spad : Bool) (x : Elem) (a : Access) (k old : Nat) : Nat × Byte :=
  atomNew a.f.var.toNat (8 * accWidth a.opc a.f) (a.f.uns == 1) (a.f.efmt == 1) (resolveMode x a.f.rnd) ((x.field 162).getLsbD 3) old
    (slotValue spad a.opc a.f a.b k) (slotValue spad a.opc a.f a.c k)

/-- Performs a read-modify-write at a tile or home (R232). (DEDUCED, log entry 42) -/
def State.performAtom (s : State) (r e : Nat) (a : Access) (p : Phys) (k : Nat) : Perf :=
  let spad := isSpad e
  let x := s.issuer r e a
  let w := accWidth a.opc a.f
  let b := slotValue spad a.opc a.f a.b k
  let c := slotValue spad a.opc a.f a.c k
  match p.kind.toNat, spad with
  | 4, false => .sent (s.request r e a.id p.dev 3 a.opc (requestMod a.f) p.addr (requestMods x a.f w []) (leBytes 16 b ++ leBytes 16 c))
  | 2, false => .bad (0x04, 0x23)
  | kind, _ =>
    if kind = 0 ∨ spad = true then
      if s.mem.isLost p.addr w then .bad (eccAt p.kind)
      else
        let old := s.mem.readLe p.addr w
        let n := atomFrom spad x a k old
        .done (s.immediate p.kind (cellsAt p.addr (leBytes w n.1))) (leBytes w old) false n.2
    else .bad (0x04, 0x24)

/-- Performs the test of a WAITA (R231). -/
def State.performWait (s : State) (r e : Nat) (a : Access) (p : Phys) : Perf :=
  let w := accWidth a.opc a.f
  let all := 2 ^ (8 * w) - 1
  let val := fun v : Oct Word => if w = 8 then (pairAt v 0).toNat else (v.get 0).toNat
  let mask := if a.f.var.getLsbD 0 then val a.c else all
  match p.kind.toNat with
  | 3 => .bad (0x04, 0x24)
  | 4 => .sent (s.request r e a.id p.dev 1 a.opc (requestMod a.f) p.addr (requestMods (s.elem r e) a.f w []) [])
  | _ =>
    if p.kind = 2 ∧ s.wsref = true then .wait
    else
      let bs := s.latest p w
      let hold := a.f.var.getLsbD 1 && !s.mem.isFull p.addr w
      if !hold && intCond a.f.cc.toNat (8 * w) (leNat bs &&& mask) (val a.b) then .done s bs (s.mem.isLost p.addr w) 0
      else .wait

/-- Performs slot `k` of an access of element `e` at a place (R220 to R232); traffic that waits on a down edge stops its task
(R382). -/
def State.performSlot (s : State) (r e : Nat) (a : Access) (k : Nat) (p : Phys) : Perf :=
  let w := accWidth a.opc a.f
  if s.cut r p then .bad (0x0A, 0x01) else
  match a.opc.toNat with
  | 0xC1 => s.performStore r e a p k false
  | 0xC6 => s.performStore r e a p k (a.f.var.getLsbD 0)
  | 0xC8 => s.performStore r e a p k (a.f.var.getLsbD 0)
  | 0xC3 => s.performStore r e a p k true
  | 0xC2 =>
    if s.mem.isFull p.addr w then
      let s1 := if a.f.var.getLsbD 1 then { s with mem := s.mem.setEmpty p.addr w } else s
      .done s1 (s.latest p w) (s.mem.isLost p.addr w) 0
    else .wait
  | 0xC4 => .done { s with mem := s.mem.setEmpty p.addr w } [] false 0
  | 0xC9 => s.performWait r e a p
  | 0xCA => s.performAtom r e a p k
  | _ => s.performLoad r e a.id a.phase a.opc a.f p w

/- The accesses of a port. -/

/-- Whether an access is parked (R228): a WAITA that asks another device for its word again still is. -/
def Access.isParked (a : Access) : Bool := a.ph == .parked || (a.ph == .away && a.waited)

/-- An access of a port, by its number. -/
def Elem.acc (x : Elem) (id : Nat) : Option Access := x.port.accs.find? fun a => a.id == id

/-- The element with an access replaced. -/
def Elem.setAcc (x : Elem) (a : Access) : Elem :=
  { x with port := { x.port with accs := x.port.accs.map fun b => if b.id = a.id then a else b } }

/-- The element without an access. -/
def Elem.dropAcc (x : Elem) (id : Nat) : Elem :=
  { x with port := { x.port with accs := x.port.accs.filter fun b => b.id != id } }

/-- The element with a new access, numbered next. -/
def Elem.issue (x : Elem) (a : Access) : Elem :=
  { x with port := { x.port with nextId := x.port.nextId + 1, accs := x.port.accs ++ [{ a with id := x.port.nextId }] } }

/-- The element with an access that a firing issues in cycle `cyc`: it takes the port's access cycle (R229). -/
def Elem.issueAt (x : Elem) (cyc : Nat) (a : Access) : Elem :=
  let y := x.issue a
  { y with port := { y.port with busy := cyc + 1 } }

/-- The state with an access of a port replaced. -/
def State.setAccess (s : State) (r e : Nat) (a : Access) : State := s.setElem r e ((s.elem r e).setAcc a)

/-- Whether an access announces its completion by a CMPL token, and not by a result (R224). -/
def Access.cmpl (a : Access) : Bool := (outOf a.f.dst).isNone || a.opc == 0xCE || a.opc == 0xCB || a.opc == 0xCC

/-- Whether an earlier access of the port still holds a result for the channel (R225 rule 2). (DEDUCED, log entry 124) -/
def Elem.heldBack (x : Elem) (id : Nat) (c : BitVec 2) : Bool :=
  x.port.accs.any fun b => decide (b.id < id) && b.chan == some c && !b.cmpl

/-- The token that a finished access pushes (R224, R227, R231). -/
def Access.token (a : Access) : Token :=
  if a.cmpl = true then
    cmplTok a.addr a.opc (if a.opc = 0xCB ∨ a.opc = 0xCC then a.ev else 0)
  else if a.lost then poisonTok a.f.efmt
  else dataTok (if a.opc = 0xC9 then 0 else a.f.efmt) a.vm a.res

/-- The element after its access `a`, whose slots are all performed, has announced its completion where it may (R224, R225): a CMPL waits for
no other completion, a result for the earlier results of its channel. Its tokens are pushed on its channel, into the reserved entry or as room allows, and the access is gone. -/
def Elem.finish (x : Elem) (a : Access) : Elem :=
  match a.chan with
  | none => (x.flag (if a.opc = 0xCA then a.ev else 0)).dropAcc a.id
  | some c =>
    if !a.cmpl && x.heldBack a.id c then x.setAcc a
    else if a.rsv then ((x.deliver c.toNat a.seq (a.toks.headD a.token)).flag (if a.opc = 0xCA then a.ev else 0)).dropAcc a.id
    else match a.toks with
      | [] => x.dropAcc a.id
      | t :: ts =>
        if x.room c.toNat && x.mayPush c.toNat t.kind then
          let y := x.push c.toNat { t with seq := a.seq.getD (x.seqOut c.toNat) }
          if ts.isEmpty then y.dropAcc a.id else y.setAcc { a with toks := ts }
        else x.setAcc a

/-- Whether an access is a store that no task will commit (R306). -/
def State.unclaimed (s : State) (r e : Nat) (a : Access) : Bool :=
  isGmem e && [0xC1, 0xC6, 0xC8].contains a.opc.toNat && ((s.ownerLoad r).map fun l => l.orphan a.phase).getD false

/-- The task to which an access belongs (R306): a global store issued while no task was current belongs to the next tile's task once that
has begun, and so to the current one. (DEDUCED, log entry 147) -/
def State.whose (s : State) (r : Nat) (a : Access) : Option Word :=
  let begun := ((s.ownerLoad r).map fun l => !l.ended).getD true
  if a.task = 0 ∧ [0xC1, 0xC6, 0xC8].contains a.opc.toNat = true ∧ begun = true then none else some a.task

/-- One slot of an access has failed (R239): the fault is taken, the slot is gone and the access pushes nothing any more. The
other slots of the firing go on (R307). A store that no task will commit writes no record (R306). (DEDUCED, log entry 40) -/
def State.failSlot (s : State) (r e : Nat) (a : Access) (k : Nat) (va : BitVec 64) (b : Bad) : State :=
  let x := s.elem r e
  let a' := { a with slots := a.slots.filter fun p => p.1 != k, chan := none }
  let x1 := match a.chan with
    | some c => if a.rsv then { x with resv := SMap.set x.resv c.toNat (x.reserved c.toNat - 1) } else x
    | none => x
  let x2 := if a'.slots.isEmpty then x1.dropAcc a.id else x1.setAcc a'
  let s1 := s.setElem r e x2
  if s.unclaimed r e a then s1
  else s1.raise r e a.slot.toNat a.opc { (FaultRec.of b.1 b.2).at_ va with who := s.whose r a }

/-- The physical place of a slot: its tile's own address on a scratchpad port, its translation on a global port. -/
def slotPlace (r e : Nat) (a : Access) (p : Nat × BitVec 64) : Option Phys :=
  if isSpad e then some ⟨1, spadAddr r ((e - 128) / 2) (p.2.toNat % 0x10000), 0, false⟩ else SMap.find a.tr p.1

/-- Whether two slots of an access touch one 64-bit word. -/
def sameWord (p q : Nat × BitVec 64) : Bool := p.2.toNat / 8 == q.2.toNat / 8

/-- The slots of an access that may be performed next: each comes after the earlier slots that share its word (R221). -/
def readySlots : List (Nat × BitVec 64) → List (Nat × BitVec 64) → List (Nat × BitVec 64)
  | _, [] => []
  | seen, p :: ps => if seen.any (sameWord p) then readySlots (p :: seen) ps else p :: readySlots (p :: seen) ps

/-- The access after one of its slots is performed with the bytes read. -/
def Access.took (a : Access) (spad : Bool) (k : Nat) (bs : List Byte) (lost : Bool) (ev : Byte) : Access :=
  let r := if bs.isEmpty then (a.res, a.vm) else
    if a.opc = 0xC9 then (octOfBytes fun n => bs.getD n 0, if bs.length = 8 then 3 else 1)
    else placeBytes spad a.opc a.f k bs (a.res, a.vm)
  { a with res := r.1, vm := if a.opc = 0xC6 then a.vm else r.2, lost := a.lost || lost, ev := a.ev ||| ev,
           slots := a.slots.filter fun p => p.1 != k }

end Sys2Proof.Machine
end

