-- ==== Sys2Proof/Machine/Port.lean ====
section
/-!
DEFINITION. The port operations (R217 to R240): their firings, and the events in which accesses are translated, performed and
completed and the stream engines advance.
-/
namespace Sys2Proof.Machine

/-- The phase of the task that is current on region `r` (R263). (DEDUCED, log entry 46) -/
def State.phaseOf (s : State) (r : Nat) : Nat := ((s.ownerLoad r).map (·.phase)).getD 0

/-- A new access of the slot in hand: its task and phase are those current in the cycle of issue (R263, R306).
(DEDUCED, log entries 35, 125) -/
def newAccess (s : State) (opc : Byte) (f : Fields) (slots : List (Nat × BitVec 64)) (addr : BitVec 64) : Access :=
  { id := 0, slot := BitVec.ofNat 4 s.cur.slot, opc := opc, f := f, task := s.taskOf s.cur.reg,
    phase := s.phaseOf s.cur.reg, slots := slots, tr := [], addr := addr, b := Oct.all 0, c := Oct.all 0,
    ph := if isSpad s.cur.elem then .home else .walk, res := Oct.all 0, vm := 0, lost := false, ev := 0, chan := none,
    rsv := false, seq := none, toks := [], conv := (s.elem s.cur.reg s.cur.elem).field 162, waited := false }

/-- The parked accesses of a port (R228). (DESIGN CHOICE, log entry 105) -/
def Elem.parkedCount (x : Elem) : Nat := (x.port.accs.filter Access.isParked).length

/-- Whether an access waits for a word of another device. -/
def Access.remote (a : Access) : Bool := a.tr.any fun p => p.2.kind == 4

/-- Whether a port may issue (R228, R272): a global port whose store waits for an entry of a full replay queue holds all of its
issue, and while eight accesses are parked LDS and WAITA do not issue. (DEDUCED, log entries 35, 39) -/
def Elem.mayIssue (x : Elem) (opc : Byte) : Bool :=
  !(x.port.accs.any fun a => a.ph == .replay) && ((opc != 0xC2 && opc != 0xC9) || decide (x.parkedCount < 8))

/-- The seq that a completion takes (R224): that of the address token when SA names a channel head. -/
def addrSeq (x : Elem) (f : Fields) : Option (BitVec 12) := ((chanOf f.sa).bind x.head).map (·.seq)

/-- The slots of an access that take part (R220). -/
def partSlots (spad : Bool) (opc : Byte) (f : Fields) (m : Byte) : List Nat :=
  (List.range (if isTok opc f then 1 else if spad && f.w64 == 0 then 8 else 4)).filter fun k =>
    if spad && f.w64 == 0 then m.getLsbD k else m.getLsbD (2 * k) && m.getLsbD (2 * k + 1)

/-- The fields from which the addresses of an access are formed (R220, R226): ATOM and WAITA have no displacement, and their IMM16 is an
operand's. -/
def addrFields (opc : Byte) (f : Fields) : Fields := if opc = 0xCA ∨ opc = 0xC9 then { f with imm := 0 } else f

/-- The displacement of an access, sign-extended (R220). -/
def disp (f : Fields) : Int := f.imm.toInt

/-- Why an offset of a scratchpad port faults at the firing (R220, R223): misaligned, or outside the bound window. -/
def spadFault (x : Elem) (off : Int) (w : Nat) : Option Byte :=
  let lo := 32 * (x.field 174).toNat
  let hi := 32 * ((x.field 175).toNat + 1)
  if off % w ≠ 0 then some 0x20
  else if off < lo ∨ (hi : Int) < off + w then some 0x21
  else none

/-- The address of slot `k` from the lanes of an address operand (R220), or the detail of the MEM fault it raises. -/
def slotAddr (spad : Bool) (x : Elem) (f : Fields) (w : Nat) (lane : Nat → Word) (pair : Nat → BitVec 64) (k : Nat) :
    Except (Byte × BitVec 64) (Nat × BitVec 64) :=
  if spad then
    let raw := if f.w64 = 1 then (pair k).toNat else (lane k).toNat
    let off := (raw : Int) + disp f
    let a := BitVec.ofInt 64 off
    if f.w64 = 0 ∧ 0x10000 ≤ raw then .error (0x21, a)
    else match spadFault x off w with
      | some d => .error (d, a)
      | none => .ok (k, a)
  else
    let va := pair k + BitVec.ofInt 64 (disp f)
    if va.toNat % w ≠ 0 then .error (0x20, va) else .ok (k, va)

/-- The addresses of the slots `ks`, or the first fault. (DEDUCED, log entry 40) -/
def slotAddrs (spad : Bool) (x : Elem) (f : Fields) (w : Nat) (lane : Nat → Word) (pair : Nat → BitVec 64) :
    List Nat → Except (Byte × BitVec 64) (List (Nat × BitVec 64))
  | [] => .ok []
  | k :: ks => match slotAddr spad x f w lane pair k with
    | .error b => .error b
    | .ok p => (slotAddrs spad x f w lane pair ks).map (p :: ·)

/-- A MEM fault of an address at the firing (R239). -/
def memFault (b : Byte × BitVec 64) : FaultRec := (FaultRec.of 0x04 b.1).at_ b.2

/-- The output on which an access without a result token announces its completion (R223, R224): CPLCH where CPLEN is set. -/
def cplOut (x : Elem) (f : Fields) : List Nat :=
  let pctl := x.field 169
  if (outOf f.dst).isNone && pctl.getLsbD 15 then [(pctl.extractLsb' 13 2).toNat] else []

/-- A firing of a port that may issue. It is not ready while a stream owns an output that it writes, that of its CMPL among them (R222). -/
def firePort (opc : Byte) (f : Fields) (k : Look) (lanes : Fields) (ready : Elem → Bool)
    (act : Elem → Byte → Fired) (s : State) : Host.Outcome State Fault Refusal :=
  let x := s.elem s.cur.reg s.cur.elem
  if x.mayIssue opc && ready x then
    fire opc f { k with outs := k.outs ++ cplOut x f } (fun x =>
      match laneFault s x lanes with
      | some r => .fault r
      | none => act x (execLanes x lanes)) s
  else .next s

/-- The firing's access with its completion announced (R224): its result on Oc with a reserved entry, or a CMPL on CPLCH when
CPLEN is set. -/
def withChannel (x : Elem) (f : Fields) (kind : BitVec 3) (a : Access) : Option (Elem × Access) :=
  match outOf f.dst with
  | some c =>
    if x.mayPush c kind then some (x.reserve c kind, { a with chan := some (BitVec.ofNat 2 c), rsv := true, seq := addrSeq x f })
    else none
  | none =>
    let pctl := x.field 169
    if pctl.getLsbD 15 then
      let c := pctl.extractLsb' 13 2
      some (x.reserve c.toNat kCmpl, { a with chan := some c, rsv := true, seq := addrSeq x f })
    else some (x, a)

/-- The firing that issues an access in cycle `cyc`: its dequeues and predicate update, then the access stands in the port. -/
def issueFired (cyc : Nat) (x : Elem) (f : Fields) (m : Byte) (kind : BitVec 3) (a : Access) : Fired :=
  match withChannel x f kind a with
  | none => .wait
  | some (y, a) => .done ((closeFiring y f (noResult m)).issueAt cyc a) id

/-- LD, ST, LDS, STF, SETE and ATOM (R220, R227, R232). (DEDUCED, log entry 37) -/
def fireAccess (opc : Byte) (f : Fields) (s : State) : Host.Outcome State Fault Refusal :=
  let spad := isSpad s.cur.elem
  let g := addrFields opc f
  firePort opc f (Look.lane f) f (fun x => !owesCredit x f) (fun x m =>
    match slotAddrs spad x g (accWidth opc f) (srcLane x f f.sa) (srcPair x f f.sa) (partSlots spad opc f m) with
    | .error b => .fault (memFault b)
    | .ok ps =>
      let first := match slotAddr spad x g 1 (srcLane x f f.sa) (srcPair x f f.sa) 0 with
        | .ok p => p.2
        | .error b => b.2
      let get := fun sp => if f.w64 = 1 then srcPairs x f sp else srcAll x f sp
      issueFired s.cyc x f m kData { newAccess s opc f ps first with b := get f.sb, c := get f.sc }) s

/-- LD (R227). -/
def execLd (f : Fields) (s : State) : Host.Outcome State Fault Refusal := fireAccess 0xC0 f s
/-- ST (R227). -/
def execSt (f : Fields) (s : State) : Host.Outcome State Fault Refusal := fireAccess 0xC1 f s
/-- LDS (R227, R228). -/
def execLds (f : Fields) (s : State) : Host.Outcome State Fault Refusal := fireAccess 0xC2 f s
/-- STF (R227). -/
def execStf (f : Fields) (s : State) : Host.Outcome State Fault Refusal := fireAccess 0xC3 f s
/-- SETE (R227). -/
def execSete (f : Fields) (s : State) : Host.Outcome State Fault Refusal := fireAccess 0xC4 f s
/-- ATOM (R232). -/
def execAtom (f : Fields) (s : State) : Host.Outcome State Fault Refusal := fireAccess 0xCA f s

/-- A stream engine at its start (R222). -/
def newEngine (s : State) (kind : BitVec 3) (opc : Byte) (f : Fields) : StreamEngine :=
  { kind := kind, slot := BitVec.ofNat 4 s.cur.slot, opc := opc, f := f, ch := 0, ch2 := 0, out := BitVec.ofNat 2 (outIx f),
    i := 0, r := 0, n := 0, base := 0, first := none, body := [], ended := false, seq := none, born := 0,
    conv := (s.elem s.cur.reg s.cur.elem).field 162 }

/-- A designated channel's number (R222). -/
def desigChan (sp : BitVec 6) : BitVec 2 := BitVec.ofNat 2 (chanIx sp)

/-- The base of a generator (R226): lane 0, or pair 0 on a global port; a base in a constant or an immediate is sign-extended (R72). -/
def genBase (spad : Bool) (x : Elem) (f : Fields) (sp : BitVec 6) : BitVec 64 :=
  if spad then (if 32 ≤ sp.toNat ∨ sp = 28 then (srcLane x f sp 0).signExtend 64 else (srcLane x f sp 0).zeroExtend 64)
  else srcPair x f sp 0

/-- The start of a stream (R222): the engine is set, numbered among the accesses of its port, and `cmpl` reserves the entry of its CMPL. -/
def startStream (x : Elem) (f : Fields) (m : Byte) (cmpl : Bool) (g : StreamEngine) : Fired :=
  let y := if cmpl then x.reserve (outIx f) kCmpl else x
  let z := closeFiring y f (noResult m)
  .done { z with port := { z.port with nextId := z.port.nextId + 1, eng := some { g with born := z.port.nextId } } } id

/-- Whether the port's stream engine is idle (R222). -/
def engineIdle (x : Elem) : Bool := x.port.eng.isNone

/-- AGSRC (R229). -/
def execAgsrc (f : Fields) (s : State) : Host.Outcome State Fault Refusal :=
  let spad := isSpad s.cur.elem
  firePort 0xC5 f (Look.lane f) f engineIdle (fun x m =>
    startStream x f m false { newEngine s 1 0xC5 f with n := srcLane x f f.sa 0, base := genBase spad x f f.sb }) s

/-- AGSNK (R229). -/
def execAgsnk (f : Fields) (s : State) : Host.Outcome State Fault Refusal :=
  let spad := isSpad s.cur.elem
  let g := { f with sa := 30 }
  firePort 0xC6 f (Look.lane g) g engineIdle (fun x m =>
    startStream x f m true { newEngine s 2 0xC6 f with ch := desigChan f.sa, base := genBase spad x f f.sb }) s

/-- GATH (R230). -/
def execGath (f : Fields) (s : State) : Host.Outcome State Fault Refusal :=
  let g := { f with sa := 30 }
  firePort 0xC7 f (Look.lane g) g engineIdle (fun x m =>
    startStream x f m false { newEngine s 3 0xC7 f with ch := desigChan f.sa }) s

/-- SCAT (R230). -/
def execScat (f : Fields) (s : State) : Host.Outcome State Fault Refusal :=
  let g := { f with sa := 30, sb := 30 }
  firePort 0xC8 f (Look.lane g) g engineIdle (fun x m =>
    startStream x f m true { newEngine s 4 0xC8 f with ch := desigChan f.sa, ch2 := desigChan f.sb }) s

/-- WAITA (R231): the address, b and the mask come from lane 0 or pair 0, whether or not it is in E. -/
def execWaita (f : Fields) (s : State) : Host.Outcome State Fault Refusal :=
  let spad := isSpad s.cur.elem
  firePort 0xC9 f (Look.lane f) f (fun x => !owesCredit x f) (fun x m =>
    match slotAddr spad x (addrFields 0xC9 f) (accWidth 0xC9 f) (srcLane x f f.sa) (srcPair x f f.sa) 0 with
    | .error b => .fault (memFault b)
    | .ok p =>
      let get := fun sp => if f.w64 = 1 then srcPairs x f sp else srcAll x f sp
      issueFired s.cyc x f m kData { newAccess s 0xC9 f [p] p.2 with b := get f.sb, c := get f.sc }) s

/-- The bytes of a row access (R226, R233). -/
def rowLen (f : Fields) : Nat := 32 * 2 ^ immBits f 0 2

/-- VRADD and VRMAX (R234): the body is taken after the firing. -/
def fireRowUpdate (opc : Byte) (f : Fields) (s : State) : Host.Outcome State Fault Refusal :=
  let g := { f with sb := 30 }
  firePort opc f (Look.lane g) g engineIdle (fun x m =>
    let va := srcPair x f f.sa 0
    if va.toNat % rowLen f ≠ 0 then .fault (memFault (0x20, va))
    else startStream x f m true { newEngine s 5 opc f with
      ch := desigChan f.sb, n := BitVec.ofNat 32 (rowLen f / 32), base := va, seq := addrSeq x f }) s

/-- VRADD (R234). -/
def execVradd (f : Fields) (s : State) : Host.Outcome State Fault Refusal := fireRowUpdate 0xCB f s
/-- VRMAX (R234). -/
def execVrmax (f : Fields) (s : State) : Host.Outcome State Fault Refusal := fireRowUpdate 0xCC f s

/-- LDROW (R235): one token reserves its entry, several are pushed as room allows (R224). -/
def execLdrow (f : Fields) (s : State) : Host.Outcome State Fault Refusal :=
  let single := decide (rowLen f = 32) && !f.var.getLsbD 0
  firePort 0xCD f (Look.lane f) f (fun x => !(single && owesCredit x f)) (fun x m =>
    let va := srcPair x f f.sa 0
    if va.toNat % rowLen f ≠ 0 then .fault (memFault (0x20, va))
    else
      let a := newAccess s 0xCD f [(0, va)] va
      if single then issueFired s.cyc x f m kData a
      else .done ((closeFiring x f (noResult m)).issueAt s.cyc
        { a with chan := some (BitVec.ofNat 2 (outIx f)), seq := addrSeq x f }) id) s

/-- FENCE (R236). -/
def execFence (f : Fields) (s : State) : Host.Outcome State Fault Refusal :=
  firePort 0xCE f (Look.lane f) f (fun _ => true) (fun x m => issueFired s.cyc x f m kCmpl (newAccess s 0xCE f [] 0)) s

/-- BXSTART (R220, R237): slot 0 takes part where both lanes of pair 0 are in E; where it does not, no START word is stored, and the
firing still completes. (DEDUCED, log entry 70) -/
def execBxstart (f : Fields) (s : State) : Host.Outcome State Fault Refusal :=
  firePort 0xCF f (Look.lane f) f (fun _ => true) (fun x m =>
    let va := srcPair x f f.sa 0
    let part := m.getLsbD 0 && m.getLsbD 1
    if part = true ∧ va.toNat % 4 ≠ 0 then .fault (memFault (0x20, va))
    else issueFired s.cyc x f m kCmpl
      { newAccess s 0xCF f (if part then [(0, va)] else []) va with b := Oct.all (srcLane x f f.sb 0) }) s

/-- WSRD (R238). -/
def execWsrd (f : Fields) (s : State) : Host.Outcome State Fault Refusal :=
  let look := Look.lane f
  let x2 := f.imm.getLsbD 2
  let d := immBits f 0 2
  firePort 0xD0 f { look with outs := look.outs ++ (if x2 then [d] else []) } f engineIdle (fun x m =>
    let off := srcLane x f f.sa 0
    let n := srcLane x f f.sa 1
    if off.toNat % 32 ≠ 0 then .fault (memFault (0x20, off.zeroExtend 64))
    else if 0x100000 < off.toNat + 32 * n.toNat then .fault (memFault (0x21, off.zeroExtend 64))
    else startStream x f m false
      { newEngine s 6 0xD0 f with ch2 := BitVec.ofNat 2 d, n := n, base := off.zeroExtend 64, seq := addrSeq x f }) s

/-- WSPH (R238): the phase counter is the fabric cycle modulo 4096 (log entry 23). -/
def execWsph (f : Fields) (s : State) : Host.Outcome State Fault Refusal :=
  fireLane 0xD1 f 0 (fun _ m => Res.plain m (Oct.all (BitVec.ofNat 32 (s.cyc % 4096))) 0) s

/- Accesses under way. -/

/-- The permission that an access needs (R314). -/
def needOf (opc : Byte) : Need :=
  match opc.toNat with
  | 0xC1 => .w
  | 0xC6 => .w
  | 0xC8 => .w
  | 0xCF => .w
  | 0xCA => .rw
  | 0xCB => .rw
  | 0xCC => .rw
  | _ => .r

/-- Whether an access is a store that a missing page parks (R272, R318). (DEDUCED, log entry 55) -/
def parks (opc : Byte) : Bool := opc == 0xC1 || opc == 0xC6 || opc == 0xC8 || opc == 0xCF

/-- The record fields of a park (R318, R320). -/
def parkRec (s : State) (r e : Nat) (a : Access) (va : BitVec 64) : FaultRec :=
  { (FaultRec.of 0x04 0x01).at_ va with
    parked := true, page := (s.region r).page, reg := r, unit := e, slot := a.slot.toNat, opc := a.opc, who := s.whose r a }

/-- A task's park on a page (R318): its record is written by `rec`, unless the task has had one for the page since its last service. -/
def State.notePark (s : State) (ld : Nat) (task : Word) (page : Nat) (rec : State → State) : State :=
  if s.mmu.parks.contains (ld, task, page) then s
  else
    let s1 := rec s
    { s1 with mmu := { s1.mmu with parks := s1.mmu.parks ++ [(ld, task, page)] } }

/-- A park of a load's task on a page, with its PARKED record (R318). (DEDUCED, log entry 75) -/
def State.parkRecord (s : State) (ld : Nat) (page : Nat) (f : FaultRec) : State :=
  s.notePark ld ((((s.load ld).bind fun l => l.named f.who).map (·.1)).getD 0) page fun s => s.loadRecord ld f

/-- Whether a load is stopping or stopped by a fault (R307). -/
def State.stopping (s : State) (r : Nat) : Bool :=
  match s.ownerLoad r with
  | some l => !l.frecs.isEmpty || l.ph == .faulted || l.redo
  | none => true

/-- The entries of the replay queue that a port has on a page. -/
def State.portParks (s : State) (r e page : Nat) : List Replay :=
  s.mmu.replay.filter fun q => q.reg == r && q.elem == e && q.part == s.partOf r && q.page == page

/-- Puts a store's slot into its stack's replay queue (R272, R318): a stopped task's store is dropped, and a full queue leaves the
access waiting. One that does not fault enters behind the port's stores of the page, and shares their service. -/
def State.park (s : State) (r e : Nat) (a : Access) (k : Nat) (va : BitVec 64) (record : Bool) : State :=
  let page := va.toNat / 0x10000
  let ld := ((s.region r).owner).getD 0
  if s.stopping r then
    let a' := { a with slots := a.slots.filter fun p => p.1 != k, chan := none }
    s.setElem r e (if a'.slots.isEmpty then (s.elem r e).dropAcc a.id else (s.elem r e).setAcc a')
  else if (s.mmu.replay.filter fun q => q.stack == r / 192).length < 1024 then
    let s1 := { s with mmu := { s.mmu with replay := s.mmu.replay ++ [(⟨r / 192, ld, r, e, a.id, k, s.partOf r, page, !record && (s.portParks r e page).any (·.go)⟩ : Replay)] } }
    if record && !s.unclaimed r e a then s1.parkRecord ld page (parkRec s r e a va) else s1
  else s.setAccess r e { a with ph := .replay }

/-- Whether a slot waits in the replay queue. -/
def State.queued (s : State) (r e id k : Nat) : Bool :=
  s.mmu.replay.any fun q => q.reg == r && q.elem == e && q.id == id && q.slot == k

/-- Whether an earlier store of the port to the same page is still on its way to the replay queue or past it (R272): the queue is entered in
issue order. -/
def State.storeBefore (s : State) (r e id page : Nat) : Bool :=
  (s.elem r e).port.accs.any fun b => decide (b.id < id) && parks b.opc && (b.ph == .walk || b.ph == .replay) && b.slots.any fun p =>
    p.2.toNat / 0x10000 == page && (SMap.find b.tr p.1).isNone && !s.queued r e b.id p.1

/-- Translates one slot of an access of a global port (R272, R315, R318, R239). -/
def State.walkSlot (s : State) (r e id : Nat) (p : Nat × BitVec 64) : State :=
  match (s.elem r e).acc id with
  | none => s
  | some a =>
    let page := p.2.toNat / 0x10000
    if (SMap.find a.tr p.1).isSome || s.queued r e id p.1 || a.ph == .replay then s
    else if parks a.opc && !(s.portParks r e page).isEmpty then
      (if s.storeBefore r e id page then s else s.park r e a p.1 p.2 false)
    else match s.translate (r / 192) (s.partOf r) p.2 (needOf a.opc) with
      | (.ok ph, s1) => s1.setAccess r e { a with tr := SMap.set a.tr p.1 ph }
      | (.error b, s1) =>
        if b = (0x04, 0x01) ∧ parks a.opc = true then
          (if s.storeBefore r e id page then s1 else s1.park r e a p.1 p.2 true)
        else s1.failSlot r e a p.1 p.2 b

/-- The slots of an access leave for their homes, those in another stack over the die edges (R378, R379). -/
def State.sendSlots (s : State) (r e : Nat) (a : Access) (ps : List (Nat × BitVec 64)) : State :=
  ps.foldl (fun s p => match SMap.find a.tr p.1 with
    | some q => s.cross r e a.id q false (leBytes 8 q.addr ++ if needOf a.opc == .r then [] else slotBytes false a.opc a.f a.b p.1)
    | none => s) s

/-- TRANSLATION_WALK (R315): the slots that still await a translation get it, or fault, or park. -/
def execTranslationWalk (r e id : Nat) (s : State) : Host.Outcome State Fault Refusal :=
  match (s.elem r e).acc id with
  | none => .next s
  | some a =>
    if isGmem e = true ∧ (a.ph = .walk ∨ a.ph = .replay) then
      let s0 := s.setAccess r e { a with ph := .walk }
      let s1 := a.slots.foldl (fun s p => s.walkSlot r e id p) s0
      match (s1.elem r e).acc id with
      | none => .next s1
      | some b =>
        let rest := b.slots.any fun p => (SMap.find b.tr p.1).isNone && !s1.queued r e id p.1
        .next (if b.ph = .walk ∧ rest = false then (s1.sendSlots r e b b.slots).setAccess r e { b with ph := .home } else s1)
    else .next s

/-- Performs the first slot of a list that can be performed now (R221); the flag says whether one was. -/
def State.performFirst (s : State) (r e : Nat) (a : Access) : List (Nat × BitVec 64) → State × Bool
  | [] => (s, false)
  | p :: ps =>
    match slotPlace r e a p with
    | none => s.performFirst r e a ps
    | some ph =>
      match s.performSlot r e a p.1 ph with
      | .wait => s.performFirst r e a ps
      | .bad b => (s.failSlot r e a p.1 p.2 b, true)
      | .done s1 bs lost ev => ((s1.setAccess r e (a.took (isSpad e) p.1 bs lost ev)).cross r e a.id ph true bs, true)
      | .sent s1 => (s1.setAccess r e { a with ph := .away, slots := p :: a.slots.filter fun q => q.1 != p.1 }, true)

/-- Closes an access whose slots are all performed and whose answers have come, and announces its completion where it may (R224, R225). -/
def State.settle (s : State) (r e id : Nat) : State :=
  match (s.elem r e).acc id with
  | none => s
  | some a =>
    if s.crossing r e id true then s
    else if a.ph = .done then s.setElem r e ((s.elem r e).finish a)
    else if a.slots.isEmpty = true ∧ a.ph ≠ .away then
      let a' := { a with ph := .done }
      s.setElem r e (((s.elem r e).setAcc a').finish a')
    else s

/-- Whether the condition of a FENCE holds (R236, R273): the port's earlier accesses and stream are complete, at device and domain scope the
replay queue holds nothing of the task, and at domain scope the remote homes have acknowledged. -/
def State.fenceOpen (s : State) (r e : Nat) (a : Access) : Bool :=
  (s.elem r e).port.accs.all (fun b => decide (a.id ≤ b.id))
    && ((s.elem r e).port.eng.map fun g => decide (a.id < g.born)).getD true
    && (a.f.var.toNat != 3
      || !(s.links.remote.any fun p => p.reg == r && p.elem == e && decide (p.id < a.id) && (s.region r).owner == some p.load))
    && (decide (a.f.var.toNat < 2)
      || !(s.mmu.replay.any fun q => q.stack == r / 192 && (s.region r).owner == some q.load))

/-- Whether an earlier access of a scratchpad port has not yet reached the tile (R225 rule 3). A FENCE holds no later access (R236), and
neither does an LDS or a WAITA that finds no place among the parked ones (R228). -/
def Elem.tileWaits (x : Elem) (id : Nat) : Bool :=
  x.port.accs.any fun b => decide (b.id < id) && b.ph == .home && b.opc != 0xCE
    && !((b.opc == 0xC2 || b.opc == 0xC9) && decide (8 ≤ x.parkedCount))

/-- A start reaches its channel (R237, R281). (DEDUCED, log entry 34) -/
def State.reachChannel (s : State) (r e : Nat) (a : Access) (p : Phys) : State :=
  let off := p.addr - xferBase
  if p.kind ≠ 3 ∨ off % 64 ≠ 0 then s.failSlot r e a 0 a.addr (0x04, 0x24)
  else
    let k := off / 64
    let c := SMap.get (fun _ => Channel.free) s.eng.chans k
    let ld := ((s.region r).owner).getD 0
    let of_ := fun (f : Load → Nat) => ((s.ownerLoad r).map f).getD 0
    let st : Start := ⟨a.b.get 0, r, e, a.id, ld, a.task, s.partOf r, of_ (·.queue), of_ (·.pkt), of_ (·.index), of_ (·.tile)⟩
    let s1 := { s with eng := { s.eng with chans := SMap.set s.eng.chans k { c with starts := c.starts ++ [st] } } }
    s1.setAccess r e { a with ph := .away, slots := [] }

/-- Whether an access waits for the end of the weight store's refresh (R238), and not for its word. -/
def State.refreshing (s : State) (r e : Nat) (a : Access) : Bool :=
  s.wsref && a.slots.any fun p => ((slotPlace r e a p).map fun q => q.kind == 2).getD false

/-- One advance of an access that is at its tile or home. -/
def State.advance (s : State) (r e : Nat) (a : Access) : State :=
  if a.opc = 0xCE then
    if s.fenceOpen r e a then (s.setAccess r e { a with ph := .done }).settle r e a.id else s
  else if a.opc = 0xCF ∧ a.slots.isEmpty = false then
    match SMap.find a.tr 0 with
    | some p => s.reachChannel r e a p
    | none => s
  else
    let t := s.performFirst r e a (readySlots [] a.slots)
    let s1 := if !t.2 && (a.opc == 0xC2 || a.opc == 0xC9) && !a.slots.isEmpty && decide ((s.elem r e).parkedCount < 8)
        && !s.refreshing r e a then t.1.setAccess r e { a with ph := .parked }
      else t.1
    s1.settle r e a.id

/-- Whether an access has an event of its own in which its home performs it: the global atomics and the rows (R232 to R235). -/
def homeOwn (e : Nat) (opc : Byte) : Bool := isGmem e && decide (0xCA ≤ opc.toNat ∧ opc.toNat ≤ 0xCD)

/-- ACCESS_COMPLETE (R221, R224, R225): an issued access is performed, and pushes its result or CMPL once all of it has completed
and no earlier result is due on its channel. -/
def execAccessComplete (r e id : Nat) (s : State) : Host.Outcome State Fault Refusal :=
  match (s.elem r e).acc id with
  | none => .next s
  | some a =>
    if a.ph = .done then .next (s.settle r e id)
    else if (a.ph = .home ∨ (a.ph = .walk ∧ (a.opc = 0xCE ∨ a.slots.isEmpty = true))) ∧ homeOwn e a.opc = false
        ∧ s.crossing r e id false = false ∧ !(isSpad e && (s.elem r e).tileWaits id) then
      .next (s.advance r e a)
    else .next s

/-- PARKED_WAKE (R228): a parked access is evaluated again, and performed if its condition holds: it is back at its tile or home until it
parks anew. (DEDUCED, log entry 57) -/
def execParkedWake (r e id : Nat) (s : State) : Host.Outcome State Fault Refusal :=
  match (s.elem r e).acc id with
  | some a =>
    if a.ph = .parked then
      let b := { a with ph := .home, waited := true }
      .next ((s.setAccess r e b).advance r e b)
    else .next s
  | none => .next s

/-- The accesses that wait for a word of this device (R228): each is evaluated again. -/
def State.wakes (s : State) : List Act :=
  s.regions.flatMap fun g => g.2.elems.flatMap fun e =>
    e.2.port.accs.filterMap fun a => if a.ph = .parked ∧ a.remote = false then some (.event (.parkedWake g.1 e.1 a.id)) else none

/-- Whether a row operation may act on a place (R234): the fault otherwise. -/
def rowKind (write : Bool) (p : Phys) : Option Bad :=
  if p.kind = 2 ∧ write = true then some (0x04, 0x23)
  else if p.kind ≠ 0 ∧ p.kind ≠ 4 then some (0x04, 0x24)
  else if p.kind = 0 ∧ p.rs = false then some (0x04, 0x22)
  else none

/-- HOME_ATOMIC (R232, R234): a global atomic is performed at its home; a row update is accepted there and takes its sequence
number. -/
def execHomeAtomic (r e id : Nat) (s : State) : Host.Outcome State Fault Refusal :=
  match (s.elem r e).acc id with
  | none => .next s
  | some a =>
    if s.crossing r e id false = true then .next s
    else if isGmem e = true ∧ a.ph = .home ∧ a.opc = 0xCA then .next (s.advance r e a)
    else if isGmem e = true ∧ a.ph = .home ∧ (a.opc = 0xCB ∨ a.opc = 0xCC) then
      match SMap.find a.tr 0 with
      | none => .next s
      | some p =>
        match if s.cut r p then some (0x0A, 0x01) else rowKind true p with
        | some b => .next (s.failSlot r e a 0 a.addr b)
        | none =>
          if p.kind = 4 then
            let body := a.toks.flatMap fun t => (List.range 32).map (octByte t.lanes)
            let s1 := s.request r e id p.dev 3 a.opc (requestMod a.f) p.addr
              (requestMods (s.issuer r e a) a.f body.length (a.toks.map (·.vmask))) body
            .next (s1.setAccess r e { a with ph := .away })
          else
            let u : RowUpdate := ⟨s.mem.rowseq, r, e, id, p.addr⟩
            let s1 := { s with mem := { s.mem with rowq := s.mem.rowq ++ [u], rowseq := s.mem.rowseq + 1 } }
            .next (s1.setAccess r e { a with ph := .away })
    else .next s

/-- The element of a row as a body changes it, with its events (R234). -/
def rowElem (max : Bool) (bf : Bool) (rm : RMode) (sf : Bool) (old d : Word) : Word × Byte :=
  let t : FFmt := if bf then .bf16 else .fp32
  if max then ((minMax true t old d).bits, (minMax true t old d).ev)
  else
    let r := nanFirst t [decodeF t old, decodeF t d] (roundOpt t rm sf (addE rm (decodeF t old) (decodeF t d)))
    (r.bits, r.ev)

/-- The cells and events of a row update at an address (R234): the elements whose body lane is valid. `body` gives each token's
mask and lanes. -/
def rowMerge (m : Mem) (addr : Nat) (max bf : Bool) (rm : RMode) (sf : Bool) (body : List (Byte × Oct Word)) :
    List Host.Cell × Byte :=
  let w := if bf then 2 else 4
  (body.zipIdx).foldl (fun acc t =>
    (List.range (32 / w)).foldl (fun acc i =>
      if t.1.1.getLsbD (i * w / 4) then
        let a := addr + 32 * t.2 + i * w
        let old := BitVec.ofNat 32 (m.readLe a w)
        let d := elemWord (8 * w) (t.1.2.get (i * w / 4)) (i * w % 4 / w)
        let v := rowElem max bf rm sf old d
        (acc.1 ++ cellsAt a (leBytes w v.1.toNat), acc.2 ||| v.2)
      else acc) acc) ([], 0)

/-- A row update's commit (R234, R271): the version of its slot steps once, also where no body lane was valid. -/
def Mem.commitRow (m : Mem) (addr : Nat) (cells : List Host.Cell) : Mem :=
  let m1 := m.commit cells
  if cells.isEmpty then
    { m1 with rowver := SMap.set m1.rowver (addr / 256) (SMap.get (fun _ => (0 : Half)) m1.rowver (addr / 256) + 1) }
  else m1

/-- ROW_UPDATE_APPLY (R234, R271): the home applies the accepted update `n`, the oldest of its slot, as one commit.
(DEDUCED, log entry 42) -/
def execRowUpdateApply (n : Nat) (s : State) : Host.Outcome State Fault Refusal :=
  match s.mem.rowq.find? fun u => u.n == n with
  | none => .next s
  | some u =>
    if s.mem.rowq.any fun v => decide (v.n < n) && v.addr / 256 == u.addr / 256 then .next s
    else
      let s0 := { s with mem := { s.mem with rowq := s.mem.rowq.filter fun v => v.n != n } }
      match (s.elem u.reg u.elem).acc u.id with
      | none => .next s0
      | some a =>
        if s.mem.isLost u.addr (32 * a.toks.length) then .next (s0.failSlot u.reg u.elem { a with toks := [] } 0 a.addr (0x0B, 0x02))
        else
          let x := s.issuer u.reg u.elem a
          let w := rowMerge s.mem u.addr (a.opc == 0xCC) (a.f.efmt == 2) (resolveMode x a.f.rnd) (satFloat x a.f)
            (a.toks.map fun t => (t.vmask, t.lanes))
          let s1 := { s0 with mem := s0.mem.commitRow u.addr w.1 }
          let s2 := (s1.setAccess u.reg u.elem { a with ph := .done, toks := [], ev := w.2, slots := [] }).cross u.reg u.elem u.id
            ⟨0, u.addr, 0, true⟩ true [w.2]
          .next (s2.settle u.reg u.elem u.id)

/-- The stale-read window that an address falls in (R341): the lowest enabled one that holds it, else 8. -/
def State.staleWindow (s : State) (p : BitVec 4) (va : BitVec 64) : Nat :=
  let page := va.toNat / 0x10000
  ((List.range 8).find? fun k =>
    let b := SMap.get (fun _ => (0 : BitVec 64)) s.sched.rswin (8 * p.toNat + k)
    let l := SMap.get (fun _ => (0 : BitVec 64)) s.sched.rslim (8 * p.toNat + k)
    l.getLsbD 0 && decide (b.toNat / 0x10000 ≤ page ∧ page ≤ l.toNat / 0x10000)).getD 8

/-- A stale read is counted, saturating at 2^48 − 1 (R235, R341). -/
def State.countStale (s : State) (p : BitVec 4) (va : BitVec 64) : State :=
  let k := 16 * p.toNat + s.staleWindow p va
  let n := SMap.get (fun _ => 0) s.sched.stale k
  { s with sched := { s.sched with stale := SMap.set s.sched.stale k (Nat.min (n + 1) (2 ^ 48 - 1)) } }

/-- Whether an accepted update of the slot of an address is not yet applied (R235). -/
def Mem.rowPending (m : Mem) (a : Nat) : Bool := m.rowq.any fun u => u.addr / 256 == a / 256

/-- The version of the row slot of an address (R233). -/
def Mem.version (m : Mem) (a : Nat) : Half := SMap.get (fun _ => (0 : Half)) m.rowver (a / 256)

/-- The tokens of an LDROW (R235): a lost word makes its token POISON (R227), and `.v` adds the slot's version. -/
def rowTokens (m : Mem) (f : Fields) (addr n : Nat) : List Token :=
  ((List.range (n / 32)).map fun i =>
    if m.isLost (addr + 32 * i) 32 then poisonTok f.efmt
    else dataTok f.efmt 0xFF (octOfBytes fun b => m.read (addr + 32 * i + b)))
  ++ (if f.var.getLsbD 0 then
      [dataTok 0 0x01 (Oct.ofFn fun l => if l = 0 then (m.version addr).zeroExtend 32 else 0)]
    else [])

/-- LDROW_PERFORM (R235). (DEDUCED, log entries 36, 42, 124) -/
def execLdrowPerform (r e id : Nat) (s : State) : Host.Outcome State Fault Refusal :=
  match (s.elem r e).acc id with
  | none => .next s
  | some a =>
    if isGmem e = true ∧ a.ph = .home ∧ a.opc = 0xCD ∧ s.crossing r e id false = false then
      match SMap.find a.tr 0 with
      | none => .next s
      | some p =>
        match if s.cut r p then some (0x0A, 0x01) else rowKind false p with
        | some b => .next (s.failSlot r e a 0 a.addr b)
        | none =>
          if p.kind = 4 then
            .next ((s.request r e id p.dev 1 0xCD (requestMod a.f) p.addr (requestMods (s.elem r e) a.f (rowLen a.f) []) []).setAccess
              r e { a with ph := .away })
          else
            let s1 := if s.mem.rowPending p.addr then s.countStale (s.partOf r) a.addr else s
            let s2 := (s1.setAccess r e { a with ph := .done, slots := [], toks := rowTokens s.mem a.f p.addr (rowLen a.f) }).cross r e id p true
              (s.mem.readBytes p.addr (rowLen a.f))
            .next (s2.settle r e id)
    else .next s

/- The stream engines. -/

/-- The engine of a port after a step. -/
def Elem.setEng (x : Elem) (g : Option StreamEngine) : Elem := { x with port := { x.port with eng := g } }

/-- The address of the generator's next token (R229). -/
def genAddr (x : Elem) (g : StreamEngine) : Int :=
  let u : Int := if x.field 170 = 0 then 1 else (x.field 170).toInt
  g.base.toInt + 32 * (g.r.toNat * (x.field 172).toInt + g.i.toNat * u)

/-- The generator's rows (R223, R229). -/
def genRows (x : Elem) : Nat := if x.field 171 = 0 then 1 else (x.field 171).toNat

/-- Whether the generator marks rows with stops (R223). -/
def genStops (x : Elem) : Bool := (x.field 173).getLsbD 0

/-- A generated address, or why it faults (R229, R239). -/
def genCheck (spad : Bool) (x : Elem) (g : StreamEngine) : Except (Byte × BitVec 64) (BitVec 64) :=
  let a := genAddr x g
  let va := BitVec.ofInt 64 a
  if spad then (match spadFault x a 32 with | some d => .error (d, va) | none => .ok va)
  else if va.toNat % 32 ≠ 0 then .error (0x20, va) else .ok va

/-- The fault of a stream engine at a token or address (R239), naming the slot that started it. (DEDUCED, log entry 41) -/
def State.engineFault (s : State) (r e : Nat) (g : StreamEngine) (f : FaultRec) : State := s.raise r e g.slot.toNat g.opc f

/-- Whether the stream engine of an element may advance (R26, R25, R240): the clock runs and no fault is pending. -/
def State.engineRuns (s : State) (r e : Nat) : Bool := s.clocked r && !s.stuck r e

/-- Whether a result is still due on an output (R225 rule 2). (DEDUCED, log entry 124) -/
def Elem.dueOn (x : Elem) (c : BitVec 2) : Bool := x.port.accs.any fun b => b.chan == some c && !b.cmpl

/-- Pushes a token of a stream with SEQOc (R11, R147). (DEDUCED, log entry 36) -/
def Elem.pushStream (x : Elem) (c : Nat) (t : Token) : Elem := x.push c { t with seq := x.seqOut c }

/-- The access by which a stream engine loads or stores one token or element set. -/
def engineAccess (s : State) (r e : Nat) (g : StreamEngine) (slots : List (Nat × BitVec 64)) : Access :=
  { id := 0, slot := g.slot, opc := g.opc, f := g.f, task := s.taskOf r, phase := s.phaseOf r, slots := slots, tr := [],
    addr := 0, b := Oct.all 0, c := Oct.all 0, ph := if isSpad e then .home else .walk, res := Oct.all 0, vm := 0, lost := false,
    ev := 0, chan := none, rsv := false, seq := none, toks := [], conv := g.conv, waited := false }

/-- Whether the port's access cycle is free for its stream engine (R229): no firing of the port issues an access in this cycle. -/
def State.cycleFree (s : State) (r e : Nat) : Bool := (s.elem r e).port.busy != s.cyc + 1

/-- The generator after a data token: the next token of the row, or with no stops and the row at its end the next row. -/
def genNext (x : Elem) (g : StreamEngine) : StreamEngine :=
  if !genStops x && g.i.toNat + 1 == g.n.toNat then { g with i := 0, r := g.r + 1 } else { g with i := g.i + 1 }

/-- AGSRC_PUSH (R229): the generator loads its next token, or pushes its next stop or its DONE, when the output has room and
no earlier result is due on it. -/
def execAgsrcPush (r e : Nat) (s : State) : Host.Outcome State Fault Refusal :=
  let x := s.elem r e
  match x.port.eng with
  | none => .next s
  | some g =>
    let c := g.out.toNat
    if g.kind = 1 ∧ s.engineRuns r e = true ∧ x.room c = true then
      let push := fun t g' => Host.Outcome.next (s.setElem r e ((x.pushStream c t).setEng g')).usedMark
      if g.r.toNat < genRows x ∧ (genStops x = true ∨ g.n ≠ 0) then
        if g.i.toNat < g.n.toNat then
          if x.mayPush c kData ∧ x.mayIssue 0xC5 = true ∧ s.cycleFree r e = true then
            match genCheck (isSpad e) x g with
            | .error b => .next (s.engineFault r e g (memFault b))
            | .ok va =>
              let a := { engineAccess s r e g [(0, va)] with chan := some g.out, rsv := true }
              .next (s.setElem r e (((x.reserve c kData).issue a).setEng (some (genNext x g))))
          else .next s
        else if x.dueOn g.out then .next s
        else push (portMark s.tick kStop 0) (some { g with i := 0, r := g.r + 1 })
      else if x.dueOn g.out then .next s
      else if genStops x = true ∧ g.ended = false then push (portMark s.tick kStop 1) (some { g with ended := true })
      else push (portMark s.tick kDone 0) none
    else .next s

/-- The fault of a token that a stream engine takes (R229). -/
def engineTokFault (t : Token) (k : Nat) : Option FaultRec :=
  if t.kind = kPoison then some ((FaultRec.of 0x03 0x06).token k t.seq)
  else if t.kind = kData ∨ t.kind = kStop ∨ t.kind = kDone then none
  else some ((FaultRec.of 0x03 0x08).token k t.seq)

/-- AGSNK_TAKE (R229). -/
def execAgsnkTake (r e : Nat) (s : State) : Host.Outcome State Fault Refusal :=
  let x := s.elem r e
  match x.port.eng with
  | none => .next s
  | some g =>
    match g.kind = 2 && !g.ended && s.engineRuns r e && x.mayIssue 0xC6, x.head g.ch.toNat with
    | true, some t =>
      let y := x.dequeue g.ch.toNat
      match engineTokFault t g.ch.toNat with
      | some f => .next (s.engineFault r e g f)
      | none =>
        if t.kind = kData then
          match genCheck (isSpad e) x g with
          | .error b => .next (s.engineFault r e g (memFault b))
          | .ok va =>
            let a := { engineAccess s r e g (if t.vmask = 0 then [] else [(0, va)]) with b := t.lanes, vm := t.vmask }
            .next (s.setElem r e ((y.issue a).setEng (some { g with i := g.i + 1 })))
        else if t.kind = kStop then
          .next (s.setElem r e (y.setEng (some (if genStops x ∧ t.lvl = 0 then { g with i := 0, r := g.r + 1 } else g))))
        else .next (s.setElem r e (y.setEng (some { g with ended := true })))
    | _, _ => .next s

/-- STREAM_CMPL (R224, R229, R230): the CMPL of a sink or scatter whose stream has ended and whose stores have all completed. -/
def execStreamCmpl (r e : Nat) (s : State) : Host.Outcome State Fault Refusal :=
  let x := s.elem r e
  match x.port.eng with
  | none => .next s
  | some g =>
    if (g.kind = 2 ∨ g.kind = 4) ∧ g.ended = true ∧ s.engineRuns r e = true ∧ !(x.port.accs.any fun a => a.opc == g.opc) then
      let a := if g.kind = 2 then g.base else g.first.getD 0
      .next (s.setElem r e ((x.deliver g.out.toNat none (cmplTok a g.opc 0)).setEng none))
    else .next s

/-- The addresses of a step of GATH or SCAT (R220, R230). -/
def stepAddrs (spad : Bool) (x : Elem) (g : StreamEngine) (t : Token) (m : Byte) : Except (Byte × BitVec 64) (List (Nat × BitVec 64)) :=
  slotAddrs spad x g.f (accWidth g.opc g.f) t.lanes.get (pairAt t.lanes) (partSlots spad g.opc g.f m)

/-- GATH_STEP (R230): one address token is taken and its loads issued; a STOP is forwarded and DONE ends the stream. -/
def execGathStep (r e : Nat) (s : State) : Host.Outcome State Fault Refusal :=
  let x := s.elem r e
  match x.port.eng with
  | none => .next s
  | some g =>
    let c := g.out.toNat
    match g.kind = 3 && s.engineRuns r e && s.cycleFree r e && x.mayIssue 0xC7 && x.room c, x.head g.ch.toNat with
    | true, some t =>
      let y := x.dequeue g.ch.toNat
      match engineTokFault t g.ch.toNat with
      | some f => .next (s.engineFault r e g f)
      | none =>
        if t.kind = kData then
          if x.mayPush c kData then
            match stepAddrs (isSpad e) x g t (t.vmask &&& x.laneEn) with
            | .error b => .next (s.engineFault r e g ((memFault b).token g.ch.toNat t.seq))
            | .ok ps =>
              .next (s.setElem r e ((y.reserve c kData).issue { engineAccess s r e g ps with chan := some g.out, rsv := true }))
          else .next s
        else if x.dueOn g.out then .next s
        else if t.kind = kStop then .next (s.setElem r e (y.pushStream c t))
        else .next (s.setElem r e ((y.pushStream c (portMark s.tick kDone 0)).setEng none)).usedMark
    | _, _ => .next s

/-- SCAT_STEP (R230): one address token and one data token are taken and the stores issued. -/
def execScatStep (r e : Nat) (s : State) : Host.Outcome State Fault Refusal :=
  let x := s.elem r e
  match x.port.eng with
  | none => .next s
  | some g =>
    match g.kind = 4 && !g.ended && s.engineRuns r e && s.cycleFree r e && x.mayIssue 0xC8, x.head g.ch.toNat, x.head g.ch2.toNat with
    | true, some t, some d =>
      let y := x.dequeueAll [g.ch.toNat, g.ch2.toNat]
      match engineTokFault t g.ch.toNat, engineTokFault d g.ch2.toNat with
      | some f, _ => .next (s.engineFault r e g f)
      | none, some f => .next (s.engineFault r e g f)
      | none, none =>
        if t.kind ≠ d.kind ∨ (t.kind = kStop ∧ t.lvl ≠ d.lvl) then
          .next (s.engineFault r e g ((FaultRec.of 0x03 0x04).token g.ch2.toNat d.seq))
        else if t.kind = kData then
          match stepAddrs (isSpad e) x g t t.vmask with
          | .error b => .next (s.engineFault r e g ((memFault b).token g.ch.toNat t.seq))
          | .ok ps =>
            let first := if g.first.isSome then g.first else some ((ps.head?.map (·.2)).getD 0)
            .next (s.setElem r e ((y.issue { engineAccess s r e g ps with b := d.lanes }).setEng (some { g with first := first })))
        else .next (s.setElem r e (y.setEng (some (if t.kind = kDone then { g with ended := true } else g))))
    | _, _, _ => .next s

/-- The element with an access that has its number already. -/
def Elem.addAcc (x : Elem) (a : Access) : Elem := { x with port := { x.port with accs := x.port.accs ++ [a] } }

/-- ROW_BODY_TAKE (R234): the next body token of a VRADD or VRMAX; with the last one the update leaves for its home, numbered by its
firing. -/
def execRowBodyTake (r e : Nat) (s : State) : Host.Outcome State Fault Refusal :=
  let x := s.elem r e
  match x.port.eng with
  | none => .next s
  | some g =>
    match g.kind = 5 && s.engineRuns r e && x.mayIssue g.opc, x.head g.ch.toNat with
    | true, some t =>
      let y := x.dequeue g.ch.toNat
      let bad := match engineTokFault t g.ch.toNat with
        | some f => some f
        | none =>
          if t.kind ≠ kData ∨ t.fmt ≠ g.f.efmt then some ((FaultRec.of 0x02 0x10).token g.ch.toNat t.seq)
          else none
      match bad with
      | some f => .next (s.engineFault r e g f)
      | none =>
        let body := g.body ++ [t]
        if body.length < g.n.toNat then .next (s.setElem r e (y.setEng (some { g with body := body })))
        else
          let a := { engineAccess s r e g [(0, g.base)] with
            toks := body, addr := g.base, chan := some g.out, rsv := true, seq := g.seq }
          .next (s.setElem r e ((y.addAcc { a with id := g.born }).setEng none))
    | _, _ => .next s

/-- The weight-store token at an offset of a region's block (R238), POISON where a word is lost (R227). -/
def wstoreTok (m : Mem) (r : Nat) (efmt : BitVec 3) (off : Nat) : Token :=
  if m.isLost (wstoreAddr r off) 32 then poisonTok efmt
  else dataTok efmt 0xFF (octOfBytes fun b => m.read (wstoreAddr r (off + b)))

/-- The next token of a weight-store stream (R238): even-numbered ones go to Oc and with `.x2` odd-numbered ones to Od, outside the refresh
phases and where the output has room and credit. As the completion of a load it takes the seq of the firing's address token (R224). -/
def State.wsrdToken (s : State) (r : Nat) (x : Elem) (g : StreamEngine) : Option (Elem × StreamEngine) :=
  let c := if g.f.imm.getLsbD 2 && g.i.getLsbD 0 then g.ch2.toNat else g.out.toNat
  if g.i.toNat < g.n.toNat ∧ s.wsref = false ∧ x.room c = true ∧ x.mayPush c kData = true then
    let t := wstoreTok s.mem r g.f.efmt (g.base.toNat + 32 * g.i.toNat)
    some (x.push c { t with seq := g.seq.getD (x.seqOut c) }, { g with i := g.i + 1 })
  else none

/-- WSRD_PUSH (R238): the next token of the weight-store stream in a cycle, with `.x2` the next even-numbered one and the odd-numbered one
after it, or the DONE of an output. -/
def execWsrdPush (r e : Nat) (s : State) : Host.Outcome State Fault Refusal :=
  let x := s.elem r e
  match x.port.eng with
  | none => .next s
  | some g =>
    if g.kind = 6 ∧ s.engineRuns r e = true then
      let x2 := g.f.imm.getLsbD 2
      if g.i.toNat < g.n.toNat then
        match s.wsrdToken r x g with
        | none => .next s
        | some (y, h) =>
          match if x2 && h.i.getLsbD 0 then s.wsrdToken r y h else none with
          | some (z, k) => .next (s.setElem r e (z.setEng (some k)))
          | none => .next (s.setElem r e (y.setEng (some h)))
      else
        let first := g.r == 0
        let c := if first then g.out.toNat else g.ch2.toNat
        if x.room c then
          let y := x.pushStream c (portMark s.tick kDone 0)
          .next (s.setElem r e (y.setEng (if x2 && first then some { g with r := 1 } else none))).usedMark
        else .next s
    else .next s

/-- WEIGHT_STORE_REFRESH (R238): the phase counter enters or leaves the refresh phases 0 to 63. -/
def execWeightStoreRefresh (s : State) : Host.Outcome State Fault Refusal :=
  .next { s with wsref := decide (s.cyc % 4096 < 64) }

end Sys2Proof.Machine
end

