-- ==== Sys2Proof/Machine/Row.lean ====
section
/-!
DEFINITION. The row store (R241 to R258): the row instructions, the row unit with its holding table, and the events in which row
operations are issued and act at their banks.
-/
namespace Sys2Proof.Machine

/-- The column of a row-store address (R241). -/
def colOf (pa : Nat) : Nat := pa / 2 ^ 28 % 1024
/-- The bank of a row-store address (R241). -/
def bankOf (pa : Nat) : Nat := pa / 2 ^ 22 % 64
/-- The row of a row-store address (R241). -/
def rowOf (pa : Nat) : Nat := pa / 2 ^ 10 % 4096

/-- Bank `b` of column `c`. -/
def Mem.bank (m : Mem) (c b : Nat) : Bank := SMap.get (fun _ => ⟨none, none⟩) m.banks (64 * c + b)
/-- The memory with a bank replaced. -/
def Mem.setBank (m : Mem) (c b : Nat) (k : Bank) : Mem := { m with banks := SMap.set m.banks (64 * c + b) k }

/-- The region with its row unit changed. -/
def Region.onRow (g : Region) (h : RowUnit → RowUnit) : Region := { g with row := h g.row }

/-- The state with the row unit of region `r` changed. -/
def State.onRow (s : State) (r : Nat) (h : RowUnit → RowUnit) : State := s.onRegion r fun g => g.onRow h

/-- A row instruction that enters the row unit's queue (R244, R249): its address must be aligned to 1 KiB. -/
def fireRow (opc : Byte) (f lanes : Fields) (s : State) : Host.Outcome State Fault Refusal :=
  let r := s.cur.reg
  let u := (s.region r).row
  if u.queue.length < 4 then
    let k := Look.lane lanes
    fire opc f { k with outs := k.outs ++ cplOut (s.elem r s.cur.elem) f } (fun x =>
      match laneFault s x lanes with
      | some fr => .fault fr
      | none =>
        let va := srcPair x f f.sa 0
        if va.toNat % 1024 ≠ 0 then .fault (memFault (0x20, va))
        else
          let pctl := x.field 169
          let c := pctl.extractLsb' 13 2
          let tells := pctl.getLsbD 15 && (outOf f.dst).isNone
          let y := if tells then x.reserve c.toNat kCmpl else x
          let o : RowOp := ⟨opc, f, BitVec.ofNat 4 s.cur.slot, va, s.taskOf r, addrSeq x lanes, [], s.cyc, 0,
            if tells then some c else none, false, false⟩
          .done (closeFiring y f (noResult (execLanes x lanes))) fun t => t.onRow r fun u => { u with queue := u.queue ++ [o] }) s
  else .next s

/-- ROWACT (R250). -/
def execRowact (f : Fields) (s : State) : Host.Outcome State Fault Refusal := fireRow 0xE0 f f s
/-- ROWCON to the stationary operand (R251). -/
def execRowconSt (f : Fields) (s : State) : Host.Outcome State Fault Refusal := fireRow 0xE1 f f s
/-- ROWCON to a stream (R251). -/
def execRowconStr (f : Fields) (s : State) : Host.Outcome State Fault Refusal := fireRow 0xE1 f f s
/-- ROWCON to the weight store (R251). -/
def execRowconWs (f : Fields) (s : State) : Host.Outcome State Fault Refusal := fireRow 0xE1 f f s
/-- ROWWR (R252): its body channel must not be one that an earlier ROWWR still owns (R222). -/
def execRowwr (f : Fields) (s : State) : Host.Outcome State Fault Refusal :=
  if (s.region s.cur.reg).row.ins.contains (chanIx f.sb) then .next s else fireRow 0xE2 f { f with sb := 30 } s
/-- ROWPRE (R253). -/
def execRowpre (f : Fields) (s : State) : Host.Outcome State Fault Refusal := fireRow 0xE3 f f s

/-- The activation budget of a region (R248, R341). -/
def State.actBudget (s : State) (r : Nat) : Nat :=
  let n := (SMap.get (fun _ => (131 : Byte)) s.sched.actb (s.partOf r).toNat).toNat
  if n = 0 then 1 else Nat.min n 131

/-- The ACTs that a region's budget has been charged with in the period of cycle `t` (R248): none in a period still to come, or in one that
begins in this cycle. -/
def State.actsUsed (s : State) (u : RowUnit) (t : Nat) : Nat :=
  if t / 2100 ≠ s.cyc / 2100 ∨ (s.cyc % 2100 = 0 ∧ u.period ≠ s.cyc / 2100) then 0 else u.acts

/-- An entry of the holding table as `.ent` reports it (R254). -/
def HoldEntry.word (h : HoldEntry) (bit0 : Bool) : Word :=
  BitVec.ofNat 32 ((if h.held then 2 ^ 31 else 0) + (if h.rw then 2 ^ 30 else 0) + (if h.expired then 2 ^ 29 else 0)
    + h.col * 2 ^ 19 + h.bank * 2 ^ 13 + h.row * 2 + (if bit0 then 1 else 0))

/-- The 16-bit mask of the entries for which `p` holds. (DEDUCED, log entry 59) -/
def holdMask (u : RowUnit) (p : HoldEntry → Bool) : Word := u.table.foldl (fun m e => if p e.2 then m ||| (1#32 <<< e.1) else m) 0

/-- Lane `l` of the status that ROWSTAT writes (R254). (DEDUCED, log entries 59, 62) -/
def rowStatus (s : State) (r : Nat) (f : Fields) (l : Nat) : Word :=
  let u := (s.region r).row
  match (f.var.extractLsb' 0 2).toNat with
  | 0 => match l with
    | 0 => holdMask u (·.held)
    | 1 => holdMask u (·.expired)
    | _ => 0
  | 1 => match l with
    | 0 => BitVec.ofNat 32 (s.cyc % 8192)
    | 1 => BitVec.ofNat 32 (s.actBudget r - s.actsUsed u s.cyc)
    | 2 => BitVec.ofNat 32 (2100 - s.cyc % 2100)
    | 3 => u.locks
    | 4 => u.defers
    | 5 => u.holds
    | _ => 0
  | _ => match SMap.find u.table (8 * immBits f 0 1 + l) with
    | some h => h.word false
    | none => 0

/-- ROWSTAT (R254): as a row instruction it is not ready while the queue holds four operations (R244). -/
def execRowstat (f : Fields) (s : State) : Host.Outcome State Fault Refusal :=
  let r := s.cur.reg
  let clear := fun u : RowUnit =>
    if f.var.getLsbD 2 then
      (match (f.var.extractLsb' 0 2).toNat with
        | 0 => { u with table := u.table.filter fun e => !e.2.expired }
        | 1 => { u with locks := 0, defers := 0, holds := 0 }
        | _ => u)
    else u
  if (s.region r).row.queue.length < 4 then
    fireOwn 0xE4 f (Look.lane f) (fun x m =>
      match commitRes x f 0 (Res.plain m (Oct.ofFn (rowStatus s r f)) 0) with
      | .done y _ => .done y fun t => t.onRow r clear
      | w => w) s
  else .next s

/- The row unit. -/

/-- The entry of the holding table for a bank, with its number. -/
def RowUnit.entryOf (u : RowUnit) (c b : Nat) : Option (Nat × HoldEntry) :=
  u.table.find? fun e => e.2.col == c && e.2.bank == b

/-- The operation that the row unit would issue next (R244, R258): the reopening of a marked entry, or the oldest queued one. -/
def RowUnit.next (u : RowUnit) : Option RowOp :=
  match u.table.find? fun e => e.2.reopen && !(u.issued.any fun i => i.1.opc == 0xFF && i.1.pa == e.1) with
  | some e => some ⟨0xFF, fieldsOf 0, 0, e.2.va, 0, none, [], 0, e.1, none, e.2.noted.getLsbD 0, e.2.noted.getLsbD 1⟩
  | none => u.queue.head?

/-- The column, bank and row that an operation acts on. -/
def RowUnit.place (u : RowUnit) (o : RowOp) : Nat × Nat × Nat :=
  if o.opc = 0xFF then
    match SMap.find u.table o.pa with
    | some h => (h.col, h.bank, h.row)
    | none => (0, 0, 0)
  else (colOf o.pa, bankOf o.pa, rowOf o.pa)

/-- Whether an operation is an ACT. -/
def RowOp.isAct (o : RowOp) : Bool := o.opc == 0xE0 || o.opc == 0xFF

/-- The first cycle at which the windows of R245 let an operation act at its bank, given the cycles of the bank's last ACT and of the
column's last CON or WR. -/
def windowOf (o : RowOp) (act use : Option Nat) : Nat :=
  let a := fun n => match act with | some t => t + n | none => 0
  if o.isAct then a 96
  else if o.opc = 0xE3 then a 64
  else Nat.max (a 28) (match use with | some t => t + 1 | none => 0)

/-- Whether a ROWCON waits for what it needs before it acts (R251), behind the operations `ahead` on their way: an armed quarter in matrix mode, a
free latch, or the end of the block's refresh. -/
def State.rowWaits (s : State) (r : Nat) (o : RowOp) (t : Nat) (ahead : List (RowOp × Nat)) : Bool :=
  let g := s.region r
  let sent := fun (v : BitVec 3) => (ahead.filter fun i => i.1.opc == 0xE1 && i.1.f.var == v).length
  o.opc == 0xE1 && (match o.f.var.toNat with
    | 0 => g.mode == 0 || decide (g.arr.armed.length ≤ sent 0)
    | 1 => decide (2 ≤ (g.row.latch.filter fun l => !l.2.toks.isEmpty).length + sent 1)
    | 2 => decide (t % 4096 < 64)
    | _ => false)

/-- Why an operation may not act in cycle `t` (R246), behind the operations `ahead` on their way: 0 nothing holds it, 1 a window, 2 a
refresh slot, 3 the budget, 4 another port's bank or a wait of its own (R251, R252). -/
def State.rowHold (s : State) (r : Nat) (o : RowOp) (t : Nat) (ahead : List (RowOp × Nat)) : Nat :=
  let g := s.region r
  let u := g.row
  let p := u.place o
  let acts := ahead.filter fun i => i.1.isAct
  let opens := acts.filter fun i => (u.place i.1).2.1 == p.2.1
  let uses := ahead.filter fun i => i.1.opc == 0xE1 || i.1.opc == 0xE2
  let last := fun (l : List (RowOp × Nat)) (old : Option Nat) => ((l.getLast?).map (·.2)).or old
  let mine := (u.entryOf p.1 p.2.1).isSome || !opens.isEmpty
  let window := windowOf o (last opens (s.mem.bank p.1 p.2.1).act) (last uses (SMap.find s.mem.colUse p.1))
  let paid := (acts.filter fun i => i.2 / 2100 == t / 2100).length
  if (o.isAct || mine) && decide (t < window) then 1
  else if o.isAct && decide (t % 8192 / 1024 = p.2.1 / 8 ∧ t % 1024 < 256) then 2
  else if o.isAct && decide (s.actBudget r ≤ s.actsUsed u t + paid) then 3
  else if o.isAct && (match (s.mem.bank p.1 p.2.1).holder with | some q => q != r | none => false) then 4
  else if s.rowWaits r o t ahead then 4
  else 0

/-- A counter of 32 bits that saturates (R254). -/
def satInc (w : Word) : Word := if w = 0xFFFFFFFF then w else w + 1

/-- Notes at an operation that a hold of a kind is counted: 2 a refresh deferral, 3 a budget hold. -/
def RowOp.note (o : RowOp) (why : Nat) : RowOp := if why = 2 then { o with deferred := true } else { o with budget := true }

/-- An operation that is not on its way noted where the row unit keeps it: as an entry to be reopened, or in the queue. -/
def RowUnit.noteNext (u : RowUnit) (o : RowOp) (why : Nat) : RowUnit :=
  if o.opc = 0xFF then
    { u with table := u.table.map fun e =>
        (e.1, if e.1 = o.pa then { e.2 with noted := e.2.noted ||| (if why = 2 then 1 else 2) } else e.2) }
  else { u with queue := match u.queue with | q :: qs => q.note why :: qs | [] => [] }

/-- The operation `o` noted where the row unit keeps it. -/
def RowUnit.noteAt (u : RowUnit) (o : RowOp) (why : Nat) : RowUnit :=
  match u.issued with
  | (p, due) :: rest => if p = o then { u with issued := (o.note why, due) :: rest } else u.noteNext o why
  | [] => u.noteNext o why

/-- Records that operation `o` is held in this cycle (R246, R254): each cycle of a window where it is the oldest, and a deferral or a budget hold
once. (DEDUCED, log entry 62) -/
def noteHold (o : RowOp) (oldest : Bool) (why : Nat) (u : RowUnit) : RowUnit :=
  match why with
  | 1 => if oldest then { u with locks := satInc u.locks } else u
  | 2 => if o.deferred then u else ({ u with defers := satInc u.defers }).noteAt o 2
  | 3 => if o.budget then u else ({ u with holds := satInc u.holds }).noteAt o 3
  | _ => u

/-- The permission that a row operation needs (R314). -/
def rowNeed (o : RowOp) : Need :=
  if o.opc = 0xE0 then (if o.f.var.getLsbD 0 then .rw else .r)
  else if o.opc = 0xE1 then .r
  else if o.opc = 0xE2 then .w
  else .nothing

/-- A fault of a row operation (R256): the row unit stops at it, and what its queue holds stays there until a restart or an abandon.
(DEDUCED, log entry 63) -/
def State.rowFault (s : State) (r : Nat) (o : RowOp) (f : FaultRec) : State :=
  (s.onRow r fun u => { u with stop := true, issued := [] }).raise r 146 o.slot.toNat o.opc { f.at_ o.addr with who := some o.task }

/-- Whether the load of a region has made its last commit, so that its row unit begins nothing more (R152, R257). -/
def State.rowsEnded (s : State) (r : Nat) : Bool :=
  ((s.ownerLoad r).map fun l => l.ph == .ended && l.bounds.isEmpty).getD false

/-- Whether the wait of a ROWCON can end without the elements of its region (R251): a refresh ends, and a latch empties where its output
takes a token. -/
def State.waitEnds (s : State) (r : Nat) (o : RowOp) : Bool :=
  let x := s.elem r 146
  match o.f.var.toNat with
  | 2 => true
  | 1 => (s.region r).row.latch.any fun l => match l.2.toks with
    | t :: _ => x.room l.2.ch.toNat && x.mayPush l.2.ch.toNat t.kind
    | [] => false
  | _ => false

/-- Whether the body of a ROWWR has faulted and operations before it are still to be performed (R252): the oldest of them waits for nothing that
the stopping load would have to do. (DEDUCED, log entry 63) -/
def State.draining (s : State) (r : Nat) : Bool :=
  let g := s.region r
  !g.row.stop && !s.pwr.trip && (g.rstate == 2 || g.rstate == 3) && match g.row.drain, g.row.queue with
    | some (_ + 1), o :: _ => (!s.rowWaits r o s.cyc g.row.issued || s.waitEnds r o)
        && !(o.opc == 0xE2 && decide (o.body.length < 32) && ((g.elem 146).head (chanIx o.f.sb)).isNone)
    | _, _ => false

/-- Whether the row unit of a region issues operations: its clock runs, or it still has to perform what a body fault leaves, and no row fault has
stopped it (R252, R256 to R258). -/
def State.rowRuns (s : State) (r : Nat) : Bool :=
  (s.clocked r || s.draining r) && !(s.region r).row.stop && !s.rowsEnded r && (s.region r).row.drain != some 0

/-- The cycles that a command takes to its bank (R242): one in the region's own column, and more, by a free value, in another.
(DEDUCED, log entry 60) -/
def State.bankDelay (s : State) (r c : Nat) : Nat := if c = r then 1 else 2 + s.free % 1024

/-- Moves the operation in hand on its way to its bank, behind those already under way (R244): one for another column waits until they
have acted. (DEDUCED, log entry 60) -/
def State.issueRow (s : State) (r : Nat) (o : RowOp) : State :=
  let u := (s.region r).row
  let p := u.place o
  if u.issued.any fun i => (u.place i.1).1 != p.1 then s
  else
    let due := Nat.max (s.cyc + s.bankDelay r p.1) (((u.issued.getLast?).map fun i => i.2 + 1).getD 0)
    match s.rowHold r o due u.issued with
    | 0 => (s.onRow r fun u =>
        if o.opc = 0xFF then { u with issued := u.issued ++ [(o, due)] }
        else { u with issued := u.issued ++ [(o, due)], queue := u.queue.drop 1, drain := u.drain.map (· - 1) }).bump
    | why => s.onRow r (noteHold o u.issued.isEmpty why)

/-- ROW_OP_ISSUE (R244): the oldest operation is issued once nothing holds it back; a ROWWR waits for its whole body. One that does not
translate faults once the operations before it have acted (R256). -/
def execRowOpIssue (r : Nat) (s : State) : Host.Outcome State Fault Refusal :=
  let u := (s.region r).row
  match s.rowRuns r, u.next with
  | true, some o =>
    if o.opc = 0xFF then .next (s.issueRow r o)
    else if s.cyc ≤ o.fresh ∨ (o.opc = 0xE2 ∧ o.body.length < 32) then .next s
    else match s.translate (r / 192) (s.partOf r) o.addr (rowNeed o) with
      | (.error b, s1) => if u.issued.isEmpty then .next (s1.rowFault r o (FaultRec.of b.1 b.2)) else .next s
      | (.ok p, s1) =>
        if p.kind ≠ 0 then (if u.issued.isEmpty then .next (s1.rowFault r o (FaultRec.of 0x04 0x24)) else .next s)
        else .next (s1.issueRow r { o with pa := p.addr })
  | _, _ => .next s

/-- The completion of a row operation (R249): its CMPL, now or in a later cycle. -/
def State.rowDone (s : State) (r : Nat) (o : RowOp) (due : Nat) : State :=
  match o.chan with
  | none => s
  | some c =>
    let t := cmplTok o.addr o.opc 0
    if due ≤ s.cyc then s.setElem r 146 ((s.elem r 146).deliver c.toNat o.seq t)
    else s.onRow r fun u => { u with cmpl := u.cmpl ++ [(due, c, o.seq, t)] }

/-- The address of the row that an entry holds. -/
def HoldEntry.base (h : HoldEntry) : Nat := h.col * 2 ^ 28 + h.bank * 2 ^ 22 + h.row * 2 ^ 10

/-- An ACT acts (R245, R248, R250, R255): the row is opened with the latest committed state. -/
def State.actRow (s : State) (r : Nat) (o : RowOp) (k : Nat) : State :=
  let u := (s.region r).row
  let p := u.place o
  let rw := if o.opc = 0xFF then ((SMap.find u.table k).map (·.rw)).getD false else o.f.var.getLsbD 0
  let base := p.1 * 2 ^ 28 + p.2.1 * 2 ^ 22 + p.2.2 * 2 ^ 10
  let h : HoldEntry := ⟨true, rw, false, false, p.1, p.2.1, p.2.2, o.addr, s.mem.readBytes base 1024,
    (List.range 1024).filter fun i => s.mem.lost.contains (base + i), 0⟩
  let s1 := { s with mem := s.mem.setBank p.1 p.2.1 ⟨some s.cyc, some r⟩ }
  (s1.onRow r fun u => { u with table := SMap.set u.table k h, acts := s.actsUsed u s.cyc + 1, period := s.cyc / 2100 }).rowDone r o (s.cyc + 28)

/-- Where an ACT is recorded (R250): its bank's expired entry, or the lowest free one. -/
def RowUnit.slotFor (u : RowUnit) (c b : Nat) : Option Nat :=
  match u.entryOf c b with
  | some e => some e.1
  | none => (List.range 16).find? fun k => (SMap.find u.table k).isNone

/-- A ROWCON or ROWWR uses the bus of its column (R245). -/
def State.useColumn (s : State) (c : Nat) : State := { s with mem := { s.mem with colUse := SMap.set s.mem.colUse c s.cyc } }

/-- A row lands in the oldest armed quarter (R188). -/
def landRow (data : List Byte) (g : Region) : Region :=
  match g.arr.armed with
  | [] => g
  | q :: qs =>
    let a := g.arr.putBytes (1024 * q.toNat) data
    { g with arr := { a with armed := qs, lq := a.lq ||| (1#4 <<< q.toNat) } }

/-- The tokens of a row on a stream (R251): a token with a word that is lost in the row as opened is POISON. -/
def latchTokens (efmt : BitVec 3) (h : HoldEntry) : List Token :=
  (List.range 32).map fun i =>
    if h.lost.any fun b => b / 32 == i then poisonTok efmt
    else dataTok efmt 0xFF (octOfBytes fun b => h.data.getD (32 * i + b) 0)

/-- Whether the weight store of a region may be read now (R251): its page enables a slot of the weight-store port, or the region
is in weight-driven mode. -/
def Region.readsStore (g : Region) : Bool := (g.elem 147).field 160 != 0 || g.mode == 2

/-- A ROWCON acts on the entry `h` (R251). -/
def State.consumeRow (s : State) (r : Nat) (o : RowOp) (h : HoldEntry) : State :=
  let s1 := s.useColumn h.col
  if o.f.var = 1 then
    let l : RowLatch := ⟨latchTokens o.f.efmt h, BitVec.ofNat 2 (outIx o.f), s.cyc + 1⟩
    s1.onRow r fun u =>
      let k := if (match SMap.find u.latch 0 with | some l => l.toks.isEmpty | none => true) then 0 else 1
      { u with latch := SMap.set u.latch k l }
  else if !h.lost.isEmpty then s1.rowFault r o (FaultRec.of 0x0B 0x02)
  else if o.f.var = 0 then (s1.onRegion r (landRow h.data)).rowDone r o s.cyc
  else
    let a := wstoreAddr r (1024 * immBits o.f 0 10)
    ({ s1 with mem := (s1.mem.writeBytes a h.data).mend a 1024 }).rowDone r o s.cyc

/-- The bytes that a ROWWR writes (R252): those of the valid lanes of its body. -/
def rowWrite (o : RowOp) (base : Nat) : List Host.Cell :=
  (o.body.zipIdx).flatMap fun t =>
    (cellsAt (base + 32 * t.2) ((List.range 32).map (octByte t.1.lanes))).filter fun c => t.1.vmask.getLsbD ((c.1 - base - 32 * t.2) / 4)

/-- A ROWWR acts on the entry `h` at number `k` (R252, R255): the words that it replaces whole are whole again in the open row. -/
def State.writeRow (s : State) (r : Nat) (o : RowOp) (k : Nat) (h : HoldEntry) : State :=
  let cells := rowWrite o h.base
  let s1 := (s.useColumn h.col).immediate 0 cells
  let data := h.data.mapIdx fun i b => ((cells.find? fun c => c.1 == h.base + i).map (·.2)).getD b
  let lost := h.lost.filter fun i => !((List.range 8).all fun j => cells.any fun c => c.1 == h.base + 8 * (i / 8) + j)
  (s1.onRow r fun u => { u with table := SMap.set u.table k { h with data := data, lost := lost } }).rowDone r o s.cyc

/-- A bank is closed (R253). -/
def State.closeBank (s : State) (c b : Nat) : State := { s with mem := s.mem.setBank c b { s.mem.bank c b with holder := none } }

/-- The element without a reserved entry of each of the listed channels (R224). -/
def Elem.unreserve (x : Elem) (cs : List Nat) : Elem :=
  cs.foldl (fun x c => { x with resv := SMap.set x.resv c (x.reserved c - 1) }) x

/-- The outputs in which operations that a row unit still keeps have an entry for their CMPL (R224). -/
def RowUnit.promised (u : RowUnit) : List Nat :=
  ((u.queue ++ u.issued.map (·.1)).filterMap fun o => o.chan.map BitVec.toNat) ++ u.cmpl.map fun c => c.2.1.toNat

/-- Closes every held bank of a region (R257, R258). With `reopen` the entries are marked for reopening, and otherwise the row unit is
emptied but for its counters: what its queue holds is discarded, with the entries reserved for it. -/
def State.closeRows (s : State) (r : Nat) (reopen : Bool) : State :=
  let u := (s.region r).row
  let s1 := u.table.foldl (fun s e => if e.2.held then s.closeBank e.2.col e.2.bank else s) s
  if reopen then
    s1.onRow r fun u =>
      { u with table := u.table.map fun e => (e.1, if e.2.held then { e.2 with held := false, reopen := true } else e.2) }
  else
    let s2 := if u.promised.isEmpty then s1 else s1.setElem r 146 ((s1.elem r 146).unreserve u.promised)
    s2.onRow r fun u => { RowUnit.empty with
      locks := u.locks, defers := u.defers, holds := u.holds, expiries := u.expiries, acts := u.acts, period := u.period }

/-- An operation acts at its bank, with the hazards of R246 in the order of the table. -/
def State.actAtBank (s : State) (r : Nat) (o : RowOp) : State :=
  let g := s.region r
  let u := g.row
  let p := u.place o
  let e := u.entryOf p.1 p.2.1
  let fault := fun d => s.rowFault r o (FaultRec.of 0x05 d)
  if o.opc = 0xFF then s.actRow r o o.pa
  else if o.opc = 0xE3 then
    let s1 := match e with
      | some (k, h) => (if h.held then s.closeBank p.1 p.2.1 else s).onRow r fun u => { u with table := SMap.del u.table k }
      | none => s
    s1.rowDone r o s.cyc
  else if o.opc = 0xE0 then
    if (e.map (·.2.held)).getD false then fault 0x02
    else match u.slotFor p.1 p.2.1 with
      | none => fault 0x06
      | some k => s.actRow r o k
  else match e with
    | none => fault 0x01
    | some (k, h) =>
      let late := match (s.mem.bank h.col h.bank).act with | some a => h.held && decide (a + 65536 ≤ s.cyc) | none => false
      if h.expired || late then fault 0x03
      else if (o.opc = 0xE2 ∧ h.rw = false) ∨ (o.opc = 0xE1 ∧ o.f.var = 2 ∧ g.readsStore = true) then fault 0x04
      else if h.row ≠ p.2.2 then fault 0x05
      else if o.opc = 0xE2 then s.writeRow r o k h
      else s.consumeRow r o h

/-- The completions that are due are pushed (R250). -/
def State.rowCompletions (s : State) (r : Nat) : State :=
  let u := (s.region r).row
  let due := u.cmpl.filter fun c => decide (c.1 ≤ s.cyc)
  let x := due.foldl (fun x c => x.deliver c.2.1.toNat c.2.2.1 c.2.2.2) (s.elem r 146)
  if due.isEmpty then s
  else (s.setElem r 146 x).onRow r fun u => { u with cmpl := u.cmpl.filter fun c => decide (s.cyc < c.1) }

/-- Whether the windows allow every held bank of a region to be closed (R245, R257, R258): 64 cycles have passed since its ACT. -/
def State.mayClose (s : State) (r : Nat) : Bool :=
  (s.region r).row.table.all fun e => !e.2.held || match (s.mem.bank e.2.col e.2.bank).act with
    | some a => decide (a + 64 ≤ s.cyc)
    | none => true

/-- The row unit of a region that has stopped for pre-emption closes its banks once its issued operations have completed, as their windows
allow (R258). One that a fault has stopped keeps them (R256). -/
def State.restRows (s : State) (r : Nat) : State :=
  let g := s.region r
  let rests := decide (4 ≤ g.rstate.toNat ∧ g.rstate.toNat ≤ 6) && ((s.ownerLoad r).map fun l => l.ph != .faulted).getD true
  if rests = true ∧ g.row.issued.isEmpty = true ∧ (g.row.table.any fun e => e.2.held) = true ∧ s.mayClose r = true then
    s.closeRows r true
  else s

/-- ROW_BANK_ACT (R245, R246): the first issued operation acts at its bank when it reaches it, unless a hazard holds it there. -/
def execRowBankAct (r : Nat) (s : State) : Host.Outcome State Fault Refusal :=
  let s1 := s.rowCompletions r
  match (s1.region r).row.issued with
  | [] => .next (s1.restRows r)
  | (o, due) :: rest =>
    if s1.cyc < due then .next s1
    else if s1.rowHold r o s1.cyc [] ≠ 0 then .next (s1.onRow r (noteHold o true (s1.rowHold r o s1.cyc [])))
    else .next (((s1.onRow r fun u => { u with issued := rest }).actAtBank r o).restRows r)

/-- ROW_OPEN_EXPIRY (R245): the controller closes a row that has been open for 65,536 cycles, and its entry is expired, which is counted.
(DESIGN CHOICE, log entry 148) -/
def execRowOpenExpiry (r h : Nat) (s : State) : Host.Outcome State Fault Refusal :=
  match SMap.find (s.region r).row.table h with
  | none => .next s
  | some e =>
    let a := (s.mem.bank e.col e.bank).act
    if e.held && (match a with | some t => decide (t + 65536 ≤ s.cyc) | none => false) then
      .next ((s.closeBank e.col e.bank).onRow r fun u =>
        { u with table := SMap.set u.table h { e with held := false, expired := true }, expiries := satInc u.expiries })
    else .next s

/-- ROW_REFRESH_SLOT (R247): a refresh slot of bank group `g` begins or ends. The phase is read from the fabric-cycle counter,
and only an ACT in the slot is affected, so the event itself changes no state. -/
def execRowRefreshSlot (_g : Nat) (s : State) : Host.Outcome State Fault Refusal := .next s

/-- ACT_BUDGET_PERIOD (R248): every region's count of ACTs begins anew. -/
def execActBudgetPeriod (s : State) : Host.Outcome State Fault Refusal :=
  .next { s with regions := s.regions.map fun p => (p.1, p.2.onRow fun u => { u with acts := 0, period := s.cyc / 2100 }) }

/-- ROWCON_STR_PUSH (R251): the next token of latch `h`, as room and demand allow. -/
def execRowconStrPush (r h : Nat) (s : State) : Host.Outcome State Fault Refusal :=
  match SMap.find (s.region r).row.latch h with
  | none => .next s
  | some l =>
    let x := s.elem r 146
    match l.toks with
    | [] => .next s
    | t :: ts =>
      if ((s.clocked r = true ∧ s.stuck r 146 = false) ∨ s.draining r = true) ∧ l.from_ ≤ s.cyc ∧ x.room l.ch.toNat = true ∧ x.mayPush l.ch.toNat t.kind = true then
        .next ((s.setElem r 146 (x.pushStream l.ch.toNat t)).onRow r fun u =>
          { u with latch := SMap.set u.latch h { l with toks := ts } })
      else .next s

/-- One ROWWR of the queue takes its next body token (R252). Where its body faults, the unit goes on with what stands before it. -/
def State.takeRowBody (s : State) (r : Nat) (n : Nat) : State :=
  let u := (s.region r).row
  match if (u.drain.map fun k => decide (k ≤ n)).getD false then none else u.queue[n]? with
  | none => s
  | some o =>
    let c := chanIx o.f.sb
    match decide (o.opc = 0xE2 ∧ o.body.length < 32 ∧ o.fresh < s.cyc), (s.elem r 146).head c with
    | true, some t =>
      if t.kind = kData then
        (s.setElem r 146 ((s.elem r 146).dequeue c)).onRow r fun u =>
          { u with queue := u.queue.set n { o with body := o.body ++ [t] } }
      else
        let d : Byte := if t.kind = kPoison then 0x06 else if t.kind = kStop ∨ t.kind = kDone then 0x04 else 0x08
        (s.onRow r fun u => { u with drain := some n }).raise r 146 o.slot.toNat o.opc
          { ((FaultRec.of 0x03 d).token c t.seq).at_ o.addr with who := some o.task }
    | _, _ => s

/-- ROWWR_BODY_TAKE (R252): each ROWWR that still takes its body takes its next token. Those before one whose body has faulted go on. -/
def execRowwrBodyTake (r : Nat) (s : State) : Host.Outcome State Fault Refusal :=
  if (s.clocked r = true ∧ s.stuck r 146 = false) ∨ s.draining r = true then
    .next ((List.range 4).foldl (fun s n => s.takeRowBody r n) s)
  else .next s

end Sys2Proof.Machine
end

