-- ==== Sys2Proof/Machine/Window.lean ====
section
/-!
DEFINITION. The state window: every item of the state map, its words, and how they are read and written (R29 to R31, R145, R166,
R211, R240, R258, R371).
-/
namespace Sys2Proof.Machine

/-- The number of words that an item has on element `e`; 0 where the item is undefined there. -/
def itemWords (e i : Nat) : Nat :=
  let comp := decide (e < 128)
  let lead := e == 0
  let serv := decide (128 ≤ e ∧ e < 148)
  let row := e == 146
  let on := fun (b : Bool) (n : Nat) => if b then n else 0
  if i < 0x04 then 8
  else if i < 0x10 then on comp 8
  else if i < 0x14 then on comp 8
  else if 0x20 ≤ i ∧ i < 0x40 then 1
  else if i = 0x40 then 8
  else if 0x50 ≤ i ∧ i < 0x70 then 10
  else if i = 0x70 ∨ i = 0x71 then 4
  else if i = 0x72 then on comp 5
  else if i = 0x73 ∨ i = 0x74 then on comp 4
  else if i = 0x75 then on lead 11
  else if 0x76 ≤ i ∧ i < 0x7F then on serv 8
  else if i = 0x7F then on serv 2
  else if i = 0x80 ∨ i = 0x81 then 1
  else if i = 0x82 then on row 16
  else if 0x83 ≤ i ∧ i < 0x87 then on row 4
  else if i = 0x87 then on row 8
  else if i = 0x88 then on lead 6
  else if 0x89 ≤ i ∧ i < 0x8E then on lead 16
  else if 0x90 ≤ i ∧ i < 0xD0 then on comp 16
  else if i = 0xD0 then on comp 8
  else if 0xE0 ≤ i ∧ i < 0xE8 then on comp 8
  else if 0x100 ≤ i ∧ i < 0x110 then 4
  else if i = 0x110 then 16
  else if i = 0x111 then 8
  else if 0x200 ≤ i ∧ i < 0x280 then on lead 8
  else if 0x280 ≤ i ∧ i < 0x290 then on lead 4
  else if 0x300 ≤ i ∧ i < 0x340 then on row 8
  else if 0x340 ≤ i ∧ i < 0x360 then on row 9
  else if 0x370 ≤ i ∧ i < 0x378 then on serv 9
  else 0

/-- The low or high half of a 64-bit value. -/
def half64 (v : BitVec 64) (hi : Bool) : Word := if hi then v.extractLsb' 32 32 else v.extractLsb' 0 32

/-- A 64-bit value with one half replaced. -/
def put64 (v : BitVec 64) (hi : Bool) (w : Word) : BitVec 64 :=
  if hi then w ++ v.extractLsb' 0 32 else v.extractLsb' 32 32 ++ w

/-- Eight lanes with one replaced. -/
def octSet {α : Type} (x : Oct α) (k : Nat) (v : α) : Oct α := Oct.ofFn fun l => if l = k then v else x.get l

/-- Bits [i+n−1:i] of a word as a number. -/
def wordBits (w : Word) (i n : Nat) : Nat := w.toNat / 2 ^ i % 2 ^ n

/- Channels. -/

/-- Word `w` of entry `k` of a channel's queue (R29): lanes, header, occupancy. -/
def queueWord (q : List Token) (k w : Nat) : Word :=
  if w = 9 then BitVec.ofNat 32 q.length
  else match q[k]? with
    | none => 0
    | some t => if w < 8 then t.lanes.get w else tokHeader t

/-- A token with word `w` of its entry replaced. -/
def tokPut (t : Token) (w : Nat) (v : Word) : Token :=
  if w < 8 then { t with lanes := octSet t.lanes w v } else tokOfHeader v t.lanes

/-- The queue and the spare entries after a write of word `w` of entry `k` (R29). `key` numbers the channel's spare entries.
(DESIGN CHOICE, log entry 129) -/
def queueWrite (q : List Token) (spare : SMap Token) (key k w : Nat) (v : Word) : List Token × SMap Token :=
  let blank := markTok 0 0
  let at_ := fun j => SMap.get (fun _ => blank) spare (key + j)
  if w = 9 then
    let n := Nat.min (v.toNat % 8) 4
    let grown := (List.range n).map fun j => q.getD j (at_ j)
    let kept := (q.zipIdx).foldl (fun sp p => if n ≤ p.2 then SMap.set sp (key + p.2) p.1 else sp) spare
    (grown, kept)
  else match q[k]? with
    | some t => (q.set k (tokPut t w v), spare)
    | none => (q, SMap.set spare (key + k) (tokPut (at_ k) w v))

/- Ports. -/

/-- The parked accesses of a port, in order of issue. -/
def Port.parked (p : Port) : List Access := p.accs.filter Access.isParked

/-- The finished accesses of a port that still hold a token, in push order (R240). -/
def Port.pending (p : Port) : List Access := p.accs.filter fun a => a.ph == .done && a.chan.isSome

/-- A blank access in a phase. -/
def Access.blank (id : Nat) (ph : AccPhase) : Access :=
  { id := id, slot := 0, opc := 0, f := fieldsOf 0, task := 0, phase := 0, slots := [(0, 0)], tr := [], addr := 0, b := Oct.all 0,
    c := Oct.all 0, ph := ph, res := Oct.all 0, vm := 0, lost := false, ev := 0, chan := if ph = .done then some 0 else none,
    rsv := true, seq := none, toks := if ph = .done then [markTok 0 0] else [], conv := 0, waited := false }

/-- The port with a blank access appended. -/
def Port.addBlank (p : Port) (ph : AccPhase) : Port :=
  { p with nextId := p.nextId + 1, accs := p.accs ++ [Access.blank p.nextId ph] }

/-- The port with an access changed. -/
def Port.change (p : Port) (id : Nat) (h : Access → Access) : Port :=
  { p with accs := p.accs.map fun a => if a.id = id then h a else a }

/-- Word `w` of a parked access (R240). -/
def parkedWord (a : Access) (w : Nat) : Word :=
  match w with
  | 0 => BitVec.ofNat 32 (a.opc.toNat + 256)
  | 1 => half64 ((a.slots.head?.map (·.2)).getD a.addr) false
  | 2 => half64 ((a.slots.head?.map (·.2)).getD a.addr) true
  | 3 => a.b.get 0
  | 4 => a.b.get 1
  | 5 => a.c.get 0
  | 6 => a.c.get 1
  | _ => ((a.chan.map (·.toNat)).getD 0 : Nat)

/-- A parked access with word `w` replaced (R240). -/
def parkedPut (a : Access) (w : Nat) (v : Word) : Access :=
  let first := (a.slots.head?.map (·.2)).getD a.addr
  let addr := fun x => { a with slots := [((a.slots.head?.map (·.1)).getD 0, x)] ++ a.slots.drop 1, addr := x }
  match w with
  | 0 => { a with opc := v.extractLsb' 0 8 }
  | 1 => addr (put64 first false v)
  | 2 => addr (put64 first true v)
  | 3 => { a with b := octSet a.b 0 v }
  | 4 => { a with b := octSet a.b 1 v }
  | 5 => { a with c := octSet a.c 0 v }
  | 6 => { a with c := octSet a.c 1 v }
  | _ => { a with chan := some (v.extractLsb' 0 2) }

/-- A write of word `w` of parked access `k` (R240): valid makes it or removes it. -/
def Port.writeParked (p : Port) (k w : Nat) (v : Word) : Port :=
  match p.parked[k]? with
  | some a =>
    if w = 0 ∧ v.getLsbD 8 = false then { p with accs := p.accs.filter fun b => b.id != a.id }
    else p.change a.id fun a => parkedPut a w v
  | none =>
    if w = 0 ∧ v.getLsbD 8 = true then
      let q := p.addBlank .parked
      q.change p.nextId fun a => parkedPut a 0 v
    else p

/-- The tokens that a finished access has still to push: one, or those of a row (R224, R235). -/
def Access.pendToks (a : Access) : List Token := if a.toks.isEmpty || a.rsv then [a.toks.headD a.token] else a.toks

/-- The tokens pending at a port, in push order, each with its access and its place among that access's tokens (R240). -/
def Port.pendToks (p : Port) : List (Access × Nat × Token) :=
  p.pending.flatMap fun a => a.pendToks.mapIdx fun i t => (a, i, t)

/-- A finished access of which the first `k` pending tokens stay. -/
def Access.keepToks (a : Access) (k : Nat) : Option Access :=
  if k = 0 then none else if a.toks.isEmpty || a.rsv then some a else some { a with toks := a.toks.take k }

/-- A write of the count of pending tokens (R240). -/
def Port.writePending (p : Port) (n : Nat) : Port :=
  let ts := p.pendToks
  if n ≤ ts.length then
    let left := fun (a : Access) => ((ts.take n).filter fun t => t.1.id == a.id).length
    { p with accs := p.accs.filterMap fun a => if a.ph == .done && a.chan.isSome then a.keepToks (left a) else some a }
  else (List.range (n - ts.length)).foldl (fun p _ => p.addBlank .done) p

/-- A write of word `w` of pending token `k` (R240). -/
def Port.putPending (p : Port) (k w : Nat) (v : Word) : Port :=
  match p.pendToks[k]? with
  | some t => p.change t.1.id fun a => { a with toks := a.pendToks.modify t.2.1 fun u => tokPut u w v }
  | none => p

/-- Word `w` of the stream engine (R240). -/
def engineWord (g : Option StreamEngine) (w : Nat) : Word :=
  match g with
  | none => 0
  | some g =>
    let out := g.kind == 1 || g.kind == 6
    match w with
    | 0 => BitVec.ofNat 32 (g.kind.toNat + (if out then g.out else g.ch).toNat * 8
        + (if g.kind = 3 then g.out else g.ch2).toNat * 32)
    | 1 => g.i
    | 2 => g.r
    | 3 => g.n
    | 4 => half64 g.base false
    | 5 => half64 g.base true
    | 6 => BitVec.ofNat 32 g.body.length
    | _ => 0

/-- The stream engine after a write of word `w` (R240). -/
def enginePut (g : Option StreamEngine) (w : Nat) (v : Word) : Option StreamEngine :=
  let h := g.getD { kind := 0, slot := 0, opc := 0, f := fieldsOf 0, ch := 0, ch2 := 0, out := 0, i := 0, r := 0, n := 0,
                    base := 0, first := none, body := [], ended := false, seq := none, born := 0, conv := 0 }
  match w with
  | 0 =>
    let k := v.extractLsb' 0 3
    let c := v.extractLsb' 3 2
    let d := v.extractLsb' 5 2
    if k = 0 then none
    else if k = 1 ∨ k = 6 then some { h with kind := k, out := c, ch2 := d }
    else if k = 3 then some { h with kind := k, ch := c, out := d }
    else some { h with kind := k, ch := c, ch2 := d }
  | 1 => g.map fun g => { g with i := v }
  | 2 => g.map fun g => { g with r := v }
  | 3 => g.map fun g => { g with n := v }
  | 4 => g.map fun g => { g with base := put64 g.base false v }
  | 5 => g.map fun g => { g with base := put64 g.base true v }
  | 6 => g.map fun g => { g with body := (List.range (v.toNat % 16)).map fun i => g.body.getD i (markTok 0 0) }
  | _ => g

/- The row unit. -/

/-- Word `w` of queued row operation (R258). -/
def rowOpWord (o : RowOp) (w : Nat) : Word :=
  match w with
  | 0 => BitVec.ofNat 32 (o.opc.toNat + o.f.var.toNat * 2 ^ 8
      + (if o.opc = 0xE2 then chanIx o.f.sb else outIx o.f) * 2 ^ 11 + 2 ^ 15)
  | 1 => half64 o.addr false
  | 2 => half64 o.addr true
  | _ => BitVec.ofNat 32 (o.f.imm.toNat + o.body.length * 2 ^ 16)

/-- A queued row operation with word `w` replaced (R258). -/
def rowOpPut (o : RowOp) (w : Nat) (v : Word) : RowOp :=
  match w with
  | 0 =>
    let c := v.extractLsb' 11 2
    let f : Fields := { o.f with var := v.extractLsb' 8 3 }
    let opc : Byte := v.extractLsb' 0 8
    { o with
      opc := opc
      f := if opc = 0xE2 then { f with sb := (4 : BitVec 4) ++ c, dst := 30 }
           else if opc = 0xE1 ∧ f.var.toNat = 1 then { f with dst := (5 : BitVec 4) ++ c } else { f with dst := 30 } }
  | 1 => { o with addr := put64 o.addr false v }
  | 2 => { o with addr := put64 o.addr true v }
  | _ => { o with
    f := { o.f with imm := v.extractLsb' 0 16 }
    body := (List.range (Nat.min (wordBits v 16 6) 32)).map fun i => o.body.getD i (markTok 0 0) }

/-- The holding-table entry that a word describes (R254, R258). -/
def holdOfWord (old : Option HoldEntry) (v : Word) : Option HoldEntry :=
  if v.getLsbD 31 || v.getLsbD 29 || v.getLsbD 0 then
    some ⟨v.getLsbD 31, v.getLsbD 30, v.getLsbD 29, v.getLsbD 0, wordBits v 19 10, wordBits v 13 6, wordBits v 1 12,
      (old.map (·.va)).getD 0, (old.map (·.data)).getD [], (old.map (·.lost)).getD [], (old.map (·.noted)).getD 0⟩
  else none

/-- Word `w` of item `i` of the row unit (R258). -/
def rowItem (u : RowUnit) (i w : Nat) : Word :=
  if i = 0x82 then (match SMap.find u.table w with | some h => h.word h.reopen | none => 0)
  else if i < 0x87 then (match u.queue[i - 0x83]? with | some o => rowOpWord o w | none => 0)
  else if i = 0x87 then
    match w with
    | 0 => u.locks
    | 1 => u.defers
    | 2 => u.holds
    | 3 => BitVec.ofNat 32 u.acts
    | 4 => (match SMap.find u.latch 0 with | some l => BitVec.ofNat 32 (32 - l.toks.length + (if l.toks.isEmpty then 0 else 64)) | none => 0)
    | 5 => (match SMap.find u.latch 1 with | some l => BitVec.ofNat 32 (32 - l.toks.length + (if l.toks.isEmpty then 0 else 64)) | none => 0)
    | _ => 0
  else if i < 0x340 then
    match SMap.find u.latch ((i - 0x300) / 32) with
    | some l =>
      let n := 32 - l.toks.length
      if n ≤ i % 32 then (match l.toks[i % 32 - n]? with | some t => t.lanes.get w | none => 0) else 0
    | none => 0
  else match (u.queue.find? fun o => o.opc == 0xE2).bind fun o => o.body[i - 0x340]? with
    | some t => if w < 8 then t.lanes.get w else t.vmask.zeroExtend 32
    | none => 0

/-- The latch with `left` tokens to come. -/
def latchLeft (l : Option RowLatch) (left : Nat) : RowLatch :=
  let toks := (l.map (·.toks)).getD []
  ⟨(List.range left).map fun i => toks.getD (toks.length - left + i) (dataTok 0 0xFF (Oct.all 0)), (l.map (·.ch)).getD 0, 0⟩

/-- The row unit after a write of word `w` of item `i` (R258). -/
def rowPut (u : RowUnit) (i w : Nat) (v : Word) : RowUnit :=
  if i = 0x82 then
    match holdOfWord (SMap.find u.table w) v with
    | some h => { u with table := SMap.set u.table w h }
    | none => { u with table := SMap.del u.table w }
  else if i < 0x87 then
    let k := i - 0x83
    let blank : RowOp := ⟨0, fieldsOf 0, 0, 0, 0, none, [], 0, 0, none, false, false⟩
    match u.queue[k]? with
    | some o =>
      if w = 0 ∧ v.getLsbD 15 = false then { u with queue := u.queue.eraseIdx k } else { u with queue := u.queue.set k (rowOpPut o w v) }
    | none => if w = 0 ∧ v.getLsbD 15 = true then { u with queue := u.queue ++ [rowOpPut blank 0 v] } else u
  else if i = 0x87 then
    let latch := fun k =>
      if v.getLsbD 6 then { u with latch := SMap.set u.latch k (latchLeft (SMap.find u.latch k) (32 - wordBits v 0 6)) }
      else { u with latch := SMap.del u.latch k }
    match w with
    | 0 => { u with locks := v }
    | 1 => { u with defers := v }
    | 2 => { u with holds := v }
    | 3 => { u with acts := v.toNat }
    | 4 => latch 0
    | 5 => latch 1
    | _ => u
  else if i < 0x340 then
    let k := (i - 0x300) / 32
    match SMap.find u.latch k with
    | some l =>
      let n := 32 - l.toks.length
      if n ≤ i % 32 then
        { u with latch := SMap.set u.latch k { l with
            toks := l.toks.modify (i % 32 - n) fun t => { t with lanes := octSet t.lanes w v } } }
      else u
    | none => u
  else
    match u.queue.findIdx? fun o => o.opc == 0xE2 with
    | some k => { u with queue := u.queue.modify k fun o => { o with
        body := o.body.modify (i - 0x340) fun t =>
          if w < 8 then { t with lanes := octSet t.lanes w v } else { t with vmask := v.extractLsb' 0 8 } } }
    | none => u

/- The array and the sequencer. -/

/-- Word `w` of item 0x075 (R211). -/
def arrayWord (a : MArray) (w : Nat) : Word :=
  if w = 0 then BitVec.ofNat 32 (a.op.toNat + (if a.thr then 8 else 0) + a.lq.toNat * 16 + a.prog % 4096 * 2 ^ 16)
  else if w = 1 then
    BitVec.ofNat 32 ((a.armed.zipIdx).foldl (fun n p => n + p.1.toNat * 2 ^ (3 + 2 * p.2)) a.armed.length)
  else if w < 10 then a.desc.getD (w - 2) 0
  else BitVec.ofNat 32 (a.opc.toNat + a.efmt.toNat * 2 ^ 8 + (if a.var0 then 2 ^ 11 else 0) + a.imm.toNat * 2 ^ 12)

/-- The tokens that each south column of an ACCRD has pushed, of `n` in all (R207, R211): the columns take turns. (DEDUCED, log entry 134) -/
def drainCounts (n : Nat) : SMap Nat :=
  (List.range 16).foldl (fun m c => SMap.set m c (n / 16 + (if c < n % 16 then 1 else 0))) []

/-- The array after a write of word `w` of item 0x075 (R211). -/
def arrayPut (a : MArray) (w : Nat) (v : Word) : MArray :=
  if w = 0 then
    let n := wordBits v 16 12
    { a with op := v.extractLsb' 0 3, thr := v.getLsbD 3, lq := v.extractLsb' 4 4, prog := n,
             cnt := if v.extractLsb' 0 3 = 3 then drainCounts n else [] }
  else if w = 1 then
    { a with armed := (List.range (Nat.min (wordBits v 0 3) 4)).map fun k => BitVec.ofNat 2 (wordBits v (3 + 2 * k) 2) }
  else if w < 10 then { a with desc := (List.range 8).map fun k => if k + 2 = w then v else a.desc.getD k 0 }
  else { a with opc := v.extractLsb' 0 8, efmt := v.extractLsb' 8 3, var0 := v.getLsbD 11, imm := v.extractLsb' 12 16 }

/-- The four bytes of a word in a byte map from `k` upward. -/
def bytesWord (m : SMap Byte) (k : Nat) : Word :=
  let b := fun i => SMap.get (fun _ => (0 : Byte)) m (k + i)
  b 3 ++ b 2 ++ b 1 ++ b 0

/-- A byte map with the four bytes of a word from `k` upward. -/
def bytesPut (m : SMap Byte) (k : Nat) (v : Word) : SMap Byte :=
  (List.range 4).foldl (fun m i => SMap.set m (k + i) (v.extractLsb' (8 * i) 8)) m

/-- Word `w` of item `i` of the sequencer (R371). -/
def seqWord (q : Sequencer) (i w : Nat) : Word :=
  if i = 0x88 then
    match w with
    | 0 => BitVec.ofNat 32 ((if q.active then 1 else 0) + (if q.parked then 2 else 0) + q.stack.length % 16 * 4 + q.prog % 65536 * 256)
    | 1 => half64 q.addr false
    | 2 => half64 q.addr true
    | 3 => (match q.out with | some c => BitVec.ofNat 32 (c.toNat + 8) | none => 0)
    | _ => 0
  else if i = 0x89 then half64 (q.stack.reverse.getD (w / 2) 0) (w % 2 == 1)
  else bytesWord q.table (64 * (i - 0x8A) + 4 * w)

/-- The sequencer with its current block at an address (R371): another block than the one in hand is fetched. -/
def Sequencer.atBlock (q : Sequencer) (a : BitVec 64) : Sequencer :=
  if a = q.addr then q else { q with addr := a, phase := .fetch, hdr := none, pay := [] }

/-- The sequencer after a write of word `w` of item `i` (R371). The stack is kept with its top first. -/
def seqPut (q : Sequencer) (i w : Nat) (v : Word) : Sequencer :=
  if i = 0x88 then
    match w with
    | 0 =>
      let n := Nat.min (wordBits v 2 4) 8
      let st := q.stack.reverse
      { q with active := v.getLsbD 0, parked := v.getLsbD 1, prog := wordBits v 8 16,
               stack := ((List.range n).map fun k => st.getD k 0).reverse }
    | 1 => q.atBlock (put64 q.addr false v)
    | 2 => q.atBlock (put64 q.addr true v)
    | 3 => { q with out := if v.getLsbD 3 then some (v.extractLsb' 0 2) else none }
    | _ => q
  else if i = 0x89 then
    let k := w / 2
    { q with stack := (q.stack.reverse.modify k fun x => put64 x (w % 2 == 1) v).reverse }
  else { q with table := bytesPut q.table (64 * (i - 0x8A) + 4 * w) v }

/- The window. -/

/-- The element status word (R30). -/
def statusWord (g : Region) (x : Elem) : Word :=
  BitVec.ofNat 32 (g.mode.toNat * 2 ^ 7 + (if x.halted then 2 ^ 6 else 0) + (if x.faulted then 2 ^ 5 else 0)
    + (if x.fvalid then 2 ^ 4 else 0) + x.last.toNat)

/-- A configuration word as the window shows it (R5, R29): reserved bits, and words that the element kind lacks, read as zero.
(DESIGN CHOICE, log entry 129) -/
def shownField (e : Nat) (x : Elem) (fld : Nat) : Half := x.field fld &&& fieldMask e fld

/-- The element after a window write of configuration field `fld` (R5, R29): writes of reserved bits are dropped.
(DESIGN CHOICE, log entry 129) -/
def putField (e : Nat) (x : Elem) (fld : Nat) (v : Half) : Elem :=
  if fieldExists e fld then x.setField fld (v &&& fieldMask e fld) else x

/-- The 32-bit word that a select value names, for reading; words that an item does not define read as zero (R29). -/
def winRead (g : Region) (e : Nat) (sel : Half) : Word :=
  let x := g.elem e
  let i := sel.toNat / 16
  let w := sel.toNat % 16
  if itemWords e i ≤ w then 0
  else if i < 0x10 then (x.reg i).get w
  else if i < 0x14 then (x.reg (24 + i - 0x10)).get w
  else if i < 0x40 then x.const (i - 0x20)
  else if i = 0x40 then (x.preds.get w).zeroExtend 32
  else if i < 0x60 then queueWord (x.inQ ((i - 0x50) / 4)) (i % 4) w
  else if i < 0x70 then queueWord (x.outQ ((i - 0x60) / 4)) (i % 4) w
  else if i = 0x70 then (x.seqOut w).zeroExtend 32
  else if i = 0x71 then x.credit w
  else if i = 0x72 then
    match w with
    | 0 => BitVec.ofNat 32 (x.su.phase.toNat + (if x.su.flag then 32 else 0))
    | 1 => x.su.spos
    | 2 => x.su.srem
    | 3 => x.su.aux0
    | _ => x.su.aux1
  else if i = 0x73 then
    let t := x.tracker w
    BitVec.ofNat 32 (t.st.toNat + t.lvl.toNat * 4 + (if t.lcv then 32 else 0))
  else if i = 0x74 then (x.tracker w).lc
  else if i = 0x75 then arrayWord g.arr w
  else if i = 0x76 then engineWord x.port.eng w
  else if i < 0x7F then (match x.port.parked[i - 0x77]? with | some a => parkedWord a w | none => 0)
  else if i = 0x7F then
    if w = 0 then BitVec.ofNat 32 (x.port.pendToks.length % 16)
    else BitVec.ofNat 32 (((x.port.pendToks.map (·.1)).zipIdx).foldl (fun n p => n + ((p.1.chan.map (·.toNat)).getD 0) * 4 ^ p.2) 0)
  else if i = 0x80 then x.sflags.zeroExtend 32
  else if i = 0x81 then statusWord g x
  else if i < 0x88 then rowItem g.row i w
  else if i < 0x8E then
    seqWord (match g.seq.hdr with | some (.drain _) => { g.seq with prog := g.arr.prog } | _ => g.seq) i w
  else if i < 0xD0 then
    match (x.sel.get (w % 8))[i - 0x90]? with
    | some p => if w < 8 then p.1 else p.2
    | none => 0
  else if i = 0xD0 then BitVec.ofNat 32 (x.sel.get w).length
  else if i < 0xE8 then (SMap.get (fun _ => Oct.all 0) x.su.block (i - 0xE0)).get w
  else if i < 0x110 then
    let k := 8 * (i - 0x100) + 2 * w
    shownField e x (k + 1) ++ shownField e x k
  else if i = 0x110 then x.field (129 + 2 * w) ++ x.field (128 + 2 * w)
  else if i = 0x111 then shownField e x (161 + 2 * w) ++ shownField e x (160 + 2 * w)
  else if i < 0x280 then (g.arr.token (i - 0x200)).get w
  else if i < 0x290 then bytesWord g.arr.scales (16 * (i - 0x280) + 4 * w)
  else if i < 0x360 then rowItem g.row i w
  else match x.port.pendToks[i - 0x370]? with
    | some t => if w < 8 then t.2.2.lanes.get w else tokHeader t.2.2
    | none => 0

/-- The element after a write of one of its own words (R29, R145, R166, R240). A length of a select list above 64 is taken as 64.
(DESIGN CHOICE, log entry 129) -/
def elemPut (e : Nat) (x : Elem) (i w : Nat) (v : Word) : Elem :=
  let lo := v.extractLsb' 0 16
  let hi := v.extractLsb' 16 16
  if i < 0x10 then x.setReg i (octSet (x.reg i) w v)
  else if i < 0x14 then x.setReg (24 + i - 0x10) (octSet (x.reg (24 + i - 0x10)) w v)
  else if i < 0x40 then x.setConst (i - 0x20) v
  else if i = 0x40 then { x with preds := octSet x.preds w (v.extractLsb' 0 8) }
  else if i < 0x60 then
    let c := (i - 0x50) / 4
    let q := queueWrite (x.inQ c) x.spare (4 * c) (i % 4) w v
    { x with inq := SMap.set x.inq c q.1, spare := q.2 }
  else if i < 0x70 then
    let c := (i - 0x60) / 4
    let q := queueWrite (x.outQ c) x.spare (16 + 4 * c) (i % 4) w v
    { x with outq := SMap.set x.outq c q.1, spare := q.2 }
  else if i = 0x70 then { x with seqo := SMap.set x.seqo w (v.extractLsb' 0 12) }
  else if i = 0x71 then { x with dcred := SMap.set x.dcred w v }
  else if i = 0x72 then
    match w with
    | 0 => { x with su := { x.su with phase := v.extractLsb' 0 5, flag := v.getLsbD 5 } }
    | 1 => { x with su := { x.su with spos := v } }
    | 2 => { x with su := { x.su with srem := v } }
    | 3 => { x with su := { x.su with aux0 := v } }
    | _ => { x with su := { x.su with aux1 := v } }
  else if i = 0x73 then
    { x with trk := SMap.set x.trk w { x.tracker w with st := v.extractLsb' 0 2, lvl := v.extractLsb' 2 3, lcv := v.getLsbD 5 } }
  else if i = 0x74 then { x with trk := SMap.set x.trk w { x.tracker w with lc := v } }
  else if i = 0x76 then { x with port := { x.port with eng := enginePut x.port.eng w v } }
  else if i < 0x7F then { x with port := x.port.writeParked (i - 0x77) w v }
  else if i = 0x7F then
    if w = 0 then { x with port := x.port.writePending (Nat.min (wordBits v 0 4) 8) }
    else { x with port := ((x.port.pendToks.map (·.1)).zipIdx).foldl (fun p a =>
        p.change a.1.id fun b => { b with chan := some (BitVec.ofNat 2 (wordBits v (2 * a.2) 2)) }) x.port }
  else if i = 0x80 then { x with sflags := x.sflags &&& ~~~(v.extractLsb' 0 8) }
  else if i = 0x81 then x
  else if i < 0xD0 then
    let l := w % 8
    let q := x.sel.get l
    let put := fun (p : Word × Word) => if w < 8 then (v, p.2) else (p.1, v)
    match q[i - 0x90]? with
    | some p => { x with sel := octSet x.sel l (q.set (i - 0x90) (put p)) }
    | none =>
      let k := 64 * l + (i - 0x90)
      { x with spareSel := SMap.set x.spareSel k (put (SMap.get (fun _ => (0, 0)) x.spareSel k)) }
  else if i = 0xD0 then
    let q := x.sel.get w
    let n := Nat.min (wordBits v 0 7) 64
    { x with sel := octSet x.sel w ((List.range n).map fun k => q.getD k (SMap.get (fun _ => (0, 0)) x.spareSel (64 * w + k))) }
  else if i < 0xE8 then
    let row := SMap.get (fun _ => Oct.all 0) x.su.block (i - 0xE0)
    { x with su := { x.su with block := SMap.set x.su.block (i - 0xE0) (octSet row w v) } }
  else if i < 0x110 then
    let f := 8 * (i - 0x100) + 2 * w
    putField e (putField e x f lo) (f + 1) hi
  else if i = 0x110 then putField e (putField e x (128 + 2 * w) lo) (129 + 2 * w) hi
  else if i = 0x111 then putField e (putField e x (160 + 2 * w) lo) (161 + 2 * w) hi
  else { x with port := x.port.putPending (i - 0x370) w v }

/-- The region after a write of the word that a select value names, or nothing where the word is undefined (R29, R31). -/
def winWrite (g : Region) (e : Nat) (sel : Half) (v : Word) : Option Region :=
  let i := sel.toNat / 16
  let w := sel.toNat % 16
  if itemWords e i ≤ w then none
  else if i = 0x75 then some { g with arr := arrayPut g.arr w v }
  else if (0x82 ≤ i ∧ i < 0x88) ∨ (0x300 ≤ i ∧ i < 0x360) then some { g with row := rowPut g.row i w v }
  else if 0x88 ≤ i ∧ i < 0x8E then some { g with seq := seqPut g.seq i w v }
  else if 0x200 ≤ i ∧ i < 0x280 then
    some { g with arr := { g.arr with store := SMap.set g.arr.store (i - 0x200) (octSet (g.arr.token (i - 0x200)) w v) } }
  else if 0x280 ≤ i ∧ i < 0x290 then some { g with arr := { g.arr with scales := bytesPut g.arr.scales (16 * (i - 0x280) + 4 * w) v } }
  else some (g.setElem e (elemPut e (g.elem e) i w v))

end Sys2Proof.Machine
end

