-- ==== Sys2Proof/Machine/ConfigStream.lean ====
section
/-!
DEFINITION. The configuration stream: the fifteen commands, the recording and stamping of patterns, the page CRC, the verification
of a page as a whole, and window streams (R60 to R68, R397).
-/
namespace Sys2Proof.Machine

/-- One byte of CRC-16 (R65). -/
def crc16Byte (c : Half) (b : Byte) : Half :=
  (List.range 8).foldl (fun c _ => if c.getLsbD 15 then (c <<< 1) ^^^ 0x1021 else c <<< 1) (c ^^^ (b ++ (0 : Byte)))

/-- The running CRC after a command: its bytes from [31:24] down (R65). -/
def crc16Word (c : Half) (w : Word) : Half :=
  [24, 16, 8, 0].foldl (fun c i => crc16Byte c (w.extractLsb' i 8)) c

/-- A violation: its position in the stream, its detail, and the unit and the slot or field that its record names (R64).
(DEDUCED, log entry 96) -/
abbrev Violation := Nat × Byte × Nat × Nat

/-- The stream of region `r`. -/
def State.cfg (s : State) (r : Nat) : CfgStream := (s.region r).cfg

/-- The state with the stream of region `r` replaced. -/
def State.setCfg (s : State) (r : Nat) (c : CfgStream) : State := s.onRegion r fun g => { g with cfg := c }

/-- Takes a fault of a configuration stream (R64, R66, R324, R397): the host window's goes to the device ring, the loader's stops
the load that owns the region. -/
def State.cfgRaise (s : State) (f : FaultRec) : State :=
  let r := s.cur.reg
  let f1 := { f with notask := true, reg := r }
  match s.cur.host, (s.region r).owner with
  | false, some ld => s.stopFault ld f1
  | _, _ => s.deviceRecord f1

/-- A CFG record of a page (R64). -/
def cfgRec (det : Byte) (page unit slot : Nat) : FaultRec :=
  { FaultRec.of 0x01 det with page := page, unit := unit, slot := slot }

/-- The stream with a command counted (R64, R65). -/
def CfgStream.count (c : CfgStream) (w : Word) : CfgStream := { c with pos := c.pos + 1, crc := crc16Word c.crc w }

/-- The stream with a violation noted at its position: the first one stands (R64). -/
def CfgStream.note (c : CfgStream) (det : Byte) (unit slot : Nat) : CfgStream :=
  match c.bad with
  | some _ => c
  | .none => { c with bad := some (c.pos, det, unit, slot) }

/-- The stream with a violation noted where `b` holds. -/
def CfgStream.noteIf (c : CfgStream) (b : Bool) (det : Byte) (unit slot : Nat) : CfgStream :=
  if b then c.note det unit slot else c

/-- A command of an open page: it is counted, and acts on the stream. Outside a page it is a violation of the grammar (R63), and
the stream's other state stands; after a refused window command the rest of the stream is discarded (R66). -/
def pageCommand (w : Word) (act : CfgStream → CfgStream) (s : State) : Host.Outcome State Fault Refusal :=
  let r := s.cur.reg
  let c := s.cfg r
  if c.dead then .next s
  else if c.isOpen then .next (s.setCfg r (act (c.count w)))
  else .next (s.cfgRaise (cfgRec 0x04 0 0xFFFF 0xFFFF))

/-- A page-control command: inside a pattern only PATEND may stand (R63). -/
def pageControl (fld : Byte) (v : Half) (act : CfgStream → CfgStream) (s : State) : Host.Outcome State Fault Refusal :=
  pageCommand (cmdWord 0xFF fld v) (fun c => if c.recd.isSome then c.note 0x04 0xFFFF fld.toNat else act c) s

/-- The configuration of a region's elements as a page with KEEP starts from it (R63). -/
def Region.config (g : Region) : SMap (SMap Half) := g.elems.map fun p => (p.1, p.2.conf)

/-- PGBEGIN (R63): a page opens with a shadow that is the region's configuration under KEEP and the reset configuration
otherwise. A page that had committed into the region's shadow and still waits is dropped. (DESIGN CHOICE, log entry 130) -/
def execPgbegin (v : Half) (s : State) : Host.Outcome State Fault Refusal :=
  let r := s.cur.reg
  let c := s.cfg r
  if c.dead then .next s
  else if c.isOpen then pageCommand (cmdWord 0xFF 0x00 v) (fun c => c.note 0x04 0xFFFF 0) s
  else
    let keep := v.getLsbD 15
    let c1 : CfgStream :=
      { CfgStream.none with
        isOpen := true
        keep := keep
        page := v.extractLsb' 0 12
        shadow := if keep then (s.region r).config else [] }
    .next (s.setCfg r ((c1.count (cmdWord 0xFF 0x00 v)).noteIf (v &&& 0x7000 != 0) 0x03 0xFFFF 0))

/-- PATBEGIN (R63). -/
def execPatbegin (v : Half) (s : State) : Host.Outcome State Fault Refusal :=
  pageControl 0x01 v (fun c =>
    let k := v.extractLsb' 0 4
    { c.noteIf (v &&& 0xFFF0 != 0) 0x03 0xFFFF 1 with recd := some k, pats := SMap.set c.pats k.toNat [] }) s

/-- PATEND (R63). -/
def execPatend (v : Half) (s : State) : Host.Outcome State Fault Refusal :=
  pageCommand (cmdWord 0xFF 0x02 v) (fun c =>
    let c1 := c.noteIf (v != 0) 0x03 0xFFFF 2
    if c1.recd.isSome then { c1 with recd := none } else c1.note 0x04 0xFFFF 2) s

/-- CRC (R65): the check covers every command of the page before this one. -/
def execCrc (v : Half) (s : State) : Host.Outcome State Fault Refusal :=
  let before := (s.cfg s.cur.reg).crc
  pageControl 0x03 v (fun c => c.noteIf (v != before) 0x05 0xFFFF 3) s

/-- SUCCLO (R63). -/
def execSucclo (v : Half) (s : State) : Host.Outcome State Fault Refusal :=
  pageControl 0x04 v (fun c => if c.lo.isSome then c.note 0x04 0xFFFF 4 else { c with lo := some v }) s

/-- SUCCHI (R63). -/
def execSucchi (v : Half) (s : State) : Host.Outcome State Fault Refusal :=
  pageControl 0x05 v (fun c => if c.hi.isSome then c.note 0x04 0xFFFF 5 else { c with hi := some v }) s

/-- The stream with field `fld` of element `e` written in the shadow (R63). -/
def CfgStream.put (c : CfgStream) (e fld : Nat) (v : Half) : CfgStream :=
  { c with
    shadow := SMap.set c.shadow e (SMap.set (SMap.get (fun _ => []) c.shadow e) fld v)
    ord := SMap.set c.ord (256 * e + fld) c.pos }

/-- The stream with a recorded pattern applied to one element (R63). -/
def CfgStream.stamp (c : CfgStream) (e : Nat) (p : List (Byte × Half)) : CfgStream :=
  p.foldl (fun c w => c.put e w.1.toNat w.2) c

/-- The elements of a rectangle, ascending. -/
def rectElems (row col rows cols : Nat) : List Nat :=
  (List.range rows).flatMap fun i => (List.range cols).map fun j => 16 * (row + i) + (col + j)

/-- RECT (R63): the pattern's commands apply to every compute element of the rectangle. -/
def execRect (k : BitVec 4) (v : Half) (s : State) : Host.Outcome State Fault Refusal :=
  let fld : Byte := (1 : BitVec 4) ++ k
  pageControl fld v (fun c =>
    let row := (v.extractLsb' 13 3).toNat
    let col := (v.extractLsb' 9 4).toNat
    let rows := (v.extractLsb' 6 3).toNat + 1
    let cols := (v.extractLsb' 2 4).toNat + 1
    let c1 := c.noteIf (v &&& 3 != 0) 0x03 0xFFFF fld.toNat
    match SMap.find c1.pats k.toNat with
    | none => c1.note 0x0C 0xFFFF fld.toNat
    | some p =>
      if 8 < row + rows ∨ 16 < col + cols then c1.note 0x0C 0xFFFF fld.toNat
      else (rectElems row col rows cols).foldl (fun c e => c.stamp e p) c1) s

/-- ELEMENT FIELD WRITE (R61, R63): in a pattern it is recorded, otherwise it writes the shadow. (DEDUCED, log entry 16) -/
def execElementFieldWrite (e fld : Byte) (v : Half) (s : State) : Host.Outcome State Fault Refusal :=
  pageCommand (cmdWord e fld v) (fun c =>
    match c.recd with
    | some k =>
      let p := SMap.get (fun _ => []) c.pats k.toNat
      if e != 0 || !fieldExists 0 fld.toNat then c.note 0x0C e.toNat fld.toNat
      else if 256 ≤ p.length then c.note 0x10 e.toNat fld.toNat
      else { c with pats := SMap.set c.pats k.toNat (p ++ [(fld, v)]) }
    | none => if fieldExists e.toNat fld.toNat then c.put e.toNat fld.toNat v else c.note 0x02 e.toNat fld.toNat) s

/- Verification at PGEND (R64). -/

/-- The enabled slots of a configuration, with their opcodes and fields (R16). -/
def enabledSlots (w : SMap Half) : List (Nat × Byte × Fields) :=
  let en := SMap.get confDefault w 160
  ((List.range 16).filter fun n => en.getLsbD n).map fun n => (n, slotOpc (slotOf w n), fieldsOf (slotOf w n))

/-- The violations of one element's configuration (R64), each at the latest write of the fields it lies in; `pos` gives the
position of a field's last write. Field 175, which is reserved on a global port, has no value there that no command wrote (R223). -/
def elemViolations (e : Nat) (conf : SMap Half) (pos : Nat → Nat) : List Violation :=
  let w := SMap.get (fun k => if k = 175 ∧ 144 ≤ e then 0 else confDefault k) conf
  let slots := enabledSlots conf
  let at_ := fun (fs : List Nat) => (fs.map pos).foldl Nat.max 0
  let slotAt := fun (n : Nat) => at_ (160 :: (List.range 8).map (8 * n + ·))
  let conv := w 162
  let side := (conv.extractLsb' 8 2).toNat
  let own := slots.filterMap fun t => (slotBad e t.2.1 t.2.2).map fun d => (slotAt t.1, d, e, t.1)
  let ctrl := slots.filterMap fun t =>
    if conv.getLsbD 10 && condNames t.2.2 kCtrl side then some (Nat.max (slotAt t.1) (pos 162), (0x0B : Byte), e, t.1) else none
  let users := slots.filter fun t => usesUnit t.2.1 t.2.2
  let sooner := fun (u t : Nat) => decide (slotAt u < slotAt t) || (slotAt u == slotAt t && decide (u < t))
  let unit := (users.filter fun t => users.any fun u => sooner u.1 t.1).map fun t => (slotAt t.1, (0x08 : Byte), e, t.1)
  let words := ((List.range 48).map (128 + ·)).filterMap fun f =>
    if wordBad e w f then some (at_ (wordGroup f), (0x0B : Byte), e, f) else none
  let tags := slots.flatMap fun t => (slotChans t.2.1 t.2.2).filterMap fun k =>
    let f := 163 + k / 2
    if (w f).extractLsb' (8 * (k % 2)) 8 == 0 then some (Nat.max (pos f) (slotAt t.1), (0x0B : Byte), e, f) else none
  let reqs := slots.flatMap fun t => [0, 1, 2, 3].filterMap fun k =>
    if (w (144 + k)).getLsbD 14 && condNames t.2.2 kReq k then some (Nat.max (pos (144 + k)) (slotAt t.1), (0x0B : Byte), e, 144 + k)
    else none
  let pctl := w 169
  let cmpl := slots.filterMap fun t =>
    if decide (128 ≤ e) && pctl.getLsbD 15 && isAccess t.2.1 && !t.2.2.room.getLsbD (pctl.extractLsb' 13 2).toNat then
      some (Nat.max (pos 169) (slotAt t.1), (0x0B : Byte), e, 169)
    else none
  own ++ ctrl ++ unit ++ words ++ tags ++ reqs ++ cmpl

/-- The conversion bindings of a page: the element, its field and the node and channel it names (R62). -/
def bindings (sh : SMap (SMap Half)) : List (Nat × Nat × Nat × Nat) :=
  sh.flatMap fun p => if 128 ≤ p.1 then [] else [165, 166, 167, 168].filterMap fun f =>
    let v := SMap.get confDefault p.2 f
    if v.getLsbD 15 then some (p.1, f, (v &&& 0x7F).toNat, (v.extractLsb' 13 2).toNat) else none

/-- Two elements' bindings that name one channel of one node (R62): the violation is that of the binding written last. -/
def bindViolations (sh : SMap (SMap Half)) (pos : Nat → Nat → Nat) : List Violation :=
  let bs := bindings sh
  bs.filterMap fun b =>
    if bs.any fun d => d.1 != b.1 && d.2.2 == b.2.2 && decide (pos d.1 d.2.1 ≤ pos b.1 b.2.1) then
      some (pos b.1 b.2.1, (0x0B : Byte), b.1, b.2.1)
    else none

/-- The violation that stands first in the stream; of those at one position, the first listed. -/
def firstViolation : List Violation → Option Violation
  | [] => none
  | v :: vs =>
    match firstViolation vs with
    | some u => if u.1 < v.1 then some u else some v
    | none => some v

/-- The violations of a page at its PGEND (R64): those met in the stream, a lone half of a successor (R63), and those of the
shadow. -/
def CfgStream.violations (c : CfgStream) : List Violation :=
  let pos := fun e f => SMap.get (fun _ => 0) c.ord (256 * e + f)
  c.bad.toList ++ (if c.lo.isSome != c.hi.isSome then [(c.pos, (0x04 : Byte), 0xFFFF, 6)] else [])
    ++ c.shadow.flatMap (fun p => elemViolations p.1 p.2 (pos p.1)) ++ bindViolations c.shadow pos

/-- PGEND (R64): the page is verified as a whole. It commits into the region's shadow, or one CFG fault is raised and the shadow is
discarded. Patterns are discarded either way (R63). (DEDUCED, log entry 96) -/
def execPgend (v : Half) (s : State) : Host.Outcome State Fault Refusal :=
  let r := s.cur.reg
  let c0 := s.cfg r
  if c0.dead then .next s
  else if !c0.isOpen then .next (s.cfgRaise (cfgRec 0x04 0 0xFFFF 0xFFFF))
  else
    let c := ((c0.count (cmdWord 0xFF 0x06 v)).noteIf (v != 0) 0x03 0xFFFF 6).noteIf c0.recd.isSome 0x04 0xFFFF 6
    let shut := { c with isOpen := false, shadow := [], pats := [], recd := none, ord := [], bad := none }
    match firstViolation c.violations with
    | some b => .next ((s.setCfg r shut).cfgRaise (cfgRec b.2.1 c.page.toNat b.2.2.1 b.2.2.2))
    | none => .next (s.setCfg r { shut with done := some c.shadow, doneKeep := c.keep, donePage := c.page })

/-- A stream of the host that ends inside a page (R63): the page fails with its first violation, which is this one where its commands held
none, and its shadow is discarded. A page that the loader was reading is dropped with its load. -/
def State.endStream (s : State) (r : Nat) : State :=
  let c := s.cfg r
  if c.isOpen then
    let b := c.bad.getD (c.pos, 0x04, 0xFFFF, 0xFFFF)
    (s.setCfg r CfgStream.none).deviceRecord
      { cfgRec b.2.1 c.page.toNat b.2.2.1 b.2.2.2 with notask := true, reg := r }
  else s

/- Window streams (R66). -/

/-- Whether a region is running, which refuses its state window (R31). -/
def Region.running (g : Region) : Bool := g.rstate == 2 || g.rstate == 3

/-- A refused window command (R66): the fault, and the commands after it in the stream are discarded. -/
def State.refuseWindow (s : State) (e : Byte) (fld : Nat) : State :=
  let r := s.cur.reg
  (s.setCfg r { s.cfg r with dead := true }).cfgRaise (cfgRec 0x0D 0 e.toNat fld)

/-- A window command: none stands inside a page (R63), and none acts after a refused one (R66). Inside a pattern its detail is 0x0C, that of a
command which no pattern may record. (DESIGN CHOICE, log entry 131) -/
def windowCommand (e fld : Byte) (v : Half) (act : State → State) (s : State) : Host.Outcome State Fault Refusal :=
  let c := s.cfg s.cur.reg
  if c.isOpen then
    pageCommand (cmdWord e fld v) (fun c => c.note (if c.recd.isSome then 0x0C else 0x04) e.toNat fld.toNat) s
  else if c.dead then .next s
  else .next (act s)

/-- The state with the element of the region in hand changed. -/
def State.onElem (s : State) (e : Nat) (h : Elem → Elem) : State :=
  s.onRegion s.cur.reg fun g => g.setElem e (h (g.elem e))

/-- WSEL (R66). -/
def execWsel (e : Byte) (v : Half) (s : State) : Host.Outcome State Fault Refusal :=
  windowCommand e 240 v (fun s => s.onElem e.toNat fun x => { x with wsel := v }) s

/-- WLO (R66). -/
def execWlo (e : Byte) (v : Half) (s : State) : Host.Outcome State Fault Refusal :=
  windowCommand e 241 v (fun s => s.onElem e.toNat fun x => { x with wlo := v }) s

/-- WHI (R66). -/
def execWhi (e : Byte) (v : Half) (s : State) : Host.Outcome State Fault Refusal :=
  windowCommand e 242 v (fun s => s.onElem e.toNat fun x => { x with whi := v }) s

/-- A WCTL operation (R31, R66): refused with reserved bits set, or on an element of a running region. With INC, WSEL increments
after it. -/
def wctl (e : Byte) (v : Half) (access : Bool) (act : State → Option State) (s : State) : Host.Outcome State Fault Refusal :=
  windowCommand e 243 v (fun s =>
    if v &&& 0xFFF8 != 0 || (access && (s.region s.cur.reg).running) then s.refuseWindow e 243
    else match act s with
      | none => s.refuseWindow e 243
      | some s1 => if v.getLsbD 2 then s1.onElem e.toNat fun x => { x with wsel := x.wsel + 1 } else s1) s

/-- WCTL with OP 0 (R66): nothing is read or written, so R31 does not refuse it on a running region, nor WSEL, WLO and WHI.
(DEDUCED, log entry 132) -/
def execWctlNone (e : Byte) (v : Half) (s : State) : Host.Outcome State Fault Refusal := wctl e v false some s

/-- WCTL with OP 1 (R66): {WHI, WLO} is written to the selected word. -/
def execWctlWrite (e : Byte) (v : Half) (s : State) : Host.Outcome State Fault Refusal :=
  wctl e v true (fun s =>
    let g := s.region s.cur.reg
    let x := g.elem e.toNat
    (winWrite g e.toNat x.wsel (x.whi ++ x.wlo)).map (s.setRegion s.cur.reg)) s

/-- WCTL with OP 2 (R66): the selected word is returned to the agent that issued the stream. The host's words queue in HCW_RD
(R397). -/
def execWctlRead (e : Byte) (v : Half) (s : State) : Host.Outcome State Fault Refusal :=
  wctl e v true (fun s =>
    let g := s.region s.cur.reg
    let w := winRead g e.toNat (g.elem e.toNat).wsel
    some (if s.cur.host then { s with hub := { s.hub with hcwRd := s.hub.hcwRd ++ [w] } } else s)) s

/-- A command that decodes to nothing (R60, R61, R63, R66): a violation of the page with the detail of its kind, or a refused
command outside one. In a pattern a reserved element or field keeps its own detail. (DESIGN CHOICE, log entry 131) -/
def State.badCommand (s : State) (b : DecodeError) (w : Word) : State :=
  let r := s.cur.reg
  let c := s.cfg r
  let e := (w.extractLsb' 24 8).toNat
  let fld := (w.extractLsb' 16 8).toNat
  let det : Byte := match b with
    | .reservedElement _ => 0x01
    | .reservedField _ => 0x02
    | .reservedPageCommand _ => 0x03
    | _ => if c.isOpen then 0x04 else 0x0D
  let unit := if e = 0xFF then 0xFFFF else e
  if c.dead then s
  else if c.isOpen then s.setCfg r ((c.count w).note det unit fld)
  else if det = 0x0D then s.refuseWindow (w.extractLsb' 24 8) fld
  else s.cfgRaise (cfgRec det 0 unit fld)

end Sys2Proof.Machine
end

