-- ==== Sys2Proof/Machine/Fabric.lean ====
section
/-!
DEFINITION. The fabric: the departure and arrival of tokens on routes, conversion nodes, the side port and the absorption of
demand (R12, R13, R46, R47, R138 to R147, R378 to R380).
-/
namespace Sys2Proof.Machine

/-- A destination of a route: page-relative or local, with its element and channel (R140). -/
structure Dest where
  far  : Bool
  page : Nat
  elem : Nat
  chan : Nat
deriving DecidableEq, Repr

/-- A destination from its two route words, if it exists (R140). -/
def destOf (a b : Half) : Option Dest :=
  if a.getLsbD 15 then some ⟨a.getLsbD 14, (b.extractLsb' 0 10).toNat, (a.extractLsb' 0 8).toNat, (a.extractLsb' 8 2).toNat⟩
  else none

/-- The destinations of Oc (R140). -/
def Elem.route (x : Elem) (c : Nat) : List Dest :=
  (destOf (x.field (128 + 4 * c)) (x.field (129 + 4 * c))).toList ++ (destOf (x.field (130 + 4 * c)) (x.field (131 + 4 * c))).toList

/-- The region that holds page `p` of the load of region `r`. -/
def State.pageRegion (s : State) (r p : Nat) : Option Nat := (s.ownerLoad r).bind fun l => (l.pages[p]?).bind (·.reg)

/-- The region that a destination lies in. -/
def State.destRegion (s : State) (r : Nat) (d : Dest) : Option Nat := if d.far then s.pageRegion r d.page else some r

/-- The tokens in transit toward input channel Ik. -/
def Elem.transit (x : Elem) (k : Nat) : List Transit := SMap.get (fun _ => []) x.rbuf k

/-- The element with a token in transit toward Ik. (DEDUCED, log entry 114) -/
def Elem.send (x : Elem) (k : Nat) (t : Transit) : Elem := { x with rbuf := SMap.set x.rbuf k (x.transit k ++ [t]) }

/-- The latency of a route in cycles (R142): 1 in a region, 2 + d between regions of a stack. Between stacks the edges' flits
carry the token (R381). (DESIGN CHOICE, log entry 135) -/
def routeLatency (r q : Nat) : Nat :=
  if r = q then 1
  else
    let d := fun (a b : Nat) => if a ≤ b then b - a else a - b
    2 + d (r % 192 / 16) (q % 192 / 16) + d (r % 16) (q % 16)

/-- The key of a route's stream on an edge (R379). -/
def routeKey (b r e c : Nat) : Nat := ((b * 768 + r) * 148 + e) * 4 + c

/-- The edge of such a key. -/
def keyEdge (k : Nat) : Nat := k / (768 * 148 * 4)

/-- The stream that the route of output Oc of element `e` of region `r` has on an edge (R379). -/
def State.streamOf (s : State) (b r e c : Nat) : Byte :=
  BitVec.ofNat 8 (((s.ownerLoad r).map fun l => SMap.get (fun _ => 16) l.streams (routeKey b r e c)).getD 16)

/-- The region, element and output whose route leads to a channel (R140). -/
def State.feeder (s : State) (q e k : Nat) : Option (Nat × Nat × Nat) :=
  match s.ownerLoad q with
  | none => none
  | some l =>
    ((l.pages.filterMap (·.reg)).flatMap fun r => (s.region r).elems.flatMap fun y => (List.range 4).map fun c => (r, y.1, c)).find?
      fun p => ((s.elem p.1 p.2.1).route p.2.2).any fun d => s.destRegion p.1 d == some q && d.elem == e && d.chan == k

/-- Sends a token of output Oc of element `e` of region `r` to a channel of region `q`: into its router, or onto the first edge toward its
stack, where its stream pays for the flit (R380, R381). (DESIGN CHOICE, log entry 101) -/
def State.route (s : State) (r e c q d k : Nat) (t : Token) : State :=
  match edgePath (r / 192) (q / 192) with
  | [] => s.setElem q d ((s.elem q d).send k ⟨s.cyc + routeLatency r q - 1, t⟩)
  | b :: _ =>
    let st := s.streamOf b r e c
    (s.setEdge b ((s.edge b).enqueue (s.cyc + 78) ⟨0, true, st, s.partOf r, q / 192, [(q, d, k, t)], none, []⟩)).spend b st (s.partOf r)

/-- Whether an edge's waiting flits leave room for another token to a channel (R139). -/
def Edge.holdRoom (x : Edge) (q e k : Nat) : Bool :=
  !x.down && decide ((x.hold.filter fun h => h.1.toks.any fun t => t.1 == q && t.2.1 == e && t.2.2.1 == k).length < 64)

/-- The edges on the way to a destination. -/
def State.edgesTo (s : State) (r : Nat) (d : Dest) : List Nat := ((s.destRegion r d).map fun q => edgePath (r / 192) (q / 192)).getD []

/-- Whether a destination's input queue has room, and the edges toward it take a token of output Oc of element `e` whose destinations are `ds`
(R142, R380, R382): the first one a flit for each destination beyond it, within the allowance of the route's stream. (DEDUCED, log entry 114) -/
def State.destOpen (s : State) (r e c : Nat) (ds : List Dest) (d : Dest) : Bool :=
  match s.destRegion r d with
  | none => false
  | some q =>
    (s.elem q d.elem).inRoom d.chan
      && match s.edgesTo r d with
        | [] => true
        | b :: bs =>
          let n := (ds.filter fun d => (s.edgesTo r d).head? == some b).length
          (s.edge b).hasRoom n && s.allowed b (s.streamOf b r e c) (s.partOf r) n && bs.all fun b => (s.edge b).holdRoom q d.elem d.chan

/-- The element and channel that the next token of output Oc of element `e` returns to: of those whose conversion binding names the output,
the one whose token the node took first from its input, or else the one that has had a token out longest (R13, R62).
(DEDUCED, log entry 119) -/
def Region.converting (g : Region) (e c : Nat) : Option (Nat × Nat) :=
  (g.taken ++ g.steers).find? fun p =>
    let x := g.elem p.1
    (x.binding p.2).any (fun b => b.1 == e && b.2.2 == c) && (x.awayTok p.2).isSome

/-- A region from which a token is steered to a conversion node, from channel `k` of element `e`. -/
def Region.steer (g : Region) (e k : Nat) : Region :=
  let others := fun (l : List (Nat × Nat)) => l.filter fun p => p != (e, k)
  { g with steers := others g.steers ++ [(e, k)], taken := others g.taken }

/-- What a token takes of a region link's room for one cycle, of 32 (R142, R144): a quarter of an eighth at least, and an eighth where
nothing of it can be left out. (DESIGN CHOICE, log entry 135) -/
def State.linkCost (s : State) (t : Token) : Nat :=
  if t.kind = kPoison ∨ ((List.range 8).all fun l => t.vmask.getLsbD l && t.lanes.get l != 0) = true then 4 else 1 + s.free % 4

/-- The region links, each as the region that it leaves and its direction (0 and 1 by a row, 2 and 3 by a column), from region `h` on the
way from `r` to `q` of the same stack, in at most `n` steps (R138, R142). (DESIGN CHOICE, log entry 135) -/
def linkPath (r q : Nat) : Nat → Nat → List (Nat × Nat)
  | 0, _ => []
  | n + 1, h =>
    let y := h % 192 / 16
    let x := h % 16
    let v := q % 192 / 16
    let u := q % 16
    if y ≠ v ∧ (x = u ∨ Config.rowFirst r q h = true) then
      if y < v then (h, 1) :: linkPath r q n (h + 16) else (h, 0) :: linkPath r q n (h - 16)
    else if x < u then (h, 3) :: linkPath r q n (h + 1)
    else if u < x then (h, 2) :: linkPath r q n (h - 1)
    else []

/-- The region links that a token takes to its destinations, each once (R142). A way to another stack begins at the die edge. -/
def State.linksOf (s : State) (r : Nat) (ds : List Dest) : List (Nat × Nat) :=
  (ds.flatMap fun d => match s.destRegion r d with
    | some q => if q / 192 = r / 192 then linkPath r q 26 r else []
    | none => []).eraseDups

/-- What the tokens of this cycle have taken of a region link (R142). -/
def State.linkUsed (s : State) (l : Nat × Nat) : Nat :=
  let u := (s.region l.1).link
  if u.cyc = s.cyc then SMap.get (fun _ => 0) u.used l.2 else 0

/-- Whether region links have room for a token in this cycle. (DESIGN CHOICE, log entry 135) -/
def State.linkOpen (s : State) (ls : List (Nat × Nat)) (t : Token) : Bool := ls.all fun l => decide (s.linkUsed l + s.linkCost t ≤ 32)

/-- Region links carry a token of output Oc of element `e` of region `r`, whose turn comes again after that of the other routes (R142).
(DESIGN CHOICE, log entry 135) -/
def State.useLinks (s : State) (r e c : Nat) (ls : List (Nat × Nat)) (t : Token) : State :=
  if ls.isEmpty then s
  else
    let n := s.linkCost t
    let s1 := ls.foldl (fun s l => s.onRegion l.1 fun g =>
      { g with link := { g.link with
          cyc := s.cyc, used := SMap.set (if g.link.cyc = s.cyc then g.link.used else []) l.2 (s.linkUsed l + n) } }) s
    s1.bump.onRegion r fun g => { g with link := { g.link with last := SMap.set g.link.last (4 * e + c) (s.cyc + 1) } }

/-- The element without the oldest token of Oc. -/
def Elem.pop (x : Elem) (c : Nat) : Elem := { x with outq := SMap.set x.outq c ((x.outQ c).drop 1) }

/-- TOKEN_DEPART (R13, R139, R142): the oldest token of Oc leaves for all its destinations at once, if the region links carry it; a
converted token returns to the channel it was steered from. -/
def execTokenDepart (r e c : Nat) (s : State) : Host.Outcome State Fault Refusal :=
  let g := s.region r
  let x := g.elem e
  match s.clocked r, (x.outQ c).head? with
  | true, some t =>
    match g.converting e c with
    | some (b, k) =>
      let s1 := s.setElem r e (x.pop c)
      let y := s1.elem r b
      let back : Transit := ⟨s.cyc, t⟩
      .next (s1.setElem r b ({ y with rbuf := SMap.set y.rbuf k (back :: y.transit k), away := SMap.set y.away k [] }.flag 0x40))
    | none =>
      let ds := x.route c
      let links := s.linksOf r ds
      if ds.isEmpty || !(ds.all (s.destOpen r e c ds)) || !s.linkOpen links t then .next s
      else
        let s0 := s.setElem r e (x.pop c)
        let s1 := s0.useLinks r e c links t
        .next (ds.foldl (fun s d => match s.destRegion r d with
          | some q => s.route r e c q d.elem d.chan t
          | none => s) s1)
  | _, _ => .next s

/-- Whether Ik accepts a token (R13): any kind but DATA, or a fmt in its mask. -/
def Elem.accepts (x : Elem) (k : Nat) (t : Token) : Bool :=
  t.kind != kData || (x.field (163 + k / 2)).getLsbD (8 * (k % 2) + t.fmt.toNat)

/-- TOKEN_ARRIVAL (R12, R13): the oldest token in transit enters Ik once it is due and Ik has room. A DATA token with a refused fmt
goes to the channel's conversion node, or raises OPND 0x01 and stays where it is. (DEDUCED, log entries 114, 149) -/
def execTokenArrival (r e k : Nat) (s : State) : Host.Outcome State Fault Refusal :=
  let x := s.elem r e
  match s.clocked r && (SMap.get (fun _ => []) x.away k).isEmpty, x.transit k with
  | true, t :: ts =>
    if s.cyc < t.due then .next s
    else if x.accepts k t.tok then
      if x.inRoom k then .next (s.setElem r e ({ x with rbuf := SMap.set x.rbuf k ts }.enqueue k t.tok)) else .next s
    else
      match if e < 128 then x.binding k else none with
      | some (n, i, _) =>
        let s1 := s.setElem r e { x with rbuf := SMap.set x.rbuf k ts, away := SMap.set x.away k [t.tok] }
        .next ((s1.setElem r n ((s1.elem r n).send i ⟨s.cyc + 1, t.tok⟩)).onRegion r fun g => g.steer e k)
      | none =>
        if s.stuck r e then .next s
        else .next (s.raise r e 0xFFFF 0 ((FaultRec.of 0x02 0x01).token k t.tok.seq))
  | _, _ => .next s

/-- SIDE_PORT_CTRL (R47): a well-formed CTRL token at the head of the side channel writes CONV[4:0] and is dequeued; an ill-formed
one raises OPND 0x02 and stays. (DEDUCED, log entry 119) -/
def execSidePortCtrl (r e : Nat) (s : State) : Host.Outcome State Fault Refusal :=
  let x := s.elem r e
  let conv := x.field 162
  let k := (conv.extractLsb' 8 2).toNat
  match s.clocked r && !s.stuck r e && conv.getLsbD 10, x.head k with
  | true, some t =>
    if t.kind ≠ kCtrl then .next s
    else
      let w := t.lanes.get 0
      if t.vmask.getLsbD 0 = false ∨ w &&& 0xFFFFFFE0 ≠ 0 ∨ 5 ≤ (w &&& 7).toNat then
        .next (s.raise r e 0xFFFF 0 ((FaultRec.of 0x02 0x02).token k t.seq))
      else .next (s.setElem r e ((x.dequeue k).setField 162 ((conv &&& 0xFFE0) ||| (w.extractLsb' 0 16 &&& 0x1F))))
  | _, _ => .next s

/-- REQ_ABSORB (R146): a REQ token at the head of a REQS channel adds its count to the channel's demand credit, saturating; one
whose count is not valid raises OPND 0x03 and stays. -/
def execReqAbsorb (r e k : Nat) (s : State) : Host.Outcome State Fault Refusal :=
  let x := s.elem r e
  let cfg := x.field (144 + k)
  match s.clocked r && !s.stuck r e && cfg.getLsbD 14, x.head k with
  | true, some t =>
    if t.kind ≠ kReq then .next s
    else if t.vmask.getLsbD 0 = false then .next (s.raise r e 0xFFFF 0 ((FaultRec.of 0x02 0x03).token k t.seq))
    else
      let c := (cfg.extractLsb' 12 2).toNat
      let n := (x.credit c).toNat + (t.lanes.get 0).toNat
      let y := x.dequeue k
      .next (s.setElem r e { y with dcred := SMap.set y.dcred c (BitVec.ofNat 32 (Nat.min n 0xFFFFFFFF)) })
  | _, _ => .next s

end Sys2Proof.Machine
end

