-- ==== Sys2Proof/Machine/Graph.lean ====
section
/-!
DEFINITION. Launch packets, graphs and fabric loads up to their activation: what the hub reads, the faults that belong to no load,
the loader, activation and preload (R67, R68, R140, R148 to R154, R323, R324, R332 to R336), with the release and the reservation of
regions (R152, R257, R309).
-/
namespace Sys2Proof.Machine

/- Reads of the hub and of the loader. -/

/-- `n` bytes that an agent of the device reads at a virtual address, as latest applied state (R68, R280, R314): they lie in one
64 KiB page. Such an agent reaches no remote memory and no transfer aperture. (DEDUCED, log entry 64) -/
def State.agentRead (s : State) (stack : Nat) (part : BitVec 4) (va : BitVec 64) (n : Nat) : Except Bad (List Byte) × State :=
  match s.translate stack part va .r with
  | (.error b, s1) => (.error b, s1)
  | (.ok p, s1) =>
    if p.kind = 3 ∨ p.kind = 4 then (.error (0x04, 0x24), s1)
    else if p.kind ≠ 5 ∧ s.mem.isLost p.addr n = true then (.error (0x0B, 0x02), s1)
    else (.ok (s1.latest p n), s1)

/-- The little-endian field of `n` bytes at offset `o` of a record in memory. -/
def fieldAt (bs : List Byte) (o n : Nat) : Nat := leNat ((bs.drop o).take n)

/- Packets. -/

/-- Packet `k` of queue `q`, if the device keeps it. -/
def State.packet (s : State) (q k : Nat) : Option Packet := SMap.find (s.queue q).pkts k

/-- The state with packet `k` of queue `q` replaced. -/
def State.setPacket (s : State) (q k : Nat) (p : Packet) : State :=
  let x := s.queue q
  s.setQueue q { x with pkts := SMap.set x.pkts k p }

/-- The state with a packet that the device keeps changed. -/
def State.onPacket (s : State) (q k : Nat) (h : Packet → Packet) : State :=
  match s.packet q k with
  | some p => s.setPacket q k (h p)
  | none => s

/-- The physical address of packet `k` of a queue (R334). -/
def Queue.packetAddr (x : Queue) (k : Nat) : Nat := x.base.toNat + 64 * (k % 2 ^ x.log2n)

/-- A packet as it is when it is appended. -/
def Packet.new : Packet := ⟨0, 0, 0, [], 0, Oct.all 0, 0, false, none, false, 0, false, none, none, 0, []⟩

/-- Writes STATUS of a packet (R334) as an immediate write. -/
def State.writeStatus (s : State) (q k : Nat) (v : Byte) : State :=
  s.immediate 0 (cellsAt ((s.queue q).packetAddr k + 14) [v, 0])

/-- The loads of queue `q` in progress, in the order of their creation. -/
def State.loadsOf (s : State) (q : Nat) : List (Nat × Load) := s.loads.filter fun p => p.2.queue == q

/-- Whether a load is stopped by a BRK and held (R330). -/
def Load.atBreak (l : Load) : Bool := l.brk.isSome && (l.stop == .stopped || l.stop == .out) && !l.abn

/-- The held state of a queue follows its loads and packets (R323, R330). -/
def State.rehold (s : State) (q : Nat) : State :=
  let x := s.queue q
  let ls := s.loadsOf q
  s.setQueue q { x with
    held := (x.pkts.any fun p => p.2.bad) || ls.any fun p => p.2.ph == .faulted && !p.2.abn
    brkh := ls.any fun p => p.2.atBreak }

/- Regions. -/

/-- The region with every element changed. -/
def Region.onElems (g : Region) (h : Elem → Elem) : Region := { g with elems := g.elems.map fun p => (p.1, h p.2) }

/-- An element whose transit, conversions and accesses are discarded (R152). Access numbers are not used again. -/
def Elem.wind (x : Elem) : Elem := { x with rbuf := [], away := [], resv := [], port := { Port.idle with nextId := x.port.nextId } }

/-- An element whose queues are discarded as well (R152). -/
def Elem.clearQueues (x : Elem) : Elem := { x.wind with inq := [], outq := [] }

/-- An element of a region that passes to a successor's KEEP page (R149, R152): what its routers hold is discarded, and with it the accesses
that have not come to rest; those that wait for a word, and results still due, stay with their reserved entries. -/
def Elem.hand (x : Elem) (away : SMap (List Token)) : Elem :=
  let stays := fun (a : Access) => a.ph == .parked || a.ph == .done
  let gone := x.port.accs.filter fun a => !stays a && a.rsv
  let left := fun (c : Nat) => x.reserved c - (gone.filter fun a => a.chan == some (BitVec.ofNat 2 c)).length
  { x with
    rbuf := []
    away := away
    resv := x.resv.map fun p => (p.1, left p.1)
    port := { x.port with accs := x.port.accs.filter stays } }

/-- The tokens out for conversion that a region passes on (R13, R149): those that its routers do not hold. -/
def Region.stayAway (g : Region) (x : Elem) : SMap (List Token) :=
  x.away.filter fun p => match x.binding p.1 with
    | some (n, i, _) => p.2.all fun t => ((g.elem n).transit i).all fun u => u.tok != t
    | none => false

/-- The region with every element as a successor's KEEP page finds it. -/
def Region.hand (g : Region) : Region := g.onElems fun x => x.hand (g.stayAway x)

/-- The configuration stream that a region keeps when its load leaves it (R397): the host's, and nothing of a page that the loader was
reading. -/
def Region.keptCfg (g : Region) : CfgStream := if g.rstate = 1 then CfgStream.none else g.cfg

/-- A flit without the tokens that are bound for a region, and no longer one of its accesses or copies. -/
def flitWithout (r : Nat) (f : BridgeFlit) : BridgeFlit :=
  { f with toks := f.toks.filter fun t => t.1 != r, who := f.who.filter fun w => w.reg != r }

/-- Discards the tokens on die edges that are bound for a region. -/
def State.dropFlying (s : State) (r : Nat) : State :=
  let cut := fun (x : Edge) =>
    { x with retryBuf := x.retryBuf.map (flitWithout r), hold := x.hold.map fun h => (flitWithout r h.1, h.2) }
  { s with links := { s.links with edges := s.links.edges.map fun p => (p.1, cut p.2) } }

/-- Regions have become free, so that no queue is excluded from the draw any more (R337). -/
def State.unexclude (s : State) : State :=
  { s with queues := s.queues.map fun p => (p.1, { p.2 with excl := false }) }

/-- A region is released (R152, R257): it leaves matrix mode and weight-driven mode (R183, R355). -/
def State.freeRegion (s : State) (r : Nat) : State :=
  (((s.closeRows r false).dropFlying r).onRegion r fun g =>
    { (g.onElems Elem.clearQueues) with
      cfg := g.keptCfg, owner := none, page := 0, rstate := 0, req := none, live := 0xFFFF
      mode := 0, arr := MArray.idle, seq := Sequencer.idle }).unexclude

/-- A region stays reserved for a KEEP page of a successor (R149, R152): its queues keep their tokens, and it stays in matrix mode with its
array (R183); weight-driven mode it leaves (R355). -/
def State.reserveRegion (s : State) (r : Nat) : State :=
  ((s.closeRows r false).dropFlying r).onRegion r fun g =>
    { g.hand with
      cfg := g.keptCfg, owner := none, rstate := 1, req := none, live := 0xFFFF
      mode := if g.mode = 2 then 1 else g.mode, seq := { Sequencer.idle with table := g.seq.table } }

/-- The regions that hold the pages of a load. -/
def Load.regions (l : Load) : List Nat := l.pages.filterMap (·.reg)

/-- What the device holds of a load elsewhere is dropped (R278): its replay entries, its requests to other devices and its save
images. -/
def State.forget (s : State) (ld : Nat) : State :=
  { s with
    mmu := { s.mmu with replay := s.mmu.replay.filter fun p => p.load != ld }
    links := { s.links with remote := s.links.remote.filter fun p => p.load != ld }
    sched := { s.sched with saves := s.sched.saves.filter fun p => p.load != ld } }

/-- A load's claims of regions end (R343). -/
def State.unclaim (s : State) (ld : Nat) : State :=
  { s with regions := s.regions.map fun g => (g.1, if g.2.claim = some ld then { g.2 with claim := none } else g.2) }

/-- A load is removed, and its regions are released or, with `keep`, reserved. -/
def State.removeLoad (s : State) (ld : Nat) (keep : Bool) : State :=
  match s.load ld with
  | none => s
  | some l =>
    let s1 := l.regions.foldl (fun s r => if keep then s.reserveRegion r else s.freeRegion r) s
    { ((s1.forget ld).unclaim ld) with loads := SMap.del s1.loads ld }

/- Abandoning (R309, R336). -/

/-- The unfinished packets whose parent is among those listed. -/
def State.children (s : State) (ps : List (Nat × Nat)) : List (Nat × Nat) :=
  s.queues.flatMap fun q => q.2.pkts.filterMap fun p =>
    match p.2.parent with
    | some a => if ps.contains a && !p.2.fin then some (q.1, p.1) else none
    | none => none

/-- Packets with their unfinished descendants, to a depth. -/
def State.family (s : State) : Nat → List (Nat × Nat) → List (Nat × Nat)
  | 0, ps => ps
  | n + 1, ps => ps ++ (if ps.isEmpty then [] else s.family n (s.children ps))

/-- One packet is abandoned: its load is to be released, and what is reserved for it is. (DEDUCED, log entry 120) -/
def State.abandonOne (s : State) (q k : Nat) : State :=
  match s.packet q k with
  | none => s
  | some p =>
    if p.fin then s
    else
      let s1 := (p.keepOf.filter fun e => (s.region e.2).owner.isNone).foldl (fun s e => s.freeRegion e.2) s
      let s2 := s1.setPacket q k { p with st := 3, bad := false, keepOf := [] }
      let s3 := { s2 with sched := { s2.sched with
        launches := s2.sched.launches.filter fun a => a.queue != q || a.pkt != k } }
      let s4 := match p.load with
        | some ld => (match s3.load ld with | some l => s3.setLoad ld { l with abn := true } | none => s3)
        | none => s3
      s4.rehold q

/-- A graph is abandoned with its unfinished children (R309). -/
def State.abandonPacket (s : State) (q k : Nat) : State :=
  let n := s.queues.foldl (fun n p => n + p.2.pkts.length) 0
  (s.family n [(q, k)]).foldl (fun s p => s.abandonOne p.1 p.2) s

/-- A fault of a graph that belongs to no load (R324): the record is written, and the graph is held or abandoned under R323.
(DEDUCED, log entries 77, 123) -/
def State.graphFault (s : State) (q k i : Nat) (f : FaultRec) : State :=
  let s1 := s.queueRecord q { f with notask := true } 0 (k % 65536) i 0 0
  let x := s1.queue q
  match s1.packet q k with
  | none => s1
  | some p =>
    if x.pol = 1 ∧ (x.rlim = 0 ∨ p.retries < x.rlim.toNat) then (s1.setPacket q k { p with bad := true }).rehold q
    else s1.abandonPacket q k

/- Graph descriptors (R151, R154). -/

/-- The address of entry `i` of a descriptor. -/
def entryAddr (gaddr : BitVec 64) (i : Nat) : BitVec 64 := gaddr + BitVec.ofNat 64 (32 + 32 * i)

/-- A CFG fault that names an address. -/
def cfgAt (det : Byte) (a : BitVec 64) : FaultRec := (FaultRec.of 0x01 det).at_ a

/-- The fault of a class and detail at an address. -/
def badAt (b : Bad) (a : BitVec 64) : FaultRec := (FaultRec.of b.1 b.2).at_ a

/-- Whether a descriptor's header is malformed (R154). (DESIGN CHOICE, log entry 137) -/
def headerBad (h : List Byte) : Bool :=
  let n := fieldAt h 0 2
  let pre := fieldAt h 8 8
  let npre := fieldAt h 16 2
  n == 0 || n == 0xFFFF || fieldAt h 2 6 != 0 || fieldAt h 18 14 != 0 || decide (4096 < npre) || pre % 32 != 0
    || (npre == 0 && pre != 0)

/-- Whether a descriptor's entry is malformed (R154). -/
def entryBad (e : List Byte) : Bool :=
  let np := fieldAt e 8 2
  let fl := fieldAt e 14 2
  np == 0 || decide (768 < np) || decide (2 ≤ fl) || fieldAt e 16 8 % 4 != 0
    || (fl == 0 && (fieldAt e 16 8 != 0 || fieldAt e 24 4 != 0))

/-- Whether a preload entry breaks its layout (R151). -/
def preloadBad (e : List Byte) : Bool :=
  let len := fieldAt e 12 4
  decide (8 ≤ fieldAt e 4 1) || fieldAt e 5 3 != 0 || fieldAt e 8 4 % 32 != 0 || len % 32 != 0 || decide (len < 32)
    || decide (65536 < fieldAt e 8 4 + len) || fieldAt e 16 8 % 32 != 0 || fieldAt e 24 8 != 0

/-- Checks a preload table of `n` entries from entry `i` at `a` upward (R151): its entries, or the fault of the first that fails.
(DEDUCED, log entries 64, 127) (DESIGN CHOICE, log entry 139) -/
def State.readTable (s : State) (part : BitVec 4) (gaddr : BitVec 64) (nload : Nat) (a : BitVec 64) :
    Nat → List (List Byte) → Except FaultRec (List (List Byte)) × State
  | 0, acc => (.ok acc.reverse, s)
  | n + 1, acc =>
    match s.agentRead 0 part a 32 with
    | (.error b, s1) => (.error (badAt b a), s1)
    | (.ok e, s1) =>
      if preloadBad e || decide (nload ≤ fieldAt e 0 2) then (.error (cfgAt 0x11 a), s1)
      else
        let d := entryAddr gaddr (fieldAt e 0 2)
        match s1.agentRead 0 part d 32 with
        | (.error b, s2) => (.error (badAt b d), s2)
        | (.ok l, s2) =>
          if fieldAt l 8 2 ≤ fieldAt e 2 2 then (.error (cfgAt 0x11 a), s2)
          else s2.readTable part gaddr nload (a + 32) n (e :: acc)

/-- A load that waits for placement (R148). -/
def newLoad (q k i npage : Nat) (addr : BitVec 64) (tiles : Word) : Load :=
  { queue := q, pkt := k, index := i, addr := addr, npage := npage, tiles := tiles.toNat, ph := .waiting,
    pages := (List.range npage).map fun _ => ⟨none, addr, addr, false, none⟩, tile := 0, due := false, task := none, ended := false,
    again := false, phase := 0, vers := [], bounds := [], pre := [], stop := .none, frecs := [], fcyc := 0, abn := false,
    restarts := 0, actNs := 0, brk := none, claims := false, back := none, snaps := [], kept := [], vbad := [], past := [],
    redo := false, streams := [] }

/-- Load `i` of a graph comes to wait for placement (R153, R154), or the graph's descriptor faults. -/
def State.enterLoad (s : State) (q k i : Nat) : State :=
  match s.packet q k with
  | none => s
  | some p =>
    let a := entryAddr p.gaddr i
    match s.agentRead 0 (s.queue q).part a 32 with
    | (.error b, s1) => s1.graphFault q k i (badAt b a)
    | (.ok e, s1) =>
      if entryBad e then s1.graphFault q k i (cfgAt 0x0B a)
      else
        let t := BitVec.ofNat 32 (fieldAt e 28 4)
        let l := newLoad q k i (fieldAt e 8 2) (BitVec.ofNat 64 (fieldAt e 0 8)) (if t = 0 then p.tiles else t)
        let n := s1.sched.nextLoad
        let s2 := (s1.setLoad n l).setPacket q k { p with load := some n }
        { s2 with sched := { s2.sched with nextLoad := n + 1 } }

/-- The start of a graph (R151, R153, R154): its header and preload table are checked, and load 0 comes to wait. -/
def State.startGraph (s : State) (q k : Nat) : State :=
  match s.packet q k with
  | none => s
  | some p =>
    let part := (s.queue q).part
    match s.agentRead 0 part p.gaddr 32 with
    | (.error b, s1) => s1.graphFault q k 0 (badAt b p.gaddr)
    | (.ok h, s1) =>
      if headerBad h then s1.graphFault q k 0 (cfgAt 0x0B p.gaddr)
      else
        let n := fieldAt h 0 2
        match s1.readTable part p.gaddr n (BitVec.ofNat 64 (fieldAt h 8 8)) (fieldAt h 16 2) [] with
        | (.error f, s2) => s2.graphFault q k 0 f
        | (.ok t, s2) => (s2.setPacket q k { p with nload := n, table := t }).enterLoad q k 0

/-- Whether a packet is faulty (R332). -/
def packetBad (b : List Byte) : Bool :=
  fieldAt b 0 8 % 32 != 0 || decide (16 ≤ fieldAt b 12 1) || fieldAt b 13 1 != 0 || fieldAt b 16 16 != 0

/-- The device reads packet `k` of queue `q` and starts its graph (R332, R334). -/
def State.readPacket (s : State) (q k : Nat) : State :=
  let x := s.queue q
  let pa := x.packetAddr k
  let va := BitVec.ofNat 64 pa
  let old := ((s.packet q k).getD Packet.new)
  let s0 := s.setPacket q k { old with bad := false, next := 0 }
  let b := s.mem.readBytes pa 64
  if s.mem.isLost pa 64 then s0.graphFault q k 0 (badAt (0x0B, 0x02) va)
  else if packetBad b then s0.graphFault q k 0 (cfgAt 0x0B va)
  else
    let p : Packet := { old with
      gaddr := BitVec.ofNat 64 (fieldAt b 0 8)
      tiles := BitVec.ofNat 32 (fieldAt b 8 4)
      nrel := BitVec.ofNat 4 (fieldAt b 12 1)
      args := Oct.ofFn fun l => BitVec.ofNat 32 (fieldAt b (32 + 4 * l) 4)
      st := 1
      bad := false
      next := 0 }
    let s1 := s0.setPacket q k p
    (if old.st = 1 then s1 else s1.writeStatus q k 1).startGraph q k

/-- Whether a packet has been started. -/
def Packet.begun (p : Packet) : Bool := p.bad || p.st != 0

/-- The packets of a queue that stand below TAIL and are not finished. PROG passes TAIL where a child that lies under the shadow of a
switched-out queue is abandoned (R334, R336, R347); none stands below TAIL then. -/
def Queue.standing (x : Queue) (tail : Word) : Nat := if (tail - x.prog).toNat ≤ 2 ^ 16 then (tail - x.prog).toNat else 0

/-- Whether packet `k` of a queue may start (R334, R335): it lies below TAIL, its predecessor has finished or a TRIG has released
it, and fewer than 16 packets of the queue run. -/
def Queue.mayStart (x : Queue) (k : Nat) : Bool :=
  let n := (BitVec.ofNat 32 k - x.prog).toNat
  decide (k < 2 ^ 32) && decide (n < x.standing x.tail)
    && !((SMap.find x.pkts k).map Packet.begun).getD false
    && (n == 0 || ((SMap.find x.pkts ((k + 2 ^ 32 - 1) % 2 ^ 32)).map (·.fin)).getD false
        || (decide (n < (x.rel - x.prog).toNat) && decide ((x.rel - x.prog).toNat ≤ 2 ^ 16)))
    && decide ((x.pkts.filter fun p => p.2.begun && !p.2.fin).length < 16)

/-- PACKET_START (R332, R334). -/
def execPacketStart (q k : Nat) (s : State) : Host.Outcome State Fault Refusal :=
  if q < 128 ∧ (s.queue q).mayStart k = true then .next (s.readPacket q k) else .next s

/- Successors (R149, R152, R153). -/

/-- The successor link of a page, found in its stream from `a` upward within `n` words (R63): none where the stream ends or cannot be
read. -/
def State.linkOf (s : State) (stack : Nat) (part : BitVec 4) : Nat → BitVec 64 → Half → Half → Option Word
  | 0, _, _, _ => none
  | n + 1, a, lo, hi =>
    match (s.agentRead stack part a 4).1 with
    | .error _ => none
    | .ok b =>
      let w := BitVec.ofNat 32 (leNat b)
      let v := w.extractLsb' 0 16
      match (w.extractLsb' 16 16).toNat with
      | 0xFF04 => s.linkOf stack part n (a + 4) v hi
      | 0xFF05 => s.linkOf stack part n (a + 4) lo v
      | 0xFF06 => some (hi ++ lo)
      | _ => s.linkOf stack part n (a + 4) lo hi

/-- The words of a stream that the search for a link reads at most: all that 64-bit addresses reach. -/
def linkReach : Nat := 2 ^ 62

/-- The page that a successor link leads to (R63). -/
def linkTarget (base : BitVec 64) (link : Word) : BitVec 64 := base + 64 * link.signExtend 64

/-- The indices of the KEEP pages of a load's chain (R149), page `p` at `a` and those after it. (DEDUCED, log entry 84) -/
def State.keepPages (s : State) (part : BitVec 4) : Nat → Nat → BitVec 64 → List Nat
  | 0, _, _ => []
  | n + 1, p, a =>
    match (s.agentRead 0 part a 4).1 with
    | .error _ => []
    | .ok b =>
      let w := BitVec.ofNat 32 (leNat b)
      if w.extractLsb' 16 16 ≠ 0xFF00 then []
      else
        let rest := match s.linkOf 0 part linkReach a 0 0 with
          | some k => if k = 0 then [] else s.keepPages part n (p + 1) (linkTarget a k)
          | none => []
        if w.getLsbD 15 then p :: rest else rest

/-- Of the regions reserved when a load completed, those on which the successor places no KEEP page are released (R152). -/
def State.trimKeep (s : State) (q k : Nat) : State :=
  match s.packet q k with
  | none => s
  | some p =>
    let keep := match p.load.bind s.load with
      | some l => s.keepPages (s.queue q).part l.npage 0 l.addr
      | none => []
    let s1 := (p.keepOf.filter fun e => !keep.contains e.1).foldl (fun s e => s.freeRegion e.2) s
    s1.onPacket q k fun p => { p with keepOf := p.keepOf.filter fun e => keep.contains e.1 }

/-- The reservations are trimmed once a successor waits; a held or abandoned graph keeps or has released them. -/
def State.trimIfEntered (s : State) (q k : Nat) : State :=
  match s.packet q k with
  | some p => if p.load.isSome then s.trimKeep q k else s
  | none => s

/-- The choice of the successor of load `i` (R153): the graph ends, goes on with another load, or faults. -/
def State.chooseNext (s : State) (q k i : Nat) : State :=
  match s.packet q k with
  | none => s
  | some p =>
    let part := (s.queue q).part
    let a := entryAddr p.gaddr i
    let go := fun (s : State) (next : Nat) =>
      if next = 0xFFFF then (s.onPacket q k fun p => { p with st := 2, load := none }).trimKeep q k
      else if p.nload ≤ next then s.graphFault q k i (cfgAt 0x0E a)
      else (s.enterLoad q k next).trimIfEntered q k
    match s.agentRead 0 part a 32 with
    | (.error b, s1) => s1.graphFault q k i (badAt b a)
    | (.ok e, s1) =>
      if entryBad e then s1.graphFault q k i (cfgAt 0x0B a)
      else if fieldAt e 14 2 = 1 then
        let pa := BitVec.ofNat 64 (fieldAt e 16 8)
        match s1.agentRead 0 part pa 4 with
        | (.error b, s2) => s2.graphFault q k i (badAt b pa)
        | (.ok w, s2) =>
          go s2 (if leNat w &&& fieldAt e 24 4 = 0 then fieldAt e 10 2 else fieldAt e 12 2)
      else go s1 (fieldAt e 10 2)

/-- The step of a graph that stands after a fault, or after load `i` (`next = i + 1`), is taken (R153, R324). -/
def State.stepGraph (s : State) (q k : Nat) : State :=
  match s.packet q k with
  | none => s
  | some p => if p.next = 0 then s.readPacket q k else s.chooseNext q k (p.next - 1)

end Sys2Proof.Machine
end

