-- ==== Sys2Proof/Machine/Loader.lean ====
section
/-!
DEFINITION. A fabric load from placement to its first tile: the choice of regions, the loader's reading of page streams, the
activation of all pages together, and preload (R67, R68, R140, R148 to R151, R219, R308, R324).
-/
namespace Sys2Proof.Machine

/- Regions for a load (R148, R382, R411). -/

/-- The regions that are free for a load: those that no other load has claimed (R343). -/
def State.freeFor (s : State) (ld : Option Nat) : List Nat :=
  (List.range 768).filter fun r =>
    let g := s.region r
    g.rstate == 0 && g.owner.isNone && (g.claim.isNone || g.claim == ld)

/-- The free regions that no load has claimed. -/
def State.freeRegions (s : State) : List Nat := s.freeFor none

/-- Whether no down edge lies between two stacks of a set (R382). -/
def State.joined (s : State) (stks : List Nat) : Bool :=
  stks.all fun a => stks.all fun b => !((edgePath a b).any s.edgeDown)

/-- The thermal level of a stack (R411). -/
def State.level (s : State) (st : Nat) : Nat := (SMap.get (fun _ => (0 : BitVec 2)) s.pwr.lvl st).toNat

/-- A list begun at its `k`-th entry, around its end. -/
def rotate {α : Type} (l : List α) (k : Nat) : List α := l.drop (k % l.length) ++ l.take (k % l.length)

/-- The sets of stacks on which `n` more regions are free, that hold the stacks `must`, and that no down edge divides. -/
def State.stackSets (s : State) (ld : Option Nat) (n : Nat) (must : List Nat) : List (List Nat) :=
  ((List.range 15).map fun m => [0, 1, 2, 3].filter fun k => (BitVec.ofNat 4 (m + 1)).getLsbD k).filter fun t =>
    must.all t.contains && s.joined t && decide (n ≤ ((s.freeFor ld).filter fun r => t.contains (r / 192)).length)

/-- `n` regions free for a load `ld` that also has regions on the stacks `must` (R148): a free value chooses. Stacks at thermal level 0 come
first (R411). -/
def State.pick (s : State) (ld : Option Nat) (n : Nat) (must : List Nat) : Option (List Nat) :=
  let sets := s.stackSets ld n must
  let cool := sets.filter fun t => t.all fun k => s.level k == 0 || must.contains k
  let from_ := if cool.isEmpty then sets else cool
  match from_[s.free % from_.length]? with
  | none => none
  | some t =>
    let rs := (s.freeFor ld).filter fun r => t.contains (r / 192)
    some ((rotate rs (s.free / 16)).take n)

/-- Pages in order, each with the region reserved for it or the next of those given. -/
def assign (keep : List (Nat × Nat)) : List Nat → List Nat → List Nat
  | [], _ => []
  | p :: ps, rs =>
    match keep.find? fun e => e.1 == p with
    | some e => e.2 :: assign keep ps rs
    | none => match rs with
      | [] => []
      | r :: rs => r :: assign keep ps rs

/-- The regions reserved for the KEEP pages of a load (R149, R152). (DEDUCED, log entry 84) -/
def State.keepFor (s : State) (l : Load) : List (Nat × Nat) :=
  ((s.packet l.queue l.pkt).map (·.keepOf)).getD [] |>.filter fun e => decide (e.1 < l.npage)

/-- A region is taken for page `p` of load `ld`, in a state of REGMAP. A page that a stream of the host still has open there ends
with it (R63). -/
def State.take (s : State) (ld p r : Nat) (st : BitVec 4) : State :=
  (s.endStream r).onRegion r fun g => { g with owner := some ld, page := p, rstate := st, cfg := CfgStream.none, req := none }

/-- The configurations that a restarted load ran go to the regions of its pages: a KEEP page is loaded over them (R308). -/
def State.restoreConf (s : State) (l : Load) : State :=
  l.pages.foldl (fun s p =>
    match p.reg, p.conf with
    | some r, some c => s.onRegion r fun g => { g with elems := c.map fun e =>
        (e.1, { Elem.fresh e.2 with port := { Port.idle with nextId := (g.elem e.1).port.nextId } }) }
    | _, _ => s) s

/-- A load that was being placed or loaded gives its regions back and waits again (R344): regions reserved for KEEP pages stay
reserved. -/
def State.unplace (s : State) (ld : Nat) : State :=
  match s.load ld with
  | none => s
  | some l =>
    let keep := (s.keepFor l).map (·.2)
    let s1 := l.regions.foldl (fun s r => if keep.contains r then s.reserveRegion r else s.freeRegion r) s
    s1.setLoad ld { l with ph := .waiting, pages := l.pages.map fun p => { p with reg := none, done := false } }

/- The loader (R67, R68, R148). -/

/-- What the loader comes to at a page: the next command word for its region, or a state without one. -/
inductive Fetch where
  | word (s : State) (r : Nat) (w : Word)
  | stop (s : State)

/-- The record of a fault while page `p` loads (R324). -/
def loadRec (f : FaultRec) (p r : Nat) : FaultRec := { f with notask := true, page := p, reg := r }

/-- Why a page may not begin with the word `w` (R67, R148, R149). A restart needs no region to keep (R308). -/
def State.openFault (s : State) (l : Load) (p r : Nat) (base : BitVec 64) (w : Word) : Option FaultRec :=
  let idx := (w.extractLsb' 0 12).toNat
  if w.extractLsb' 16 16 ≠ 0xFF00 then some (cfgAt 0x0E base)
  else if idx ≠ p then some (FaultRec.of 0x01 0x13)
  else if w.getLsbD 15 && !l.again && l.restarts == 0 && !(s.keepFor l).contains (p, r) then some (FaultRec.of 0x01 0x12)
  else none

/-- The loader fetches the next command of page `p` of load `ld` (R67, R68): the pages load in chain order. (DEDUCED, log entries 127, 146) -/
def State.loaderFetch (s : State) (ld p : Nat) : Fetch :=
  match s.load ld with
  | none => .stop s
  | some l =>
    match l.pages[p]? with
    | none => .stop s
    | some pg =>
      match pg.reg with
      | none => .stop s
      | some r =>
        if l.ph = .loading ∧ l.frecs.isEmpty = true ∧ l.abn = false ∧ s.pwr.trip = false ∧ pg.done = false
            ∧ (l.pages.take p).all (·.done) = true then
          let first := pg.ptr == pg.base
          let raise := fun (s : State) f => Fetch.stop (s.stopFault ld (loadRec f p r))
          if first && pg.base.toNat % 64 != 0 then raise s (cfgAt 0x0E pg.base)
          else match s.agentRead (r / 192) (s.queue l.queue).part pg.ptr 4 with
            | (.error b, s1) =>
              if b.1 = 0x0B then raise s1 (cfgAt 0x0F pg.ptr)
              else if first && b != (0x04, 0x24) then raise s1 (cfgAt 0x0E pg.base)
              else raise s1 (badAt b pg.ptr)
            | (.ok bs, s1) =>
              let w := BitVec.ofNat 32 (leNat bs)
              match if first then s1.openFault l p r pg.base w else none with
              | some f => raise s1 f
              | none => .word s1 r w
        else .stop s

/-- A page of a load replaced. -/
def Load.setPage (l : Load) (p : Nat) (x : PageSt) : Load := { l with pages := l.pages.set p x }

/-- The loader goes on after a command of page `p` (R67, R148): after PGEND it follows the successor link of a committed page. -/
def State.loaderAfter (s : State) (ld p : Nat) (w : Word) : State :=
  match s.load ld with
  | none => s
  | some l =>
    match l.pages[p]? with
    | none => s
    | some pg =>
      let l1 := l.setPage p { pg with ptr := pg.ptr + 4 }
      if w.extractLsb' 16 16 ≠ 0xFF06 ∨ l.frecs.isEmpty = false then s.setLoad ld l1
      else
        let r := pg.reg.getD 0
        let c := (s.region r).cfg
        let link := c.hi.getD 0 ++ c.lo.getD 0
        if (link == 0) != (p + 1 == l.npage) then (s.setLoad ld l1).stopFault ld (loadRec (FaultRec.of 0x01 0x13) p r)
        else
          let l2 := l1.setPage p { pg with ptr := pg.ptr + 4, done := true }
          let l3 := match l2.pages[p + 1]? with
            | some nx => l2.setPage (p + 1) { nx with ptr := linkTarget pg.base link, base := linkTarget pg.base link }
            | none => l2
          s.setLoad ld l3

/- Activation (R140, R148, R149, R219). -/

/-- The routes of a page: the page, the destination's page, element and channel (R140). -/
def routesOf (p : Nat) (conf : SMap (SMap Half)) : List (Nat × Nat × Nat × Nat) :=
  conf.flatMap fun e => [0, 1, 2, 3].flatMap fun c =>
    (Elem.route (Elem.fresh e.2) c).map fun d => (p, if d.far then d.page else p, d.elem, d.chan)

/-- The lowest page that holds a route which breaks a cross-page check (R140). (DEDUCED, log entry 97) -/
def crossBad (confs : List (SMap (SMap Half))) : Option Nat :=
  let rs := (confs.zipIdx).flatMap fun c => routesOf c.2 c.1
  let bad := fun (r : Nat × Nat × Nat × Nat) =>
    decide (confs.length ≤ r.2.1) || decide (1 < (rs.filter fun t => t.2 == r.2).length)
      || (match confs[r.2.1]? with
        | some c => (SMap.get confDefault (SMap.get (fun _ => []) c r.2.2.1) (144 + r.2.2.2)).getLsbD 15
        | none => false)
  (rs.filter bad).foldl (fun m r => match m with | some p => some (Nat.min p r.1) | none => some r.1) none

/-- The streams that the routes of page `p` need, one for each route and edge, where the pages stand on the regions `regs` (R378, R379). -/
def pageStreams (regs : List (Option Nat)) (p : Nat) (conf : SMap (SMap Half)) : List Nat :=
  let at_ := fun (q : Nat) => regs.getD q none
  conf.flatMap fun e => [0, 1, 2, 3].flatMap fun c =>
    ((Elem.route (Elem.fresh e.2) c).flatMap fun d => match at_ p, at_ (if d.far then d.page else p) with
      | some a, some b => (edgePath (a / 192) (b / 192)).map fun k => routeKey k a e.1 c
      | _, _ => []).eraseDups

/-- The edges that the routes of page `p` cross, once for each route and edge. -/
def pageEdges (regs : List (Option Nat)) (p : Nat) (conf : SMap (SMap Half)) : List Nat := (pageStreams regs p conf).map keyEdge

/-- Whether routes that cross the edges `new` have their streams beside the routes of every other load that holds streams (R379): 240 on an
edge in each direction, and none on an edge that is down (R382). (DEDUCED, log entry 122) -/
def State.streamsFit (s : State) (ld : Nat) (new : List Nat) : Bool :=
  let old := s.loads.flatMap fun l =>
    if l.1 = ld ∨ (l.2.again = false ∧ (l.2.ph = .waiting ∨ l.2.ph = .loading)) then []
    else (l.2.pages.zipIdx).flatMap fun p => match p.1.reg with
      | some r => pageEdges (l.2.pages.map (·.reg)) p.2 (s.region r).config
      | none => []
  (List.range 12).all fun e => decide ((old ++ new).count e ≤ 240) && !(new.contains e && s.edgeDown e)

/-- Gives each route of a load `ld` one stream on every edge that it crosses (R379): the lowest number of 16 to 255 that no route of another
load has there. (DEDUCED, log entry 122) -/
def State.giveStreams (s : State) (ld : Nat) (keys : List Nat) : SMap Nat :=
  let others := s.loads.flatMap fun l => if l.1 = ld then [] else l.2.streams
  keys.foldl (fun m k =>
    let used := (others ++ m).filterMap fun p => if keyEdge p.1 = keyEdge k then some p.2 else none
    SMap.set m k (((List.range 240).find? fun n => !used.contains (n + 16)).getD 0 + 16)) []

/-- The streams that the routes of a load's committed pages need. -/
def State.loadStreams (s : State) (l : Load) : List Nat :=
  (l.pages.zipIdx).flatMap fun p => match p.1.reg with
    | some r => pageStreams (l.pages.map (·.reg)) p.2 ((s.region r).cfg.done.getD [])
    | none => []

/-- The edges that the routes of a load's committed pages cross. -/
def State.loadEdges (s : State) (l : Load) : List Nat := (s.loadStreams l).map keyEdge

/-- What a command of a page does at the region in hand (R60 to R66). -/
def State.pageStep (s : State) (w : Word) : State :=
  let of_ := fun (o : Host.Outcome State Fault Refusal) => match o with | .next t => t | _ => s
  match decodeCmd w with
  | .error b => s.badCommand b w
  | .ok i => match i with
    | .pgbegin v => of_ (execPgbegin v s)
    | .patbegin v => of_ (execPatbegin v s)
    | .patend v => of_ (execPatend v s)
    | .crc v => of_ (execCrc v s)
    | .succlo v => of_ (execSucclo v s)
    | .succhi v => of_ (execSucchi v s)
    | .pgend v => of_ (execPgend v s)
    | .rect n v => of_ (execRect n v s)
    | .elementFieldWrite e fld v => of_ (execElementFieldWrite e fld v s)
    | .wsel e v => of_ (execWsel e v s)
    | .wlo e v => of_ (execWlo e v s)
    | .whi e v => of_ (execWhi e v s)
    | .wctlNone e v => of_ (execWctlNone e v s)
    | .wctlWrite e v => of_ (execWctlWrite e v s)
    | .wctlRead e v => of_ (execWctlRead e v s)
    | _ => s

/-- The state in which the loader has read the pages of a load, at most `n` words of them, or has met a fault. (DEDUCED, log entry 122) -/
def State.readAhead (ld : Nat) : Nat → State → State
  | 0, s => s
  | n + 1, s =>
    match (s.load ld).bind fun l => l.pages.findIdx? fun p => !p.done with
    | none => s
    | some p =>
      match s.loaderFetch ld p with
      | .stop t => t
      | .word t r w => State.readAhead ld n ((({ t with cur := ⟨r, 0, 0, false⟩ }).pageStep w).loaderAfter ld p w)

/-- Whether the routes of a load that is placed in this state find their streams (R379): on regions of one stack they need none, and otherwise
the pager has read the pages before it places the load. A load whose pages fault when they are read is placed. (DEDUCED, log entry 122) -/
def State.routesFit (s : State) (ld : Nat) : Bool :=
  let stks := ((s.load ld).map fun l => (l.regions.map (· / 192)).eraseDups).getD []
  decide (stks.length ≤ 1) ||
    (let t := State.readAhead ld linkReach s
     match t.load ld with
     | some l => !l.frecs.isEmpty || s.streamsFit ld (t.loadEdges l)
     | none => true)

/- Placement (R148, R379). -/

/-- A waiting load placed on the regions `rs`, and on those reserved for its KEEP pages: its pages are to be loaded. -/
def State.placeOn (s : State) (ld : Nat) (l : Load) (rs : List Nat) : State :=
  let all := assign (s.keepFor l) (List.range l.npage) rs
  let s1 := (all.zipIdx).foldl (fun s e => s.take ld e.2 e.1 1) (s.bump.unclaim ld)
  let l1 := { l with ph := .loading, claims := false, pages := (l.pages.zip all).map fun p => { p.1 with reg := some p.2, ptr := l.addr, base := l.addr, done := false } }
  (s1.setLoad ld l1).restoreConf l1

/-- Places a waiting load whole, if enough regions are free (R148) and its routes have their streams there (R379). -/
def State.placeLoad (s : State) (ld : Nat) : Option State :=
  match s.load ld with
  | none => none
  | some l =>
    let keep := s.keepFor l
    match s.pick (some ld) (l.npage - keep.length) (keep.map fun e => e.2 / 192) with
    | none => none
    | some rs => if (s.placeOn ld l rs).routesFit ld then some (s.placeOn ld l rs) else none

/-- The scratchpad of a region is zero and empty (R219). (DEDUCED, log entry 79) -/
def Mem.clearSpad (m : Mem) (r : Nat) : Mem :=
  let lo := spadAddr r 0 0
  let hi := lo + 0x80000
  { m with
    bytes := m.bytes.filter fun c => !(decide (lo ≤ c.1) && decide (c.1 < hi))
    full := m.full.filter fun w => !(decide (lo ≤ 8 * w) && decide (8 * w < hi))
    lost := m.lost.filter fun b => !(decide (lo ≤ b) && decide (b < hi)) }

/-- Page `p` of a load takes effect on its region (R7, R149, R308): a page with KEEP changes the configuration alone, but for a restart,
which initialises every element. -/
def State.activatePage (s : State) (ld p r : Nat) (again : Bool) : State :=
  let g := s.region r
  let c := g.cfg.done.getD []
  let g1 : Region :=
    if g.cfg.doneKeep && !again then
      { g with elems := c.map fun e => (e.1, { g.elem e.1 with conf := e.2 }), cfg := CfgStream.none, rstate := 2, page := p }
    else
      let fresh := fun (e : Nat × SMap Half) =>
        (e.1, { Elem.fresh e.2 with port := { Port.idle with nextId := (g.elem e.1).port.nextId } })
      { Region.reset with
        elems := c.map fresh, bxslot := g.bxslot, owner := some ld, page := p, rstate := 2
        row := { RowUnit.empty with acts := g.row.acts, period := g.row.period } }
  let s1 := s.setRegion r g1
  if g.cfg.doneKeep && !again then s1 else { s1 with mem := s1.mem.clearSpad r }

/-- The preload entries of a graph that name load `i` (R151). -/
def Packet.preloads (p : Packet) (i : Nat) : List Nat :=
  (List.range p.table.length).filter fun n => fieldAt (p.table.getD n []) 0 2 == i

/-- The load after its preload (R150): tile 0 is due, or with no tiles the load completes. -/
def Load.ready (l : Load) : Load := if l.tiles ≤ l.tile then { l with ph := .ended, due := false } else { l with ph := .running, due := true }

/-- LOAD_ACTIVATION (R148): once every page has committed and the cross-page checks hold, all pages take effect together, and each route has its
streams (R379). A load whose routes have come to need more since it was placed gives its regions back and waits. (DEDUCED, log entry 122) -/
def execLoadActivation (ld : Nat) (s : State) : Host.Outcome State Fault Refusal :=
  match s.load ld with
  | none => .next s
  | some l =>
    if l.ph = .loading ∧ l.pages.all (fun p => p.done && p.reg.isSome) = true ∧ l.frecs.isEmpty = true ∧ l.abn = false
        ∧ s.pwr.trip = false then
      let confs := l.regions.map fun r => ((s.region r).cfg.done).getD []
      match crossBad confs with
      | some p => .next (s.stopFault ld (loadRec (FaultRec.of 0x01 0x0B) p (l.regions.getD p 0)))
      | none =>
        if !s.streamsFit ld (s.loadEdges l) then .next (s.unplace ld)
        else
        let keep := s.keepFor l
        let s1 := (l.regions.zipIdx).foldl (fun s e =>
          (s.closeRows e.1 false).activatePage ld e.2 e.1 (l.again || !keep.contains (e.2, e.1))) s
        let pre := ((s.packet l.queue l.pkt).map fun p => p.preloads l.index).getD []
        let l1 := { l with again := true, actNs := s.rt, pre := pre, due := false, streams := s.giveStreams ld (s.loadStreams l) }
        let s2 := s1.setLoad ld (if pre.isEmpty then l1.ready else { l1 with ph := .preload })
        .next (s2.onPacket l.queue l.pkt fun p => { p with keepOf := [] })
    else .next s

/-- Copies `n` blocks of 32 bytes into a scratchpad as engine writes (R151, R269): the address whose read fails stops the copy. -/
def State.copyIn (s : State) (stack : Nat) (part : BitVec 4) : Nat → BitVec 64 → Nat → State × Option (BitVec 64)
  | 0, _, _ => (s, none)
  | n + 1, src, dst =>
    match s.agentRead stack part src 32 with
    | (.error _, s1) => (s1, some src)
    | (.ok bs, s1) =>
      let s2 := s1.immediate 1 (cellsAt dst bs)
      { s2 with mem := s2.mem.setFull dst 32 }.copyIn stack part n (src + 32) (dst + 32)

/-- PRELOAD_COPY (R151): entry `i` of the graph's table is copied. A source that fails leaves the bytes copied, and the load's tiles do
not start. -/
def execPreloadCopy (ld i : Nat) (s : State) : Host.Outcome State Fault Refusal :=
  match s.load ld with
  | none => .next s
  | some l =>
    if l.ph = .preload ∧ l.pre.contains i = true ∧ l.frecs.isEmpty = true ∧ l.abn = false ∧ l.stop = .none ∧ s.pwr.trip = false then
      let e := (((s.packet l.queue l.pkt).map (·.table)).getD []).getD i []
      let r := l.regions.getD (fieldAt e 2 2) 0
      let src := BitVec.ofNat 64 (fieldAt e 16 8)
      let t := s.copyIn (r / 192) (s.queue l.queue).part (fieldAt e 12 4 / 32) src (spadAddr r (fieldAt e 4 1) (fieldAt e 8 4))
      match t.2 with
      | some a => .next (t.1.stopFault ld (loadRec (cfgAt 0x11 a) (fieldAt e 2 2) r))
      | none =>
        let pre := l.pre.filter fun n => n != i
        let l1 := { l with pre := pre }
        .next (t.1.setLoad ld (if pre.isEmpty then l1.ready else l1))
    else .next s

end Sys2Proof.Machine
end

