-- ==== Sys2Proof/Machine/Tasks.lean ====
section
/-!
DEFINITION. Tasks: the start of a tile, the publication of commits, releases by TRIG, packets appended by LAUNCH, the completion of
loads and packets, the stop of a faulting task and the commands that answer it (R150, R152, R260 to R266, R278, R306 to R309,
R321, R323, R326 to R328, R334 to R336, R349).
-/
namespace Sys2Proof.Machine

/- Ports of a load, on its regions or in its save images. -/

/-- The state with an element of region `r` of load `ld` changed, wherever the region's state is: on the region, or in the image that
was scanned out of it (R344). -/
def State.onPort (s : State) (ld r e : Nat) (h : Elem → Elem) : State :=
  if (s.savedPage ld r).isNone then (if (s.region r).owner = some ld then s.setElem r e (h (s.elem r e)) else s)
  else
    let upd := fun (v : SaveSlot) =>
      if v.load = ld ∧ v.reg = r then { v with img := v.img.setElem e (h (v.img.elem e)) } else v
    { s with sched := { s.sched with saves := s.sched.saves.map upd } }

/-- The regions of a load as they stand on the device and in its images. -/
def State.bodies (s : State) (ld : Nat) (l : Load) : List Region :=
  l.regions.map s.region ++ (s.sched.saves.filter fun v => v.load == ld).map (·.img)

/-- The accesses of the global ports of a region. -/
def Region.globals (g : Region) : List Access := (g.elem 144).port.accs ++ (g.elem 145).port.accs

/-- Whether an access reads under the snapshot of its phase or writes its version, and has not yet done so in whole (R262, R263). -/
def Access.versioned (a : Access) : Bool :=
  !a.slots.isEmpty && a.ph != .done && [0xC0, 0xC1, 0xC5, 0xC6, 0xC7, 0xC8].contains a.opc.toNat

/- The start of a tile (R150, R306). -/

/-- The channels of an element that receive the argument token. -/
def Elem.argChans (x : Elem) : List Nat := [0, 1, 2, 3].filter fun k => (x.field (144 + k)).getLsbD 15

/-- The next task identifier (R306): the counter skips 0. -/
def nextId (n : Word) : Word := if n + 1 = 0 then 1 else n + 1

/-- An argument token comes to Ik (R150): where the channel's mask refuses its tag, it stands in the router as any arriving token (R13).
(DEDUCED, log entry 138) -/
def Elem.pushArg (x : Elem) (cyc k : Nat) (t : Token) : Elem := if x.accepts k t then x.enqueue k t else x.send k ⟨cyc, t⟩

/-- TILE_START (R150, R306): the argument tokens are pushed into every ARG channel in one cycle once all of them have room, and the
task begins with the published watermark as its snapshot. (DEDUCED, log entry 138) -/
def execTileStart (ld : Nat) (s : State) : Host.Outcome State Fault Refusal :=
  match s.load ld with
  | none => .next s
  | some l =>
    let rs := l.regions
    if l.ph = .running ∧ l.due = true ∧ l.frecs.isEmpty = true ∧ l.abn = false ∧ l.stop = .none ∧ s.pwr.trip = false
        ∧ rs.all (fun r => (s.region r).rstate == 2 && (s.region r).elems.all fun e => (e.2.argChans).all e.2.inRoom) = true then
      let args := ((s.packet l.queue l.pkt).map (·.args)).getD (Oct.all 0)
      let t : Token := { dataTok 0 0xFF args with seq := BitVec.ofNat 12 l.tile }
      let s1 := rs.foldl (fun s r => s.onRegion r fun g => g.onElems fun x => x.argChans.foldl (fun x k => x.pushArg s.cyc k t) x) s
      let id := s.sched.nextTask
      let s2 := { s1 with sched := { s1.sched with nextTask := nextId id } }
      .next (s2.setLoad ld { l with due := false, task := some ⟨id, s.mem.pw⟩, ended := false })
    else .next s

/- Commits (R260 to R266, R326 to R328). -/

/-- Undone bytes that no snapshot reads any more are forgotten (R265). -/
def State.prune (s : State) : State :=
  let w := s.oldestSnap
  { s with mem := { s.mem with undo := s.mem.undo.filter fun u => decide (w < u.csn) } }

/-- The token of a boundary (R326): the CSN of its commit in lanes 0 and 1. -/
def csnToken (csn : Nat) : Token :=
  dataTok 0 0x03 (Oct.ofFn fun l => if l = 0 then BitVec.ofNat 32 csn else if l = 1 then BitVec.ofNat 32 (csn / 2 ^ 32) else 0)

/-- What follows the publication of a boundary beside its commit (R326, R328, R349): its token, the release by the graph's first TRIG,
or the packet that LAUNCH is to append. (DEDUCED, log entry 83) -/
def State.afterCommit (s : State) (ld : Nat) (l : Load) (csn : Nat) (b : Boundary) : State :=
  if b.kind = 0xEB then
    let a : Launch := ⟨ld, l.queue, l.pkt, (l.task.map (·.id)).getD 0, l.index, l.tile, s.mem.pw, b.q, b.arg, b.reg, b.elem, b.slot, b.chan, b.seq, b.out, none⟩
    { s with sched := { s.sched with launches := s.sched.launches ++ [a] } }
  else
    let s1 := match b.chan with
      | some c => s.onPort ld b.reg b.elem fun x => x.deliver c.toNat b.seq (csnToken csn)
      | none => s
    if b.kind = 0xEA then
      match s1.packet l.queue l.pkt with
      | some p =>
        if p.trig then s1
        else
          let s2 := s1.setPacket l.queue l.pkt { p with trig := true, relp := some (s1.queue l.queue).tail }
          { s2 with agenda := .event (.trigRelease l.queue l.pkt) :: s2.agenda }
      | none => s1
    else s1

/-- Whether an access is a versioned store that has not yet completed (R263). -/
def Access.storing (a : Access) : Bool := a.versioned && [0xC1, 0xC6, 0xC8].contains a.opc.toNat

/-- Whether a load or a store of the phases up to `ph` is still to be performed on the ports of a load, as `which` tells them apart.
(DEDUCED, log entry 49) -/
def State.pending (s : State) (ld : Nat) (l : Load) (ph : Nat) (which : Access → Bool) : Bool :=
  (s.bodies ld l).any fun g => g.globals.any fun a => which a && decide (a.phase ≤ ph)

/-- The load after the publication of a group of boundaries (R263, R327): the next phase reads under the published watermark, and a TEND
ends the task. `left` says that a load of the phase is still to read its version and snapshot, which are kept for it.
(DEDUCED, log entry 49) -/
def Load.passed (l : Load) (ph : Nat) (tend left : Bool) (pw : Nat) : Load :=
  let vers := SMap.del l.vers ph
  let l1 := { l with
    vers := vers, bounds := l.bounds.filter fun b => b.phase != ph
    vbad := l.vbad.filter fun n => (linesOf (vers.flatMap fun (v : Nat × List Host.Cell) => v.2)).contains n
    snaps := if left then SMap.set l.snaps ph (l.watermark Mem.reset ph) else []
    kept := if left then SMap.set l.kept ph (l.version ph) else [] }
  if tend then
    { l1 with past := (l.task.map fun t => SMap.set l.past t.id.toNat (t.csn, l.tile)).getD l.past, tile := l.tile + 1, restarts := 0, task := none, ended := false, due := decide (l.tile + 1 < l.tiles),
              ph := if l.tile + 1 < l.tiles then .running else .ended }
  else { l1 with task := l.task.map fun t => { t with csn := pw } }

/-- The fault of a version line that has met an uncorrectable error, found at the commit of a boundary (R263). -/
def versionFault (s : State) (b : Boundary) : FaultRec :=
  { FaultRec.of 0x0B 0x03 with
    page := (s.region b.reg).page, reg := b.reg, unit := b.elem, slot := b.slot.toNat, opc := b.kind }

/-- COMMIT_PUBLISH (R263): the boundaries that fired in one cycle commit together, the oldest first, once every store of their phase
has completed and its lines have been checked. A version without bytes takes no CSN. A stopping
fault or a trip keeps the commit back (R307, R413). (DEDUCED, log entry 49; DESIGN CHOICE, log entry 48) -/
def execCommitPublish (ld : Nat) (s : State) : Host.Outcome State Fault Refusal :=
  match s.load ld with
  | none => .next s
  | some l =>
    match l.bounds.head? with
    | none => .next s
    | some b0 =>
      let cells := l.version b0.phase
      let left := s.pending ld l b0.phase Access.versioned
      if s.pending ld l b0.phase Access.storing || !l.frecs.isEmpty || l.abn || s.pwr.trip then .next s
      else if (linesOf cells).any fun n => l.vbad.contains n then .next (s.stopFault ld (versionFault s b0))
      else
        let group := l.bounds.filter fun b => b.phase == b0.phase
        let csn := if cells.isEmpty then 0 else s.mem.csn
        let s1 := if cells.isEmpty then s else s.publish cells
        let s2 := group.foldl (fun s b => s.afterCommit ld l csn b) s1
        let tend := group.any fun b => b.kind == 0xE9
        .next ((s2.setLoad ld (l.passed b0.phase tend left s1.mem.pw)).prune)

/-- Whether a load's oldest boundary commits no byte, so that the next phase starts in the cycle after it (R263). -/
def Load.emptyBound (l : Load) : Bool := (l.bounds.head?.map fun b => (l.version b.phase).isEmpty).getD false

/-- The first packet, counted from PROG, behind the next `left` packets of a queue that have not started, from the packet `n` on and below
`tail`. -/
def Queue.releaseTo (x : Queue) (tail : Nat) : Nat → Nat → Nat → Nat
  | 0, n, _ => n
  | fuel + 1, n, left =>
    if left = 0 ∨ tail ≤ n then n
    else if ((SMap.find x.pkts (x.prog + BitVec.ofNat 32 n).toNat).map Packet.begun).getD false then x.releaseTo tail fuel (n + 1) left
    else x.releaseTo tail fuel (n + 1) (left - 1)

/-- TRIG_RELEASE (R328, R335): the next NREL packets of the queue that lay below TAIL as the commit was published and have not started may
start. (DEDUCED, log entry 83) -/
def execTrigRelease (q k : Nat) (s : State) : Host.Outcome State Fault Refusal :=
  match s.packet q k with
  | none => .next s
  | some p =>
    match p.relp with
    | some tail =>
      let x := s.queue q
      let n := x.releaseTo (x.standing tail) (2 ^ 17) ((BitVec.ofNat 32 k - x.prog).toNat + 1) p.nrel.toNat
      let old := (x.rel - x.prog).toNat
      let rel := if old ≤ 2 ^ 16 ∧ n ≤ old then x.rel else x.prog + BitVec.ofNat 32 n
      .next ((s.setQueue q { x with rel := rel }).onPacket q k fun p => { p with relp := none })
    | none => .next s

/- LAUNCH (R336, R349). -/

/-- The token of a LAUNCH whose packet is appended (R349), or its CMPL where it has no output (R348). -/
def launchToken (a : Launch) (idx : Word) : Token :=
  if a.out then dataTok 0 0x03 (Oct.ofFn fun l => if l = 0 then idx else if l = 1 then BitVec.ofNat 32 a.dest else 0)
  else cmplTok a.addr 0xEB 0

/-- The tail that appended packets extend: the shadow while one waits (R347). -/
def Queue.shownTail (x : Queue) : Word := x.shadow.getD x.tail

/-- PROG as software reads it (R347). -/
def Queue.shownProg (x : Queue) : Word := if x.swout then x.saved else x.prog

/-- The fault of a LAUNCH at the hub (R349): it stops the launching load where that still runs, and its record names the task that fired
the LAUNCH (R306). (DEDUCED, log entry 75) -/
def State.launchFault (s : State) (a : Launch) (f : FaultRec) : State :=
  let f1 := { f with page := (s.region a.reg).page, reg := a.reg, unit := a.elem, slot := a.slot.toNat, opc := 0xEB, who := some a.task }
  match s.load a.load with
  | some _ => s.stopFault a.load f1
  | none => s.queueRecord a.queue f1 a.task.toNat (a.pkt % 65536) a.index a.csn a.tile

/-- A packet that LAUNCH appends to its device queue, whose bytes are `bs` (R349). -/
def State.appendPacket (s : State) (a : Launch) (bs : List Byte) : State :=
  let t := (s.queue a.dest).shownTail
  let s2 := s.immediate 0 (cellsAt ((s.queue a.dest).packetAddr t.toNat) bs)
  let x2 := s2.queue a.dest
  let y := if x2.swout then { x2 with shadow := some (t + 1) } else { x2 with tail := t + 1 }
  let s3 := (s2.setQueue a.dest y).setPacket a.dest t.toNat { Packet.new with parent := some (a.queue, a.pkt) }
  match a.chan with
  | some c => s3.onPort a.load a.reg a.elem fun e => e.deliver c.toNat a.seq (launchToken a t)
  | none => s3

/-- The hub reads the packet of a LAUNCH, or its fault is taken (R349). -/
def State.launchRead (s : State) (a : Launch) : State :=
  let part := (s.queue a.queue).part
  let rest := s.sched.launches.erase a
  if (s.queue a.dest).part ≠ part then
    ({ s with sched := { s.sched with launches := rest } }).launchFault a (badAt (0x04, 0x06) (BitVec.ofNat 64 a.dest))
  else match s.agentRead 0 part a.addr 64 with
    | (.error b, s1) => ({ s1 with sched := { s1.sched with launches := rest } }).launchFault a (badAt b a.addr)
    | (.ok bs, s1) =>
      let got := s.sched.launches.map fun c => if c = a then { c with data := some bs } else c
      { s1 with sched := { s1.sched with launches := got } }

/-- LAUNCH_APPEND (R349): the packet of the oldest LAUNCH for device queue 64 + n whose packet the hub has read is appended once the queue
has room; until then the packets of the later ones are read, and may fault. -/
def execLaunchAppend (n : Nat) (s : State) : Host.Outcome State Fault Refusal :=
  let mine := s.sched.launches.filter fun a => a.dest == 64 + n
  let x := s.queue (64 + n)
  let room := decide ((x.shownTail - x.prog).toNat < 2 ^ x.log2n)
  if s.pwr.trip then .next s
  else match mine.head?.bind fun a => if room then a.data.map fun bs => (a, bs) else none with
    | some (a, bs) =>
      .next (({ s with sched := { s.sched with launches := s.sched.launches.erase a } }).appendPacket a bs)
    | none => match mine.find? fun a => a.data.isNone with
      | some a => .next (s.launchRead a)
      | none => .next s

/- Completion (R152, R153, R334). -/

/-- Whether an access may still write, read or fault: not one that waits on a word or in the replay queue, nor a load that waits for a
commit. For a stop (R307) a start that waits at an engine channel and a request to another device are under way too. -/
def State.live (s : State) (stop : Bool) (r e : Nat) (l : Load) (a : Access) : Bool :=
  (a.ph == .walk || a.ph == .home || (a.ph == .away && (stop || a.opc == 0xCB || a.opc == 0xCC)))
    && a.opc != 0xCE && (stop || a.opc != 0xCF)
    && !(!a.slots.isEmpty && a.slots.all fun p => s.queued r e a.id p.1)
    && (l.phaseOpen a.phase || !([0xC0, 0xC5, 0xC7].contains a.opc.toNat && a.ph == .home))

/-- Whether every access that the load has issued has come to rest, with its row operations, and its held banks may be closed (R257,
R307). (DEDUCED, log entry 120) -/
def State.settled (s : State) (stop : Bool) (l : Load) : Bool :=
  l.regions.all fun r =>
    let g := s.region r
    g.row.issued.isEmpty && g.row.cmpl.isEmpty && !s.draining r && ((stop && !l.abn) || s.mayClose r) && g.arr.pend.isEmpty
      && g.elems.all fun e => decide (e.1 < 128) || !(e.2.port.accs.any fun a => s.live stop r e.1 l a)

/-- LOAD_COMPLETE (R152, R153): the load's tokens are discarded and its regions released, but for those on which the successor places a
KEEP page; the successor is chosen. -/
def execLoadComplete (ld : Nat) (s : State) : Host.Outcome State Fault Refusal :=
  match s.load ld with
  | none => .next s
  | some l =>
    if l.ph = .ended ∧ l.bounds.isEmpty = true ∧ l.frecs.isEmpty = true ∧ l.abn = false ∧ l.stop = .none ∧ l.brk.isNone = true ∧ s.pwr.trip = false
        ∧ s.settled false l = true then
      let keep := (l.pages.zipIdx).filterMap fun p => p.1.reg.map fun r => (p.2, r)
      let s1 := s.removeLoad ld true
      let s2 := s1.onPacket l.queue l.pkt fun p => { p with load := none, next := l.index + 1, keepOf := keep }
      .next ((s2.chooseNext l.queue l.pkt l.index).prune)
    else .next s

/-- PROG covers every finished packet of its prefix (R334). `n` bounds the packets passed. -/
def Queue.advance : Nat → Queue → Queue
  | 0, x => x
  | n + 1, x =>
    match SMap.find x.pkts x.prog.toNat with
    | some p => if p.fin then Queue.advance n { x with pkts := SMap.del x.pkts x.prog.toNat, prog := x.prog + 1 } else x
    | none => x

/-- PACKET_FINISH (R334, R336): STATUS is written, then PROG covers the packet; while the queue is switched out PROG as read stands
(R347). -/
def execPacketFinish (q k : Nat) (s : State) : Host.Outcome State Fault Refusal :=
  match s.packet q k with
  | none => .next s
  | some p =>
    let waits := p.load.isSome || p.relp.isSome || !(s.children [(q, k)]).isEmpty
      || s.sched.launches.any fun a => a.queue == q && a.pkt == k
    if (p.st = 2 ∨ p.st = 3) ∧ p.fin = false ∧ waits = false then
      let s1 := s.writeStatus q k (if p.st = 2 then 2 else 3)
      let s2 := s1.setPacket q k { p with fin := true }
      let x := s2.queue q
      let y := Queue.advance (x.pkts.length + 1) { x with abn := x.abn || p.st == 3 }
      let s3 := s2.setQueue q y
      .next (if y.prog ≠ x.prog ∧ y.swout = false then s3.raiseVector q else s3)
    else .next s

/- Faults (R307 to R309, R321, R323). -/

/-- The version of a load is discarded and its snapshot released (R278). (DEDUCED, log entry 50) -/
def Load.discard (l : Load) : Load := { l with vers := [], bounds := [], task := none, ended := false, due := false, snaps := [], kept := [], vbad := [] }

/-- A region that its task's stop leaves standing (R307, R355): from weight-driven mode it goes to stream mode. -/
def Region.stand (g : Region) : Region :=
  let g1 := { g with rstate := 4, req := none }
  if g.mode = 2 then { g1 with mode := 0, arr := MArray.idle, seq := { Sequencer.idle with table := g.seq.table } } else g1

/-- The regions of a load stand stopped in place. -/
def State.stand (s : State) (l : Load) : State := l.regions.foldl (fun s r => s.onRegion r Region.stand) s

/-- Whether a load's stop can be carried through now: its units have stopped and its accesses come to rest, or it never ran (R307). -/
def State.mayStop (s : State) (l : Load) : Bool :=
  !l.frecs.isEmpty && !l.fires s.cyc
      && (l.ph == .waiting || l.ph == .loading || s.settled true l)

/-- The configuration that page `p` of a load ran with: that of its region, or of its save image (R308). -/
def State.ranConf (s : State) (ld p : Nat) (x : PageSt) : Option (SMap (SMap Half)) :=
  match x.reg with
  | some r => some (s.region r).config
  | none => ((s.sched.saves.find? fun v => v.load == ld && v.page == p).map fun v => v.img.config).or x.conf

/-- A held load is loaded again, to run its tile anew (R308, R324): on its own regions, or where it has lost one on others. What a region
keeps for a page of a load that was never activated stays as it is. (DEDUCED, log entries 78, 79) -/
def State.restartLoad (s : State) (ld : Nat) (l : Load) : State :=
  let pages := if l.again then (l.pages.zipIdx).map fun p => { p.1 with conf := s.ranConf ld p.2 p.1 } else l.pages
  let l1 := { l.discard with
    restarts := l.restarts + 1, stop := .none, brk := none, frecs := [], pre := [], pages := pages, redo := false }
  let rest := fun (g : Region) => if l.again then g.onElems Elem.clearQueues else g
  let s0 := l.regions.foldl (fun s r => (s.closeRows r false).onRegion r fun g =>
    { rest g with cfg := CfgStream.none, rstate := 1, req := none, live := 0xFFFF }) s
  let s1 := { s0 with
    mmu := { s0.mmu with replay := s0.mmu.replay.filter fun p => p.load != ld }
    sched := { s0.sched with saves := s0.sched.saves.filter fun v => v.load != ld } }
  let s2 :=
    if l.pages.all (·.reg.isSome) then
      let l2 := { l1 with ph := .loading, pages := pages.map fun p => { p with ptr := l.addr, base := l.addr, done := false } }
      (if l.again then (s1.setLoad ld l2).restoreConf l2 else s1.setLoad ld l2)
    else
      let s2 := l.regions.foldl State.freeRegion s1
      s2.setLoad ld { l1 with ph := .waiting, pages := pages.map fun p => { p with reg := none, done := false } }
  s2.rehold l.queue

/-- TASK_STOP (R307, R309, R321, R323): the version is discarded and the replay entries dropped, the records are written, and the
queue is held or the graph abandoned; a held load still names its stopped task (R341). A load that is being abandoned is released.
(DEDUCED, log entry 78) -/
def execTaskStop (ld : Nat) (s : State) : Host.Outcome State Fault Refusal :=
  match s.load ld with
  | none => .next s
  | some l =>
    if l.abn then
      if s.settled true l then
        let s0 := l.frecs.foldl (fun s f => s.loadRecord ld f) s
        .next ((((s0.removeLoad ld false).onPacket l.queue l.pkt fun p => { p with load := none }).rehold l.queue).prune)
      else .next s
    else if l.redo then .next (if s.settled true l then s.restartLoad ld l else s)
    else if l.ph ≠ .faulted ∧ (s.mayStop l = true ∨ (!l.frecs.isEmpty ∧ (l.ph = .waiting ∨ l.ph = .loading))) then
      let s1 := s.stand l
      let s2 := { s1 with mmu := { s1.mmu with replay := s1.mmu.replay.filter fun p => p.load != ld } }
      let s3 := l.frecs.foldl (fun s f => s.loadRecord ld f) s2
      let x : Queue := s3.queue l.queue
      let keepStop : StopPhase := if l.stop = .out then .out else .none
      let l1 := { l.discard with ph := .faulted, frecs := [], stop := keepStop, brk := none, task := l.task }
      let s4 := (s3.setLoad ld l1).prune
      if x.pol == 1 && (x.rlim == 0 || decide (l.restarts < x.rlim.toNat)) then .next (s4.rehold l.queue)
      else .next (s4.abandonPacket l.queue l.pkt)
    else .next s

/-- The loads of a queue that hold it: stopped by a fault, or by a BRK (R323, R330). -/
def State.heldLoads (s : State) (q : Nat) : List (Nat × Load) :=
  (s.loadsOf q).filter fun p => (p.2.ph == .faulted && !p.2.abn) || p.2.atBreak

/-- The packets of a queue that hold it (R324). -/
def State.heldPackets (s : State) (q : Nat) : List Nat :=
  (s.queue q).pkts.filterMap fun p => if p.2.bad then some p.1 else none

/-- A held load is to run its tile anew (R307, R308, R330): at once where a fault has stopped it; where a BRK has, its version is discarded,
and the restart follows once what it has issued has run to completion. -/
def State.askRestart (s : State) (ld : Nat) (l : Load) : State :=
  if l.ph = .faulted then s.restartLoad ld l
  else
    (s.setLoad ld { l.discard with brk := none, redo := true }).prune.rehold l.queue

/-- QFCMD 1 (R308, R323, R324, R330): each held tile of the queue is restarted, and each step of a graph that faulted is retried.
(DEDUCED, log entry 80) -/
def execQfcmdRestart (q : Nat) (s : State) : Host.Outcome State Fault Refusal :=
  fromHost (fun s =>
    let s1 := (s.heldLoads q).foldl (fun s p => s.askRestart p.1 p.2) s
    (s.heldPackets q).foldl (fun s k =>
      ((s.onPacket q k fun p => { p with bad := false, retries := p.retries + 1 }).stepGraph q k).rehold q) s1) s

/-- QFCMD 2 (R309, R323): the graphs that hold the queue are abandoned. (DEDUCED, log entry 80) -/
def execQfcmdAbandon (q : Nat) (s : State) : Host.Outcome State Fault Refusal :=
  fromHost (fun s =>
    let ks := (s.heldLoads q).map (·.2.pkt) ++ s.heldPackets q
    (ks.foldl (fun s k => s.abandonPacket q k) s).rehold q) s

/-- QFCMD 3 (R323, R330): a load stopped by BRK may resume on its exact state. (DEDUCED, log entry 80) -/
def execQfcmdResume (q : Nat) (s : State) : Host.Outcome State Fault Refusal :=
  fromHost (fun s =>
    ((s.loadsOf q).foldl (fun s p => if p.2.atBreak then s.setLoad p.1 { p.2 with brk := none } else s) s).rehold q) s

end Sys2Proof.Machine
end

