-- ==== Sys2Proof/Machine/Engines.lean ====
section
/-!
DEFINITION. The block-transfer engines (R279 to R300): the acceptance of a start, the elements of a copy with transformations,
reductions and the spill buffer, delivery to a fabric channel, and completion.
-/
namespace Sys2Proof.Machine

/- Channels and templates. -/

/-- Channel `ch` of region window `x`. -/
def State.chan (s : State) (x ch : Nat) : Channel := SMap.get (fun _ => Channel.free) s.eng.chans (64 * x + ch)

/-- The state with a channel replaced. -/
def State.setChan (s : State) (x ch : Nat) (c : Channel) : State :=
  { s with eng := { s.eng with chans := SMap.set s.eng.chans (64 * x + ch) c } }

/-- The state with the copy of a channel replaced. -/
def State.setCopy (s : State) (x ch : Nat) (c : Copy) : State := s.setChan x ch { s.chan x ch with run := some c }

/-- The key of an engine's channel among the ports of remote requests. -/
def engElem (ch : Nat) : Nat := 1000 + ch

/-- The channel is free again (R294, R299): answers of other devices to a copy that is over concern nobody. -/
def State.freeChan (s : State) (x ch : Nat) : State := s.setChan x ch { s.chan x ch with run := none }

/-- BASE and COUNT of a partition's range of the template tables (R282, R341). -/
def State.tplRange (s : State) (p : BitVec 4) : Nat × Nat :=
  let v := SMap.get (fun _ => (0 : BitVec 32)) s.sched.tpl p.toNat
  let b := (v.extractLsb' 0 12).toNat
  (b, Nat.min (v.extractLsb' 16 13).toNat (4096 - b))

/-- The sixteen 64-bit words of entry `n` of a stack's template table (R282). -/
def State.template (s : State) (stack n : Nat) : List (BitVec 64) :=
  (List.range 16).map fun w => SMap.get (fun _ => (0 : BitVec 64)) s.eng.tpl (65536 * stack + 16 * n + w)

/-- The 32-bit word at byte `o` of a template (R283). -/
def tplWord (t : List (BitVec 64)) (o : Nat) : Word := (t.getD (o / 8) 0).extractLsb' (8 * (o % 8)) 32

/-- Extent `k`. -/
def tplExt (t : List (BitVec 64)) (k : Nat) : Nat := (tplWord t (16 + 4 * k)).toNat
/-- Origin `k`. -/
def tplOrg (t : List (BitVec 64)) (k : Nat) : Int := (tplWord t (32 + 4 * k)).toInt
/-- Edge `k`. -/
def tplLim (t : List (BitVec 64)) (k : Nat) : Nat := (tplWord t (48 + 4 * k)).toNat
/-- Source stride `k`, 1 to 3. -/
def tplSstr (t : List (BitVec 64)) (k : Nat) : Int := (tplWord t (60 + 4 * k)).toInt
/-- Destination stride `k`, 1 to 3. -/
def tplDstr (t : List (BitVec 64)) (k : Nat) : Int := (tplWord t (72 + 4 * k)).toInt
/-- CTL. -/
def tplCtl (t : List (BitVec 64)) : Word := tplWord t 108
/-- A field of CTL. -/
def ctlField (t : List (BitVec 64)) (i n : Nat) : Nat := (tplCtl t).toNat / 2 ^ i % 2 ^ n
/-- XFORM. -/
def tplXform (t : List (BitVec 64)) : Nat := ctlField t 2 3
/-- RED. -/
def tplRed (t : List (BitVec 64)) : Nat := ctlField t 5 3
/-- CPL. -/
def tplCpl (t : List (BitVec 64)) : Nat := ctlField t 8 2
/-- DFAB. -/
def tplDfab (t : List (BitVec 64)) : Bool := (tplCtl t).getLsbD 11
/-- The element size E. -/
def tplE (t : List (BitVec 64)) : Nat := 2 ^ ctlField t 0 2
/-- The output element size O (R285). -/
def tplO (t : List (BitVec 64)) : Nat :=
  match tplXform t with
  | 0 => tplE t
  | 1 => 448
  | 2 => 896
  | _ => 128
/-- The number of elements (R285). -/
def tplCount (t : List (BitVec 64)) : Nat := tplExt t 0 * tplExt t 1 * tplExt t 2 * tplExt t 3

/-- Whether the engine refuses a template at acceptance (R284). -/
def templateBad (t : List (BitVec 64)) : Bool :=
  let x := tplXform t
  let e := tplE t
  let red := tplRed t
  let cpl := tplCpl t
  let dfab := tplDfab t
  let rnd := ctlField t 12 3
  let sat := ctlField t 15 1
  let al := fun (n : Nat) (v : Int) => v % (n : Int) != 0
  let dbase := (t.getD 1 0)
  let dst := fun (n : Nat) => al n dbase.toNat || (List.range 3).any fun k => al n (tplDstr t (k + 1))
  (tplCtl t).toNat / 2 ^ 19 != 0 || (tplCtl t).getLsbD 10 || (t.getD 15 0) != 0 || tplWord t 116 != 0 || (tplWord t 112).getLsbD 12
    || (tplWord t 112).getLsbD 13 || (tplWord t 112).getLsbD 14 || (tplWord t 112).getLsbD 15
    || (dfab && dbase.toNat / 2 ^ 13 != 0)
    || (List.range 4).any (fun k => tplExt t k == 0) || decide (4 ≤ x) || decide (6 ≤ red) || decide (2 ^ 31 ≤ tplCount t * tplO t)
    || (x != 0 && e != 1) || (x == 3 && tplWord t 104 != 0)
    || (x == 0 && (al e (t.getD 0 0).toNat || dst e || (List.range 3).any fun k => al e (tplSstr t (k + 1))))
    || (x != 0 && dst 16)
    || (red != 0 && (x == 3 || dfab))
    || ((red == 1 || red == 3) && !((x == 0 && e == 4) || x == 2))
    || ((red == 2 || red == 4) && !((x == 0 && e == 2) || x == 1))
    || (red == 5 && !(x == 0 && e == 4))
    || ((red == 1 || red == 2) && decide (4 < rnd)) || (red != 1 && red != 2 && (rnd != 0 || sat != 0))
    || (cpl == 3 && !dfab) || (dfab && (cpl == 1 || cpl == 2)) || (dfab && tplO t % 4 != 0) || (!dfab && ctlField t 16 3 != 0)
    || ((cpl == 1 || cpl == 2) && (t.getD 11 0).toNat % 8 != 0)
    || ((cpl == 0 || cpl == 3) && (t.getD 11 0 != 0 || t.getD 12 0 != 0)) || (cpl != 3 && tplWord t 112 != 0)

/- Faults (R298, R299). -/

/-- The record of a fault of an engine channel (R299, R320). (DEDUCED, log entry 67) -/
def engRec (b : Bad) (x ch : Nat) (st : Start) (a : BitVec 64) : FaultRec :=
  { badAt b a with eng := true, unit := x, slot := st.idx.toNat % 65536, chan := BitVec.ofNat 8 ch, notask := st.task == 0 }

/-- Whether the task that started a copy still runs (R299). -/
def State.starterRuns (s : State) (st : Start) : Bool :=
  match s.load st.load with
  | some l => st.task != 0 && l.ph != .faulted && !l.ended && (l.task.map (·.id)) == some st.task
  | none => false

/-- Takes a fault of a copy (R299): it stops the starting task while that runs, and otherwise its record alone is written. -/
def State.raiseEng (s : State) (st : Start) (f : FaultRec) : State :=
  if s.starterRuns st then s.stopFault st.load f
  else s.queueRecord st.queue f st.task.toNat (st.pkt % 65536) st.index 0 st.tile

/-- A faulting copy stops, and its channel is free; its spilled writes wait on (R299), as a copy of its own that awaits no answer. -/
def State.failCopy (s : State) (x ch : Nat) (st : Start) (b : Bad) (a : BitVec 64) : State :=
  let s1 := match (s.chan x ch).run with
    | some c =>
      if c.spill.isEmpty then s
      else { s with eng := { s.eng with
        ncopy := s.eng.ncopy + 1
        orphans := s.eng.orphans ++ [(64 * x + ch, { c with num := s.eng.ncopy, asked := none, acks := 0 })] } }
    | none => s
  (s1.freeChan x ch).raiseEng st (engRec b x ch st a)

/- Acceptance (R281, R284, R296). -/

/-- The access that fired a start in the engine of region `x` completes (R237), from another stack once the answer has crossed. -/
def State.startDone (s : State) (x : Nat) (st : Start) : State :=
  if (s.region st.reg).owner = some st.load ∧ s.savedPage st.load st.reg = none ∧ edgePath (x / 192) (st.reg / 192) ≠ [] then
    match (s.elem st.reg st.elem).acc st.id with
    | some a =>
      if a.ph = .away then (s.setAccess st.reg st.elem { a with ph := .done }).cross st.reg st.elem st.id ⟨3, xferBase + 4096 * x, 0, false⟩ true []
      else s
    | none => s
  else s.onPort st.load st.reg st.elem fun e =>
    match e.acc st.id with
    | some a => if a.ph = .away then (e.setAcc { a with ph := .done }).finish { a with ph := .done } else e
    | none => e

/-- Copy number `num` at its acceptance. -/
def newCopy (num : Nat) (t : List (BitVec 64)) (c : Channel) (st : Start) : Copy :=
  { num := num, tpl := t, adjs := c.adjs, adjd := c.adjd, by_ := st, pos := 0, keep := [], keepLost := [], fab := [], grp := 0, spill := [], hand := [], parked := [],
    got := [], asked := none, acks := 0, held := [], unsure := [], reloc := [] }

/- Places (R300). -/

/-- The region whose scratchpad or weight-store block holds a place. -/
def placeRegion (p : Phys) : Option Nat :=
  if p.kind = 1 then some ((p.addr - spadBase) / 0x80000) else none

/-- The place of a copy's byte now: a region that has been restored elsewhere is meant where its page is, unless the page table already
names that place (R300). (DEDUCED, log entry 69) -/
def Copy.moved (c : Copy) (p : Phys) : Phys :=
  match placeRegion p with
  | some r =>
    match SMap.find c.reloc r with
    | some q => { p with addr := p.addr - 0x80000 * r + 0x80000 * q }
    | none => p
  | none => p

/-- Whether a copy must pause at a place (R300): it lies in the scratchpad of a region that is stopped, or scanned out. -/
def State.pausedAt (s : State) (c : Copy) (p : Phys) : Bool :=
  match placeRegion (c.moved p) with
  | none => false
  | some r => c.held.contains r || c.unsure.contains r || (decide (4 ≤ (s.region r).rstate.toNat) && ((s.ownerLoad r).map fun l => l.ph != .faulted).getD false)

/- Reading (R285 to R290). -/

/-- A copy of the engine of region `x` reads or writes a place over the die edges (R378, R379): the request, and for a read the bytes.
(DESIGN CHOICE, log entry 101) -/
def State.copyCross (s : State) (x : Nat) (c : Copy) (p : Phys) (out : List Byte) (back : Option (List Byte)) : State :=
  let st := BitVec.ofNat 8 (4 + x / 192)
  let who := fun (b : Bool) => (⟨c.by_.load, x, 1000, c.num, b⟩ : Sender)
  let s1 := s.ship (x / 192) (stackOf p) st c.by_.part (who false) (leBytes 8 p.addr ++ out)
  match back with
  | some bs => s1.ship (stackOf p) (x / 192) st c.by_.part (who true) bs
  | none => s1

/-- What reading for an element comes to: the bytes; a fault at an address; a pause; or a request to another device. -/
inductive Got where
  | ok (s : State) (bs : List Byte)
  | bad (s : State) (b : Bad) (a : BitVec 64)
  | pause
  | away (s : State) (p : Phys) (a : BitVec 64) (n : Nat)

/-- The class and detail of a failed translation of an engine: a table lost to an error keeps its own, and any other takes the engine's
detail (R298, R319). (DEDUCED, log entry 68) -/
def engBad (d : Byte) (b : Bad) : Bad := if b.1 = 0x0B then b else (0x06, d)

/-- Where in a read of `n` bytes at a place the first 64-bit word with a lost byte begins, if there is one: of a byte that the copy keeps, what
it keeps counts (R227, R287). -/
def State.lostAt (s : State) (c : Copy) (q : Phys) (n : Nat) : Option Nat :=
  let lost := fun (a : Nat) => if q.kind = 1 ∧ (SMap.find c.keep a).isSome = true then c.keepLost.contains a else s.mem.lost.contains a
  if q.kind = 5 then none
  else ((List.range n).find? fun i => lost (q.addr + i)).map fun i => 8 * ((q.addr + i) / 8) - q.addr

/-- A source read of `n` bytes of one page (R285, R287, R299). (DEDUCED, log entry 65) -/
def State.engReadPage (s : State) (x : Nat) (c : Copy) (va : BitVec 64) (n : Nat) : Got :=
  match s.translate (x / 192) c.by_.part va .r with
  | (.error b, s1) => .bad s1 (engBad 0x03 b) va
  | (.ok p, s1) =>
    if p.kind = 3 then .bad s1 (0x06, 0x03) va
    else if s.cut x p then .bad s1 (0x0A, 0x01) va
    else if s.pausedAt c p then .pause
    else if p.kind = 4 then
      if (List.range n).all fun i => (SMap.find c.got (va.toNat + i)).isSome then
        .ok s1 ((List.range n).map fun i => (SMap.find c.got (va.toNat + i)).getD 0)
      else .away (s1.copyCross x c p [] none) p va n
    else if p.kind = 2 ∧ s.wsref = true then .pause
    else
      let q := c.moved p
      match s.lostAt c q n with
      | some i => .bad s1 (0x0B, 0x05) (va + BitVec.ofNat 64 i)
      | none =>
        let bs := ((s1.latest q n).zipIdx).map fun b => if p.kind = 1 then (SMap.find c.keep (q.addr + b.2)).getD b.1 else b.1
        .ok (s1.copyCross x c q [] (some bs)) bs

/-- A source read of at most 64 bytes, each page of it translated and checked (R285, R315). (DEDUCED, log entry 65) -/
def State.engRead (s : State) (x : Nat) (c : Copy) (va : BitVec 64) (n : Nat) : Got :=
  let k := 0x10000 - va.toNat % 0x10000
  if n ≤ k then s.engReadPage x c va n
  else match s.engReadPage x c va k with
    | .ok s1 bs => match s1.engReadPage x c (va + BitVec.ofNat 64 k) (n - k) with
      | .ok s2 cs => .ok s2 (bs ++ cs)
      | g => g
    | g => g

/-- A read of any length: 16 bytes at a time, or fewer at the end. -/
def State.engReadMany (s : State) (x : Nat) (c : Copy) : Nat → BitVec 64 → Nat → List Byte → Got
  | 0, _, _, acc => .ok s acc
  | f + 1, va, n, acc =>
    if n = 0 then .ok s acc
    else
      let k := Nat.min 16 n
      match s.engRead x c va k with
      | .ok s1 bs => s1.engReadMany x c f (va + BitVec.ofNat 64 k) (n - k) (acc ++ bs)
      | g => g

/-- The bytes of a packed line from its header on (R289). -/
def lineSize (h : List Byte) : Nat :=
  let m := (h.getD 8 0)
  let groups := ((List.range 7).filter fun g => m.getLsbD g).length
  if h.getD 7 0 = 0 then 128 else 16 + 16 * groups

/-- Reads `n` headers from `a` upward, each checked, and answers with the address of the line after them (R290). -/
def State.skipLines (s : State) (x : Nat) (c : Copy) : Nat → BitVec 64 → Except Got (State × BitVec 64)
  | 0, a => .ok (s, a)
  | n + 1, a =>
    match s.engRead x c a 16 with
    | .ok s1 h =>
      if lineOk (h.getD 7 0) (h.getD 8 0) then s1.skipLines x c n (a + BitVec.ofNat 64 (lineSize h))
      else .error (.bad s1 (0x06, 0x06) a)
    | g => .error g

/-- Group `g` of a line: its sixteen payload bytes, where it is present (R289). -/
def lineGroup (h pay : List Byte) (g : Nat) : Option (List Byte) :=
  let m := h.getD 8 0
  if m.getLsbD g then
    let before := if h.getD 7 0 = 0 then g else ((List.range g).filter fun k => m.getLsbD k).length
    some ((pay.drop (16 * before)).take 16)
  else none

/-- A line expanded (R290): the BF16 or FP32 values, or the dense line. -/
def expandLine (xform : Nat) (h pay : List Byte) : List Byte :=
  if xform = 3 then
    let gs := (List.range 7).map (lineGroup h pay)
    let scale := (gs.zipIdx).map fun g => if g.1.isSome then h.getD g.2 0 else 0
    let nzc := (gs.zipIdx).map fun g => if g.1.isSome then h.getD (9 + g.2) 0 else 0
    scale ++ [0, 0x7F] ++ nzc ++ (gs.map fun g => g.getD (List.replicate 16 0)).flatten
  else
    ((List.range 224).map fun v =>
      let w : Word := match lineGroup h pay (v / 32) with
        | none => 0
        | some b =>
          let by_ := b.getD (v % 32 / 2) 0
          let nib := if v % 2 = 0 then by_.extractLsb' 0 4 else by_.extractLsb' 4 4
          let sc := (h.getD (v / 32) 0).zeroExtend 32
          (roundConv (if xform = 1 then .bf16 else .fp32) .rne false (decodeF4 (nib.zeroExtend 32) sc)).bits
      leBytes (if xform = 1 then 2 else 4) w.toNat).flatten

/-- DecodeLine(n) (R290). -/
def State.decodeLine (s : State) (x : Nat) (c : Copy) (xform : Nat) (n : Int) : Got :=
  let rec_ := c.tpl.getD 0 0
  match s.engReadMany x c 4 rec_ 64 [] with
  | .ok s1 r =>
    let lpb := fieldAt r 24 4
    let pow2 := lpb != 0 && decide (lpb ≤ 65536) && lpb &&& (lpb - 1) == 0
    if fieldAt r 0 4 ≠ 0x31444C46 ∨ !pow2 ∨ fieldAt r 28 36 ≠ 0 then .bad s1 (0x06, 0x05) rec_
    else if n < 0 ∨ (fieldAt r 4 4 : Int) ≤ n then .bad s1 (0x06, 0x05) rec_
    else
      let k := n.toNat
      match s1.engRead x c (BitVec.ofNat 64 (fieldAt r 16 8 + 4 * (k / lpb))) 4 with
      | .ok s2 o =>
        match s2.skipLines x c (k % lpb) (BitVec.ofNat 64 (fieldAt r 8 8 + 16 * leNat o)) with
        | .error g => g
        | .ok (s3, a) =>
          match s3.engRead x c a 16 with
          | .ok s4 h =>
            if lineOk (h.getD 7 0) (h.getD 8 0) then
              match s4.engReadMany x c 7 (a + 16) (lineSize h - 16) [] with
              | .ok s5 pay => .ok s5 (expandLine xform h pay)
              | g => g
            else .bad s4 (0x06, 0x06) a
          | g => g
      | g => g
  | g => g

/-- The pad value of an element (R286). -/
def padValue (t : List (BitVec 64)) : List Byte :=
  let pad := (tplWord t 104).toNat
  match tplXform t with
  | 0 => leBytes (tplE t) pad
  | 1 => (List.replicate 224 (leBytes 2 pad)).flatten
  | 2 => (List.replicate 224 (leBytes 4 pad)).flatten
  | _ => [0, 0, 0, 0, 0, 0, 0, 0, 0x7F] ++ List.replicate 119 0

/-- Index `k` of the element of ordinal `n` (R285). -/
def tplIndex (t : List (BitVec 64)) (n k : Nat) : Nat :=
  let below := (List.range k).foldl (fun m j => m * tplExt t j) 1
  n / below % tplExt t k

/-- The source address of the element of ordinal `n` of a copy without transformation (R285). -/
def Copy.source (c : Copy) (n : Nat) : BitVec 64 :=
  let t := c.tpl
  let co := fun k => tplOrg t k + (tplIndex t n k : Int)
  t.getD 0 0 + c.adjs + BitVec.ofInt 64 (co 0 * tplE t + co 1 * tplSstr t 1 + co 2 * tplSstr t 2 + co 3 * tplSstr t 3)

/-- The value of the element of ordinal `n` (R285, R286). -/
def State.element (s : State) (x : Nat) (c : Copy) (n : Nat) : Got :=
  let t := c.tpl
  let co := fun k => tplOrg t k + (tplIndex t n k : Int)
  let inside := (List.range 4).all fun k => decide (0 ≤ co k ∧ co k < (tplLim t k : Int))
  let line := co 0 + co 1 * tplSstr t 1 + co 2 * tplSstr t 2 + co 3 * tplSstr t 3
  if !inside then .ok s (padValue t)
  else if tplXform t = 0 then
    s.engRead x c (c.source n) (tplE t)
  else s.decodeLine x c (tplXform t) (line + c.adjs.toInt)

/-- The destination address of the element of ordinal `n` (R285). -/
def Copy.target (c : Copy) (n : Nat) : BitVec 64 :=
  let t := c.tpl
  t.getD 1 0 + c.adjd + BitVec.ofInt 64 ((tplIndex t n 0 : Int) * tplO t + (tplIndex t n 1 : Int) * tplDstr t 1
    + (tplIndex t n 2 : Int) * tplDstr t 2 + (tplIndex t n 3 : Int) * tplDstr t 3)

/-- Whether byte `va` of a copy lies where the copy pauses. -/
def State.hits (s : State) (x : Nat) (c : Copy) (va : BitVec 64) : Bool :=
  match (s.translate (x / 192) c.by_.part va .nothing).1 with
  | .ok p => s.pausedAt c p
  | .error _ => false

/-- Whether what a copy has still to do reads or writes the scratchpad of a region (R300). (DEDUCED, log entry 69) -/
def State.touches (s : State) (x : Nat) (c : Copy) (r : Nat) : Bool :=
  let s1 := { s with wsref := false, regions := s.regions.map fun (g : Nat × Region) => (g.1, { g.2 with rstate := 2 }) }
  let c1 := { c with held := [r] }
  let t := c.tpl
  ((List.range (tplCount t - c.pos)).any fun k =>
      (match s1.element x c1 (c.pos + k) with | .pause => true | _ => false)
        || (!tplDfab t && (s1.hits x c1 (c.target (c.pos + k))
          || s1.hits x c1 (c.target (c.pos + k) + BitVec.ofNat 64 (tplO t - 1)))))
    || ((tplCpl t == 1 || tplCpl t == 2) && s1.hits x c1 (t.getD 11 0))
    || ((c.hand ++ c.spill.flatMap (·.cells)).any fun b => s1.hits x c1 (BitVec.ofNat 64 b.1))

/-- Whether a copy has still to read what another device has not returned, and which says where the rest of its source lies (R289).
(DEDUCED, log entry 69) -/
def State.unseen (s : State) (x : Nat) (c : Copy) : Bool :=
  tplXform c.tpl != 0 && (List.range (tplCount c.tpl - c.pos)).any fun k =>
    match s.element x c (c.pos + k) with | .away _ _ _ _ => true | _ => false

/-- A copy as the scan-out of region `r` leaves it: held from the region where it touches it, and paused once it comes to it where that is not
to be seen yet (R300). (DEDUCED, log entry 69) -/
def State.holdFrom (s : State) (x : Nat) (c : Copy) (r : Nat) : Copy :=
  if s.touches x c r then { c with held := setInsert c.held r }
  else if s.unseen x c then { c with unsure := setInsert c.unsure r }
  else c

/-- A copy of a load that is scanned out is held from the regions of that load that it touches (R300). (DEDUCED, log entry 69) -/
def State.heldNew (s : State) (x : Nat) (c : Copy) : Copy :=
  (s.sched.saves.filter fun v => v.load == c.by_.load).foldl (fun c v => s.holdFrom x c v.reg) c

/-- A channel begins the copy of a template for a start (R281). -/
def State.takeCopy (s : State) (x ch : Nat) (t : List (BitVec 64)) (c : Channel) (st : Start) : State :=
  { s with eng := { s.eng with ncopy := s.eng.ncopy + 1 } }.setCopy x ch (s.heldNew x (newCopy s.eng.ncopy t c st))

/-- COPY_ACCEPT (R281): a free channel accepts its oldest start. The template, the adjustments and the starter are captured and the template
is checked, all in one step. -/
def execCopyAccept (x ch : Nat) (s : State) : Host.Outcome State Fault Refusal :=
  let c := s.chan x ch
  match c.run, c.starts with
  | none, st :: rest =>
    if s.pwr.trip then .next s
    else
      let s1 := (s.setChan x ch { c with adjs := 0, adjd := 0, starts := rest }).startDone x st
      let r := s.tplRange st.part
      let n := r.1 + st.idx.toNat
      let at_ := BitVec.ofNat 64 (128 * n)
      if r.2 ≤ st.idx.toNat then .next (s1.raiseEng st (engRec (0x06, 0x01) x ch st at_))
      else
        let t := s.template (x / 192) n
        if templateBad t then .next (s1.raiseEng st (engRec (0x06, 0x02) x ch st at_))
        else
          let pages := (s.load st.load).map (·.npage)
          let page := ((t.getD 1 0).extractLsb' 0 10).toNat
          match tplDfab t, pages with
          | true, none => .next s1
          | true, some m =>
            if m ≤ page then .next (s1.raiseEng st (engRec (0x06, 0x0A) x ch st 0))
            else .next (s1.takeCopy x ch t c st)
          | false, _ => .next (s1.takeCopy x ch t c st)
  | _, _ => .next s

/- Writing (R267, R269, R287, R291, R292). -/

/-- Bytes cut at 64-bit words. -/
def cutWords : List Host.Cell → List (List Host.Cell)
  | [] => []
  | b :: bs =>
    match cutWords bs with
    | (d :: w) :: rest => if d.1 / 8 = b.1 / 8 then (b :: d :: w) :: rest else [b] :: (d :: w) :: rest
    | ws => [b] :: ws

/-- The words of an element behind those in hand: bytes of one word are written together (R267, R269). -/
def joinHand (hand : List Host.Cell) (ws : List (List Host.Cell)) : List (List Host.Cell) :=
  match hand, ws with
  | [], ws => ws
  | h, [] => [h]
  | h, w :: rest =>
    if (h.head?.map fun b => b.1 / 8) = (w.head?.map fun b => b.1 / 8) then (w.foldl (fun m b => SMap.set m b.1 b.2) h) :: rest
    else h :: w :: rest

/-- The words to write now, and what stays in hand: a word that is not complete, unless it is the copy's last. -/
def splitHand (last : Bool) (ws : List (List Host.Cell)) : List (List Host.Cell) × List Host.Cell :=
  match ws.getLast? with
  | some w => if last || w.length == 8 then (ws, []) else (ws.dropLast, w)
  | none => ([], [])

/-- Bytes cut into elements of a width. -/
def cutElems (w : Nat) : Nat → List Host.Cell → List (List Host.Cell)
  | 0, _ => []
  | f + 1, bs => if bs.isEmpty then [] else bs.take w :: cutElems w f (bs.drop w)

/-- The width of the elements of a reduction. -/
def redWidth (t : List (BitVec 64)) : Nat := if tplRed t = 2 ∨ tplRed t = 4 then 2 else 4

/-- A reduced element (R292): resident and incoming merged. -/
def merged (t : List (BitVec 64)) (old new : List Byte) : List Byte :=
  let red := tplRed t
  let w := redWidth t
  let f : FFmt := if w = 2 then .bf16 else .fp32
  ((List.range (new.length / w)).map fun i =>
    let a := BitVec.ofNat 32 (fieldAt old (w * i) w)
    let b := BitVec.ofNat 32 (fieldAt new (w * i) w)
    let rm := RMode.ofCode (ctlField t 12 3)
    let v : Word :=
      if red = 5 then a + b
      else if red = 3 ∨ red = 4 then (minMax true f a b).bits
      else (nanFirst f [decodeF f a, decodeF f b] (roundOpt f rm (ctlField t 15 1 == 1) (addE rm (decodeF f a) (decodeF f b)))).bits
    leBytes w v.toNat).flatten

/-- What a write comes to: it is done, it faults, it is to be spilled, or it pauses. -/
inductive Put where
  | ok (s : State) (c : Copy)
  | bad (s : State) (b : Bad) (a : BitVec 64)
  | park (s : State) (a : BitVec 64)
  | pause

/-- Sends a request of a copy to another device (R385). -/
def State.engRequest (s : State) (x ch : Nat) (c : Copy) (p : Phys) (ukind : Nat) (opc : Byte) (va : BitVec 64) (n : Nat)
    (data : List Byte) : State :=
  let tag := s.links.nextTag
  let units := (data.length + 31) / 32 + 1
  let hdr : Word := BitVec.ofNat 32 (opc.toNat + units * 2 ^ 8)
  let us := unitsOf (4 + x / 192) ukind tag.toNat hdr
    (padTo 32 (leBytes 8 p.addr ++ requestMods (Elem.fresh []) (fieldsOf 0) n [0xFF]) ++ data)
  let s1 := { s with links := { s.links with
    nextTag := tag + 1
    remote := s.links.remote ++ [(⟨tag, p.dev, 2 ^ 64 + c.num, none, x, engElem ch, 2 * va.toNat + ukind % 2, s.rt + hundredMicros,
      if ukind = 1 then n else 0, c.by_.part, 0xCF⟩ : Remote)] } }
  s1.post p.dev (4 + x / 192) us

/-- The places of a write, page by page, or the error of the first page that has one, at its address. -/
def State.engPlaces (s : State) (x : Nat) (c : Copy) : List (List Host.Cell) → Except (State × Bad × BitVec 64) (State × List (Phys × List Host.Cell))
  | [] => .ok (s, [])
  | w :: ws =>
    let va := BitVec.ofNat 64 ((w.head?.map (·.1)).getD 0)
    match s.translate (x / 192) c.by_.part va .w with
    | (.error b, s1) => .error (s1, b, va)
    | (.ok p, s1) =>
      match s1.engPlaces x c ws with
      | .error e => .error e
      | .ok (s2, ps) => .ok (s2, (p, w.map fun b => ((c.moved p).addr + (b.1 - va.toNat), b.2)) :: ps)

/-- A write to scratchpad: one step that sets the words full (R269), with the bytes that it replaces kept, and whether they were lost
(R287). -/
def State.spadWrite (s : State) (c : Copy) (cells : List Host.Cell) : State × Copy :=
  let keep := cells.foldl (fun k b => if (SMap.find k b.1).isSome then k else SMap.set k b.1 (s.mem.read b.1)) c.keep
  let lost := (cells.filter fun b => (SMap.find c.keep b.1).isNone && s.mem.lost.contains b.1).map (·.1)
  let s1 := s.immediate 1 cells
  ({ s1 with mem := cells.foldl (fun m b => m.setFull b.1 1) s1.mem }, { c with keep := keep, keepLost := lost.foldl setInsert c.keepLost })

/-- A write of a copy at one place that is not reduced, by the kind of memory (R267, R269, R298, R385). -/
def State.engStore (s : State) (x ch : Nat) (c : Copy) (va : BitVec 64) (p : Phys) (cells : List Host.Cell) : Put :=
  match p.kind.toNat with
  | 1 => .ok (s.spadWrite c cells).1 (s.spadWrite c cells).2
  | 2 =>
    let r := (p.addr - wstoreBase) / 0x100000
    if (s.region r).owner.isSome && decide (2 ≤ (s.region r).rstate.toNat) then .bad s (0x06, 0x07) va
    else .ok (s.immediate 2 cells) c
  | 4 =>
    let runs := cells.foldl (fun (l : List (List Host.Cell)) b => match l with
      | (d :: w) :: rest => if d.1 + 1 = b.1 then (b :: d :: w) :: rest else [b] :: l
      | _ => [b] :: l) []
    .ok (runs.reverse.foldl (fun s w =>
      let bs := w.reverse
      let a := (bs.head?.map (·.1)).getD 0
      s.engRequest x ch c { p with addr := a } 2 0xC1 (va + BitVec.ofNat 64 (a - p.addr)) bs.length (bs.map (·.2))) s)
      { c with acks := c.acks + runs.length }
  | 3 | 6 | 7 => .bad s (0x06, 0x04) va
  | _ => .ok (s.immediate p.kind cells) c

/-- One write of a copy (R285, R291, R292): the bytes of one 64-bit word, or a reduced element, which may cross a page.
(DEDUCED, log entry 65) -/
def State.engWrite (s : State) (x ch : Nat) (c : Copy) (w : List Host.Cell) : Put :=
  let va := BitVec.ofNat 64 ((w.head?.map (·.1)).getD 0)
  let halves := [w.filter fun b => b.1 / 0x10000 == va.toNat / 0x10000, w.filter fun b => b.1 / 0x10000 != va.toNat / 0x10000]
  match s.engPlaces x c (halves.filter fun l => !l.isEmpty) with
  | .error (s1, b, a) => if b = (0x04, 0x01) then .park s1 a else .bad s1 (engBad 0x04 b) a
  | .ok (s1, ps) =>
    if tplRed c.tpl ≠ 0 ∧ (ps.any fun p => p.1.kind != 1) = true then .bad s1 (0x06, 0x08) va
    else if ps.any fun p => s.cut x p.1 then .bad s1 (0x0A, 0x01) va
    else if ps.any fun p => s.pausedAt c p.1 then .pause
    else
    let s1 := ps.foldl (fun s p => s.copyCross x c (c.moved p.1) (p.2.map (·.2)) none) s1
    if tplRed c.tpl ≠ 0 then
      let cells := ps.flatMap (·.2)
      let new := merged c.tpl (cells.map fun b => s1.mem.read b.1) (cells.map (·.2))
      let t := s1.spadWrite c (cells.zipWith (fun b v => (b.1, v)) new)
      .ok t.1 t.2
    else match ps with
      | p :: _ => s1.engStore x ch c va (c.moved p.1) p.2
      | [] => .ok s1 c

/-- The copies that may hold spilled writes, with their channels. -/
def State.copies (s : State) : List (Nat × Copy) :=
  (s.eng.chans.filterMap fun k => k.2.run.map fun c => (k.1, c)) ++ s.eng.orphans

/-- The bytes in the spill buffer of a stack (R291). -/
def State.spilled (s : State) (stack : Nat) : Nat :=
  s.copies.foldl (fun n k => if k.1 / 64 / 192 = stack then n + k.2.spill.foldl (fun m w => m + w.cells.length) 0 else n) 0

/-- The PARKED record of a spilled write (R291, R318): the starting task's first park on the page. -/
def State.spillRecord (s : State) (x ch : Nat) (c : Copy) (va : BitVec 64) : State :=
  let f := { engRec (0x04, 0x01) x ch c.by_ va with parked := true }
  s.notePark c.by_.load c.by_.task (va.toNat / 0x10000) fun s =>
    if s.starterRuns c.by_ then s.loadRecord c.by_.load f else s.raiseEng c.by_ f

/-- A write goes into the spill buffer (R291), with the page that was not mapped; none where the buffer is full. -/
def State.spillWrite (s : State) (x ch : Nat) (c : Copy) (va : BitVec 64) (w : List Host.Cell) : Option (State × Copy) :=
  if 0x100000 < s.spilled (x / 192) + w.length then none
  else
    let page := va.toNat / 0x10000
    let s1 := s.spillRecord x ch c va
    let c1 := { c with spill := c.spill ++ [⟨s.eng.nspill, page, w⟩], parked := setInsert c.parked page }
    some ({ s1 with eng := { s1.eng with nspill := s.eng.nspill + 1 } }.setCopy x ch c1, c1)

/-- Writes words or reduced elements one by one. A write to a page that holds spilled writes goes behind them. None says that the copy must
wait. -/
def State.putPieces (s : State) (x ch : Nat) (c : Copy) : List (List Host.Cell) → Except (State × Bad × BitVec 64) (Option (State × Copy))
  | [] => .ok (some (s, c))
  | w :: ws =>
    let behind := w.find? fun b => c.spill.any fun e => e.page == b.1 / 0x10000
    let put : Put := match behind with
      | some b => .park s (BitVec.ofNat 64 b.1)
      | none => s.engWrite x ch c w
    match put with
    | .ok s1 c1 => s1.putPieces x ch c1 ws
    | .bad s1 e a => .error (s1, e, a)
    | .pause => .ok none
    | .park s1 a => match s1.spillWrite x ch c a w with
      | none => .ok none
      | some (s2, c2) => s2.putPieces x ch c2 ws

/-- Whether a copy to a fabric channel has lost its load, or must wait for it (R296, R300). -/
def State.fabricGone (s : State) (c : Copy) : Bool := (s.load c.by_.load).isNone

/-- The cells of an element at its destination, by virtual address. -/
def elemCells (va : BitVec 64) (bs : List Byte) : List Host.Cell := bs.mapIdx fun i b => ((va + BitVec.ofNat 64 i).toNat, b)

/-- An element is delivered to memory (R285, R267, R292): reduced elements one by one; else whole 64-bit words, of which an incomplete last
one stays in hand until its other bytes have come. -/
def State.deliver (s : State) (x ch : Nat) (c : Copy) (va : BitVec 64) (bs : List Byte) : Except (State × Bad × BitVec 64) (Option (State × Copy)) :=
  let cells := elemCells va bs
  if tplRed c.tpl ≠ 0 then s.putPieces x ch c (cutElems (redWidth c.tpl) bs.length cells)
  else
    let t := splitHand (decide (tplCount c.tpl ≤ c.pos)) (joinHand c.hand (cutWords cells))
    s.putPieces x ch { c with hand := t.2 } t.1

/-- COPY_ELEMENT (R285): the next element is read or padded and delivered. An element that cannot be written in whole waits before
its first byte, and so does a copy that touches a region that is scanned out (R300). (DEDUCED, log entry 65) -/
def execCopyElement (x ch : Nat) (s : State) : Host.Outcome State Fault Refusal :=
  match (s.chan x ch).run with
  | none => .next s
  | some c =>
    if tplDfab c.tpl && s.fabricGone c then .next (s.freeChan x ch)
    else if s.pwr.trip ∨ s.inFlight x = true ∨ tplCount c.tpl ≤ c.pos ∨ c.asked.isSome = true ∨ c.held ≠ [] ∨ (tplDfab c.tpl = true ∧ 32 ≤ c.fab.length) then .next s
    else match s.element x c c.pos with
      | .pause => .next s
      | .bad s1 b a => match s1.putPieces x ch { c with hand := [] } (if c.hand.isEmpty then [] else [c.hand]) with
        | .error (s2, b, a) => .next (s2.failCopy x ch c.by_ b a)
        | .ok none => .next s
        | .ok (some (s2, c2)) => .next ((s2.setCopy x ch c2).failCopy x ch c.by_ b a)
      | .away s1 p a n =>
        .next ((s1.engRequest x ch c p 1 0xC0 a n []).setCopy x ch { c with asked := some a })
      | .ok s1 bs =>
        let c1 := { c with pos := c.pos + 1, got := [] }
        if tplDfab c.tpl then .next (s1.setCopy x ch { c1 with fab := c.fab ++ bs })
        else match s1.deliver x ch c1 (c.target c.pos) bs with
          | .error (s2, b, a) => .next (s2.failCopy x ch c.by_ b a)
          | .ok none => .next s
          | .ok (some (s2, c2)) => .next (s2.setCopy x ch c2)

/-- The CMPL of a completion group (R296). -/
def groupToken (tag n : Nat) : Token :=
  { cmplTok 0 0xCF 0 with lanes := Oct.ofFn fun l =>
      if l = 0 then BitVec.ofNat 32 tag else if l = 1 then BitVec.ofNat 32 n else if l = 2 then 0xCF else 0 }

/-- DFAB_PUSH (R296): the global port pushes the next token of the copy, or the CMPL of a group that is complete. (DEDUCED, log entry 66) -/
def execDfabPush (x ch : Nat) (s : State) : Host.Outcome State Fault Refusal :=
  match (s.chan x ch).run with
  | none => .next s
  | some c =>
    let t := c.tpl
    if !tplDfab t then .next s
    else if s.fabricGone c then .next (s.freeChan x ch)
    else if c.held ≠ [] then .next s
    else
      let d := t.getD 1 0
      match ((s.load c.by_.load).bind fun l => l.pages[(d.extractLsb' 0 10).toNat]?).bind (·.reg) with
      | none => .next s
      | some r =>
        let e := 144 + (d.extractLsb' 10 1).toNat
        let o := (d.extractLsb' 11 2).toNat
        let y := s.elem r e
        let ovr := decide (tplCount t ≤ c.pos)
        let wcnt := (tplWord t 112).toNat / 2 ^ 16
        let tag := (tplWord t 112).toNat % 2 ^ 12
        let dueGroup := tplCpl t == 3 && ((wcnt != 0 && c.grp == wcnt) || (ovr && c.fab.isEmpty && c.grp != 0))
        if s.clocked r = false ∨ y.room o = false then .next s
        else if dueGroup then
          .next ((s.setElem r e (y.pushStream o (groupToken tag c.grp))).setCopy x ch { c with grp := 0 })
        else if c.fab.isEmpty ∨ (c.fab.length < 32 ∧ ovr = false) ∨ y.mayPush o kData = false then .next s
        else
          let b := c.fab.take 32
          let vm := maskOf fun l => decide (4 * l < b.length)
          let tok := dataTok (BitVec.ofNat 3 (ctlField t 16 3)) vm (octOfBytes fun n => b.getD n 0)
          .next ((s.setElem r e (y.pushStream o tok)).setCopy x ch { c with fab := c.fab.drop 32, grp := c.grp + 1 })

/- Completion (R294, R295). -/

/-- A barrier arrival of `n` bytes (R295): the new word and whether the phase flips, or none where it faults. -/
def barrierWord (w : BitVec 64) (n : Nat) : Option (BitVec 64 × Bool) :=
  let exp := (w.extractLsb' 32 32).toNat
  let a := (w.extractLsb' 0 31).toNat + n
  if exp = 0 ∨ 2 ^ 31 ≤ exp then none
  else
    let f := decide (exp ≤ a)
    let a' := if f then a - exp else a
    if 2 ^ 31 ≤ a' then none
    else
      let ph := w.getLsbD 31 != f
      some (BitVec.ofNat 64 (exp * 2 ^ 32 + (if ph then 2 ^ 31 else 0) + a'), f)

/-- COPY_COMPLETION (R294): once every write has been applied, the completion action is performed and the channel is free.
(DEDUCED, log entry 151) -/
def execCopyCompletion (x ch : Nat) (s : State) : Host.Outcome State Fault Refusal :=
  match (s.chan x ch).run with
  | none => .next s
  | some c =>
    let t := c.tpl
    if s.pwr.trip ∨ s.inFlight x = true ∨ c.pos < tplCount t ∨ c.held ≠ [] ∨ !c.spill.isEmpty ∨ c.acks ≠ 0 ∨ !c.fab.isEmpty ∨ (tplCpl t = 3 ∧ c.grp ≠ 0) then .next s
    else if tplCpl t = 0 ∨ tplCpl t = 3 then .next (s.freeChan x ch)
    else
      let a := t.getD 11 0
      match s.translate (x / 192) c.by_.part a .w with
      | (.error b, s1) => .next (s1.failCopy x ch c.by_ (engBad 0x09 b) a)
      | (.ok p, s1) =>
        if p.kind ≠ 1 then .next (s1.failCopy x ch c.by_ (0x06, 0x09) a)
        else if s.cut x p then .next (s1.failCopy x ch c.by_ (0x0A, 0x01) a)
        else if s.pausedAt c p then .next s
        else
          let s1 := s1.copyCross x c (c.moved p) [] none
          let q := (c.moved p).addr
          if tplCpl t = 1 then
            let s2 := s1.immediate 1 (cellsAt q (leBytes 8 (t.getD 12 0).toNat))
            .next ({ s2 with mem := s2.mem.setFull q 8 }.freeChan x ch)
          else if s1.mem.isLost q 8 then .next (s1.failCopy x ch c.by_ (0x0B, 0x01) a)
          else match barrierWord (BitVec.ofNat 64 (s1.mem.readLe q 8)) (tplCount t * tplO t) with
            | none => .next (s1.failCopy x ch c.by_ (0x06, 0x09) a)
            | some (w, f) =>
              let s2 := s1.immediate 1 (cellsAt q (leBytes 8 w.toNat))
              .next ((if f then { s2 with mem := s2.mem.setFull q 8 } else s2).freeChan x ch)

/- Fault service of spilled writes (R291, R318), and the answers of other devices. -/

/-- The copies of a partition that have spilled to a page, with their channels. -/
def State.spillers (s : State) (part : BitVec 4) (page : Nat) : List (Nat × Copy) :=
  s.copies.filter fun k => k.2.by_.part == part && k.2.spill.any fun w => w.page == page

/-- Puts a copy back after a replay or an answer: a running one goes on, or ends with its fault; an ended one is kept while some of its writes
remain or are not acknowledged. -/
def State.putBack (s : State) (k : Nat) (running : Bool) (old c : Copy) (fault : Option (Bad × BitVec 64)) : State :=
  let x := k / 64
  let ch := k % 64
  if running then
    match fault with
    | none => s.setCopy x ch c
    | some f => (s.setCopy x ch c).failCopy x ch c.by_ f.1 f.2
  else
    let rest := s.eng.orphans.erase (k, old)
    let s1 := { s with eng := { s.eng with orphans := if c.spill.isEmpty ∧ c.acks = 0 then rest else rest ++ [(k, c)] } }
    match fault with
    | none => s1
    | some f => s1.raiseEng c.by_ (engRec f.1 x ch c.by_ f.2)

/-- Whether a copy is the one running on its channel. -/
def State.isRunning (s : State) (k : Nat) (c : Copy) : Bool := (s.chan (k / 64) (k % 64)).run == some c

/-- The oldest spilled write to a page of an address space, with its channel and copy (R291). -/
def State.nextSpill (s : State) (part : BitVec 4) (page : Nat) : Option (Nat × Copy × Spill) :=
  ((s.spillers part page).flatMap fun k => (k.2.spill.filter fun w => w.page == page).map fun w => (k.1, k.2, w)).foldl
    (fun (m : Option (Nat × Copy × Spill)) e => match m with
      | some d => if e.2.2.seq < d.2.2.seq then some e else m
      | none => some e) none

/-- A copy without the spilled write that has been replayed. -/
def Copy.unspill (c : Copy) (e : Spill) : Copy :=
  let rest := c.spill.filter fun w => w.seq != e.seq
  { c with spill := rest, parked := c.parked.filter fun p => rest.any fun w => w.page == p }

/-- A page whose replay has ended. -/
def State.notDue (s : State) (part : BitVec 4) (page : Nat) : State :=
  { s with eng := { s.eng with due := s.eng.due.filter fun d => d != (part, page) } }

/-- Replays the spilled writes to a page in the order in which they were spilled, across all copies (R291), as long as none must wait. One
that meets a fault ends its copy's writes to the page with it; one whose page is not mapped after all parks again. -/
def State.replayLoop (part : BitVec 4) (page : Nat) : Nat → State → State
  | 0, s => s
  | f + 1, s =>
    match s.nextSpill part page with
    | none => s.notDue part page
    | some (k, c, e) =>
      let x := k / 64
      let ch := k % 64
      let running := s.isRunning k c
      if s.inFlight x then s else
      match s.engWrite x ch c e.cells with
      | .ok s1 c1 => State.replayLoop part page f (s1.putBack k running c (c1.unspill e) none)
      | .bad s1 b a =>
        let c1 := { c with spill := c.spill.filter fun w => w.page != page, parked := c.parked.filter fun p => p != page }
        State.replayLoop part page f (s1.putBack k running c c1 (some (b, a)))
      | .park s1 a =>
        let p := a.toNat / 0x10000
        let c1 := { c with spill := c.spill.map fun w => if w.seq = e.seq then { w with page := p } else w, parked := setInsert c.parked p }
        let s2 := (s1.spillRecord x ch c a).putBack k running c c1 none
        if p = page then s2.notDue part page else State.replayLoop part page f s2
      | .pause => s

/-- The number of spilled writes. -/
def State.spillCount (s : State) : Nat := s.copies.foldl (fun n k => n + k.2.spill.length) 0

/-- The spilled writes to a page of an address space are replayed, once it is mapped (R291); what must wait is tried again in every cycle. -/
def State.replayPage (s : State) (part : BitVec 4) (page : Nat) : State :=
  let s1 := { s with eng := { s.eng with due := if s.eng.due.contains (part, page) then s.eng.due else s.eng.due ++ [(part, page)] } }
  State.replayLoop part page (s1.spillCount + 1) s1

/-- The replays that had to wait go on (R291). -/
def State.replayDue (s : State) : State := s.eng.due.foldl (fun s d => State.replayLoop d.1 d.2 (s.spillCount + 1) s) s

/-- The spilled writes to an unmappable page are discarded, with ENGINE 0x04 (R291, R318). -/
def State.dropPage (s : State) (part : BitVec 4) (page : Nat) : State :=
  (s.spillers part page).foldl (fun s k =>
    let at_ := ((k.2.spill.find? fun w => w.page == page).bind fun w => w.cells.find? fun b => b.1 / 0x10000 == page).map fun b => BitVec.ofNat 64 b.1
    s.putBack k.1 (s.isRunning k.1 k.2) k.2
      { k.2 with spill := k.2.spill.filter fun w => w.page != page, parked := k.2.parked.filter fun p => p != page }
      (some ((0x06, 0x04), at_.getD 0))) (s.notDue part page)

/-- Another device has answered a request of a copy: bytes of its source, or the acknowledgement of a store (R385). -/
def State.copyAnswer (s : State) (p : Remote) (status : Byte) (data : List Byte) : State :=
  let k := 64 * p.reg + (p.elem - 1000)
  let at_ := BitVec.ofNat 64 (p.id / 2)
  let load := p.id % 2 == 1
  match s.copies.find? fun e => e.1 == k && 2 ^ 64 + e.2.num == p.load with
  | none => s
  | some (_, c) =>
    let c1 := if load then { c with asked := none } else { c with acks := c.acks - 1 }
    let put := (if load then s.ship 4 (p.reg / 192) (BitVec.ofNat 8 (4 + p.reg / 192)) c.by_.part ⟨c.by_.load, p.reg, 1000, c.num, true⟩ data
      else s).putBack k (s.isRunning k c) c
    if status = 2 then put c1 (some ((0x0B, 0x05), at_))
    else if status ≠ 0 then put c1 (some ((0x06, if load then 0x03 else 0x04), at_))
    else if load then put { c1 with got := (cellsAt at_.toNat data).foldl (fun m b => SMap.set m b.1 b.2) c.got } none
    else put c1 none

/-- A request of a copy has failed: its copy ends (R299). -/
def State.copyLoses (s : State) (p : Remote) (b : Bad) : State :=
  let k := 64 * p.reg + (p.elem - 1000)
  match s.copies.find? fun e => e.1 == k && 2 ^ 64 + e.2.num == p.load with
  | none => s
  | some (_, c) => s.putBack k (s.isRunning k c) c { c with acks := c.acks - (1 - p.id % 2) } (some (b, BitVec.ofNat 64 (p.id / 2)))

end Sys2Proof.Machine
end

