-- ==== Sys2Proof/Machine/Praline.lean ====
section
/-!
DEFINITION. Weight-driven mode: WDENTER, the fetch and check of praline blocks, and the twelve blocks (R355 to R371).
-/
namespace Sys2Proof.Machine

/-- The sequencer of a region changed. -/
def State.onSeq (s : State) (r : Nat) (h : Sequencer → Sequencer) : State := s.onRegion r fun g => { g with seq := h g.seq }

/-- A PRALINE fault (R361): it names the lead and, but for a failed translation, the WDENTER slot. -/
def State.pralineFault (s : State) (r : Nat) (det : Byte) (sl : Nat) (a : BitVec 64) : State :=
  s.raiseAs r 0 0 sl 0xF1 (badAt (0x07, det) a)

/-- The number of the WDENTER slot that entered the chain. -/
def State.wdSlot (s : State) (r : Nat) : Nat := (s.region r).seq.slot.toNat

/-- WDENTER (R355 to R357): ready while the array is idle and no quarter is armed. -/
def execWdenter (f : Fields) (s : State) : Host.Outcome State Fault Refusal :=
  let g := s.region s.cur.reg
  if g.arr.op = 0 ∧ g.arr.pend.isEmpty = true ∧ g.arr.armed.isEmpty = true then
    fire 0xF1 f (Look.lane f) (fun x =>
      let a := srcPair x f f.sa 0
      let bad := match laneFault s x f with
        | some r => some r
        | none =>
          if g.mode = 0 then some (FaultRec.of 0x02 0x13)
          else if a.toNat % 128 ≠ 0 then some (badAt (0x07, 0x02) a) else none
      let go := fun (y : Elem) (o : Option (BitVec 2)) => Fired.done (closePlain y f) (onRegionAfter s.cur.reg fun g =>
        { g with mode := 2, seq := { Sequencer.idle with
            active := true, addr := a, table := g.seq.table, out := o, seq := ruleSeq x f, slot := BitVec.ofNat 4 s.cur.slot, from_ := s.cyc + 1 } })
      (match outOf f.dst with
        | some c => if x.mayPush c kData then go (x.reserve c kData) (some (BitVec.ofNat 2 c)) else .wait
        | none => go x none).unless bad) s
  else .next s

/- Fetch and checks (R358 to R362, R364 to R370). -/

/-- The lines of a block of `n` payload units (R359). -/
def blockLines (n : Nat) : Nat := Nat.max 1 ((n + 6) / 7)

/-- What one line of a chain gives: its bytes and whether a word of it is lost, a failed translation, a page without X, or a wait. -/
inductive Line where
  | ok (bs : List Byte) (lost : Bool)
  | mem (b : Bad)
  | noX
  | wait
deriving DecidableEq

/-- Reads one line of a chain (R361): as an LD of the task reads it, from the row store or the weight store. The kind of its page is checked
before the permission; one behind a down edge stops the task (R382). -/
def State.readLine (s : State) (r : Nat) (a : BitVec 64) : Line × State :=
  let l := s.ownerLoad r
  let ph := (l.map (·.phase)).getD 0
  match s.translate (r / 192) (s.partOf r) a .x with
  | (.error b, s1) => (if b = (0x07, 0x01) then .noX else .mem b, s1)
  | (.ok p, s1) =>
    if p.kind ≠ 0 ∧ p.kind ≠ 2 then (.mem (0x04, 0x24), s1)
    else if s1.cut r p then (.mem (0x0A, 0x01), s1)
    else if p.kind = 2 then
      if s1.wsref then (.wait, s1) else (.ok (s1.latest p 128) (s1.mem.isLost p.addr 128), s1)
    else if (l.map fun l => l.phaseOpen ph).getD true then
      (.ok ((List.range 128).map fun i => s1.taskByte l ph (p.addr + i)) (s1.taskLost l ph p.addr 128), s1)
    else (.wait, s1)

/-- The key of a sequencer among the ports of remote requests and flits. -/
def seqElem : Nat := 2000

/-- A read of a region's sequencer crosses the die edges to the place that it reads, or with `back` its answer (R378, R379).
(DESIGN CHOICE, log entry 101) -/
def State.fetchCross (s : State) (r : Nat) (p : Phys) (back : Bool) (data : List Byte) : State :=
  s.ship (if back then stackOf p else r / 192) (if back then r / 192 else stackOf p) (BitVec.ofNat 8 (r / 192)) (s.partOf r)
    ⟨s.loadOf r, r, seqElem, 0, back⟩ data

/-- The lines of a block, whose reading began in the state `t`, cross the die edges: a request for each, and the line. -/
def State.linesCross (s t : State) (r : Nat) (bs : List Byte) : Nat → BitVec 64 → State
  | 0, _ => s
  | n + 1, a =>
    match t.translate (r / 192) (t.partOf r) a .x with
    | (.ok p, t1) => ((s.fetchCross r p false (leBytes 8 p.addr)).fetchCross r p true (bs.take 128)).linesCross t1 r (bs.drop 128) n (a + 128)
    | (.error _, _) => s

/-- Reads `n` lines of a chain. -/
def State.readLines (s : State) (r : Nat) : Nat → BitVec 64 → List Line × State
  | 0, _ => ([], s)
  | n + 1, a =>
    let t := s.readLine r a
    let u := t.2.readLines r n (a + 128)
    (t.1 :: u.1, u.2)

/-- The payload of a block from the bytes of its lines (R359). -/
def payloadOf (len : Nat) (bs : List Byte) : List Byte :=
  ((List.range (16 * len)).map fun p => bs.getD (128 * (p / 112) + 16 + p % 112) 0)

/-- Whether the continuation headers of a block keep R359. -/
def continuesOk (lines : Nat) (bs : List Byte) : Bool :=
  (List.range lines).all fun k =>
    k == 0 || (bs.getD (128 * k) 0 == 0xFE && bs.getD (128 * k + 1) 0 == BitVec.ofNat 8 k
      && (List.range 14).all fun i => bs.getD (128 * k + 2 + i) 0 == 0)

/-- The CRC-16 of a block (R359). -/
def blockCrc (len : Nat) (bs : List Byte) : Half :=
  let lines := blockLines len
  let covered := (List.range lines).flatMap fun k =>
    let pay := Nat.min 112 (16 * len - 112 * k)
    (bs.drop (128 * k)).take (if k = 0 then 14 else 16) ++ (bs.drop (128 * k + 16)).take pay
  -- the header's bytes 14 and 15 hold the CRC itself
  covered.foldl crc16Byte 0xFFFF

/-- The set bits of a bitmap of 16 bytes (R365). -/
def bitmapUnits (b : List Byte) : List Nat := (List.range 128).filter fun u => (b.getD (u / 8) 0).getLsbD (u % 8)

/-- Whether bytes `i` upward of a payload are zero, up to `j`. -/
def zeroFrom (pay : List Byte) (i j : Nat) : Bool := ((pay.take j).drop i).all (· == 0)

/-- Whether a block breaks R364 to R370. (DEDUCED, log entry 71) -/
def blockBad (op : Byte) (h : BlockHdr) (pay : List Byte) : Bool :=
  let route := h.route.toNat
  let len := h.len.toNat
  let fmt := h.fmt.toNat
  let scale := h.scale.toNat
  let meta_ := h.metaOff.toNat
  let sp := h.sparse == 1
  let plain := !sp && meta_ == 0 && scale == 0
  let tiles := decide (16 < route % 16 + (route / 16 % 16 + 1))
  h.rsv104 != 0 || h.rsv71 != 0 || h.rsv68 != 0 || (match op.toNat with
  | 0x01 =>
    let units := bitmapUnits ((pay.drop meta_).take 16)
    let ovr := if sp then units.any fun u => decide (255 < scale + u) else decide (255 < scale + (len - 1))
    decide (128 ≤ route) || len == 0 || fmt == 0 || decide (4 < fmt) || (fmt != 4 && scale != 0) || (fmt == 4 && ovr)
      || (if sp then meta_ % 16 != 0 || decide (16 * len ≤ meta_) || units.length + 1 != len || decide (64 < route)
        else meta_ != 0 || decide (4096 < 32 * route + 16 * len))
  | 0x02 => !plain || decide (256 ≤ route) || len == 0 || fmt != 0 || decide (256 < route + 16 * len)
  | 0x03 => !plain || decide (32 ≤ route) || len == 0 || len % 2 != 0 || decide (7 < fmt)
  | 0x04 =>
    let op := (pay.getD 32 0).toNat
    let ef := (pay.getD 33 0).toNat
    let m := fieldAt pay 34 2
    !plain || route != 0 || len != 3 || fmt != 0 || decide (op < 0xB8) || decide (0xBF < op) || ef == 0 || decide (4 < ef) || m == 0
      || decide (256 < m) || decide (1 < (pay.getD 36 0).toNat) || !zeroFrom pay 37 48
  | 0x05 => !plain || decide (256 ≤ route) || tiles || len != 0 || fmt != 0
  | 0x06 => !plain || decide (1024 ≤ route) || tiles || len != 0 || fmt != 0
  | 0x07 => !plain || decide (1 < route) || len != 0 || fmt != 0
  | 0x10 => !plain || route != 0 || len != 0 || fmt != 0
  | 0x11 => !plain || route != 0 || len != 2 || fmt != 0 || fieldAt pay 0 4 % 4 != 0 || !zeroFrom pay 12 16 || !zeroFrom pay 24 32
  | 0x12 => !plain || route != 0 || len != 1 || fmt != 0 || !zeroFrom pay 8 16
  | 0x13 => !plain || route != 0 || len != 0 || fmt != 0 || h.link != 0 || h.abs != 0
  | 0x1F => !plain || route != 0 || decide (1 < len) || fmt != 0 || h.link != 0 || h.abs != 0 || !zeroFrom pay 4 16
  | _ => true)

/-- The header of a block that a sequencer holds. -/
def hdrOf (i : Instr) : Option BlockHdr := (blockParts i).map (·.2)

/-- Whether the sequencer of a region may go on: it is active and not parked, its cycle has come, the clock runs and no fault is
pending. -/
def State.seqRuns (s : State) (r : Nat) : Bool :=
  let g := s.region r
  g.mode == 2 && g.seq.active && !g.seq.parked && decide (g.seq.from_ ≤ s.cyc) && s.clocked r && !s.stuck r 0

/-- The sequencer goes on to the block at `a` (R360, R363): the next block begins no earlier than `next`. A misaligned address faults. -/
def State.seqGo (s : State) (r : Nat) (a : BitVec 64) (next : Nat) : State :=
  if a.toNat % 128 ≠ 0 then s.pralineFault r 0x02 (s.wdSlot r) a
  else s.onSeq r fun q => { q with addr := a, phase := .fetch, hdr := none, pay := [], prog := 0, from_ := next, cont := false }

/-- The successor of the block in hand (R360). -/
def Sequencer.successor (q : Sequencer) (h : BlockHdr) : BitVec 64 :=
  if h.abs = 1 then h.link.signExtend 64
  else if h.link = 0 then q.addr + BitVec.ofNat 64 (128 * q.lines)
  else q.addr + h.link.signExtend 64

/-- The block in hand completes, and the sequencer goes on to its successor. -/
def State.seqNext (s : State) (r : Nat) (h : BlockHdr) (next : Nat) : State :=
  s.seqGo r ((s.region r).seq.successor h) next

/-- A fetch whose line at `a` has no page present parks the sequencer (R362), with one record for the task's first park on the page, which
names the block. -/
def State.parkSeq (s : State) (r : Nat) (a : BitVec 64) : State :=
  let s1 := s.onSeq r fun q => { q with parked := true, pay := leBytes 8 a.toNat }
  let f := { badAt (0x07, 0x08) (s.region r).seq.addr with
    parked := true, page := (s.region r).page, reg := r, unit := 0, slot := 1, opc := 0xF1 }
  s1.parkRecord (((s.region r).owner).getD 0) (a.toNat / 0x10000) f

/-- Whether an array operation of a block runs while the block is fetched (R371). -/
def State.continues (s : State) (r : Nat) : Bool :=
  let g := s.region r
  g.seq.cont || g.arr.op != 0 || !g.arr.pend.isEmpty

/-- A block that is fetched and checked: it is ready to begin, or goes on where its array operation runs already (R371). -/
def Sequencer.got (q : Sequencer) (i : Instr) (pay : List Byte) (lines : Nat) : Sequencer :=
  let phase := match q.cont, i with
    | true, .contract _ => SeqPhase.run
    | true, .drain _ => .run
    | _, _ => .ready
  { q with phase := phase, hdr := some i, pay := pay, lines := lines, cont := false }

/-- The block at the sequencer's address is fetched and checked in the order of R361. -/
def State.fetchBlock (s0 : State) (r : Nat) : State :=
  let s := if s0.continues r then s0.onSeq r fun q => { q with cont := true } else s0
  let q := (s.region r).seq
  let sl := q.slot.toNat
  let fault := fun (s : State) (det : Byte) => s.pralineFault r det sl q.addr
  let first := (s.readLine r q.addr).1
  let n := match first with | .ok bs _ => blockLines (bs.getD 9 0).toNat | _ => 1
  let t := s.readLines r n q.addr
  let s1 := t.2
  if s.inFlight r then s else
  match (t.1.zipIdx).find? fun l => match l.1 with | .mem _ => true | _ => false with
  | some (.mem b, i) =>
    if b = (0x04, 0x01) then s1.parkSeq r (q.addr + BitVec.ofNat 64 (128 * i))
    else if b.1 = 0x0A ∨ b.1 = 0x0B then s1.raiseAs r 0 0 sl 0xF1 (badAt b q.addr)
    else s1.pralineFault r 0x08 b.2.toNat q.addr
  | _ =>
    if t.1.any fun l => l == .noX then fault s1 0x01
    else if t.1.any fun l => l == .wait then s1
    else
      let bs := t.1.flatMap fun l => match l with | .ok b _ => b | _ => []
      let s1 := s1.linesCross s r bs n q.addr
      let lost := t.1.any fun l => match l with | .ok _ x => x | _ => false
      let w : BitVec 128 := BitVec.ofNat 128 (fieldAt bs 0 16)
      let h := blockOf w
      let pay := payloadOf h.len.toNat bs
      if lost then fault s1 0x09
      else if bs.getD 0 0 = 0xFE ∨ fieldAt bs 0 4 = 0x31444C46 then fault s1 0x03
      else if blockCrc h.len.toNat bs ≠ h.crc then fault s1 0x04
      else match decodeBlock w with
        | .error _ => fault s1 0x05
        | .ok i =>
          if blockBad (w.extractLsb' 0 8) h pay || !continuesOk n bs then fault s1 0x05
          else s1.onSeq r fun q => q.got i pay n

/- The blocks (R363 to R370). -/

/-- A block that the sequencer of the region in hand begins. -/
def runBlock (act : Region → Nat → State → State) (s : State) : Host.Outcome State Fault Refusal :=
  let r := s.cur.reg
  let g := s.region r
  if s.seqRuns r && g.seq.phase == .ready && g.arr.op == 0 && g.arr.pend.isEmpty then .next (act g r s) else .next s

/-- The units that a LOADS writes, in order, each with whether its bit is set (R365). -/
def loadUnits (h : BlockHdr) (pay : List Byte) : List (Bool × List Byte) :=
  let units := (List.range h.len.toNat).map fun i => (pay.drop (16 * i)).take 16
  if h.sparse = 0 then units.map fun u => (true, u)
  else
    let m := h.metaOff.toNat / 16
    let bits := bitmapUnits (units.getD m [])
    let rest := units.take m ++ units.drop (m + 1)
    (List.range 128).map fun u =>
      match bits.findIdx? (· == u) with
      | some k => (true, rest.getD k [])
      | none => (false, List.replicate 16 0)

/-- A LOADS or SETSCALE has written the first `done` of its `all` units of 16 bytes, four in a cycle, and completes with the last
(R363, R365). -/
def State.seqWrites (s : State) (r : Nat) (h : BlockHdr) (done all : Nat) : State :=
  if all ≤ done then s.seqNext r h (s.cyc + 1) else s.onSeq r fun q => { q with phase := .run, prog := done, from_ := s.cyc + 1 }

/-- One unit of a LOADS is written into the stationary storage, and with F4 its scale byte (R365). -/
def MArray.putUnit (a : MArray) (h : BlockHdr) (table : SMap Byte) (u : (Bool × List Byte) × Nat) : MArray :=
  let o := 32 * (h.route.extractLsb' 0 7).toNat + 16 * u.2
  let a1 := a.putBytes o u.1.2
  if h.fmt = 4 then
    a1.setScale (o / 16) (if u.1.1 then SMap.get (fun _ => (0 : Byte)) table (h.scale.toNat + u.2) else 0)
  else a1

/-- A cycle of a LOADS (R365): four units from unit `k` upward. (DEDUCED, log entry 72) -/
def State.loadPiece (s : State) (r : Nat) (h : BlockHdr) (k : Nat) : State :=
  let g := s.region r
  let us := loadUnits h g.seq.pay
  let s1 := s.onRegion r fun g => { g with arr := ((us.zipIdx.drop k).take 4).foldl (fun a u => a.putUnit h g.seq.table u) g.arr }
  s1.seqWrites r h (k + 4) us.length

/-- A cycle of a SETSCALE (R366): 64 bytes of the scale table from byte 16·`k` of the payload upward. (DEDUCED, log entry 72) -/
def State.scalePiece (s : State) (r : Nat) (h : BlockHdr) (k : Nat) : State :=
  let pay := (s.region r).seq.pay
  let t0 := (h.route.extractLsb' 0 8).toNat
  let s1 := s.onSeq r fun q => { q with
    table := ((pay.zipIdx.drop (16 * k)).take 64).foldl (fun t (b : Byte × Nat) => SMap.set t (t0 + b.2) b.1) q.table }
  s1.seqWrites r h (k + 4) ((pay.length + 15) / 16)

/-- LOADS (R365): it writes 64 bytes in each cycle, the first in the cycle in which it begins. (DEDUCED, log entry 72) -/
def execLoads (h : BlockHdr) (s : State) : Host.Outcome State Fault Refusal := runBlock (fun _ r s => s.loadPiece r h 0) s

/-- SETSCALE (R366): it writes 64 bytes in each cycle, the first in the cycle in which it begins. (DEDUCED, log entry 72) -/
def execSetscale (h : BlockHdr) (s : State) : Host.Outcome State Fault Refusal := runBlock (fun _ r s => s.scalePiece r h 0) s

/-- PRALINE_FETCH (R359 to R362): the next block is fetched and checked; a LOADS or SETSCALE under way writes on; an array operation that a
block began and that has completed lets the sequencer go on (R363). -/
def execPralineFetch (r : Nat) (s : State) : Host.Outcome State Fault Refusal :=
  let g := s.region r
  if s.seqRuns r then
    match g.seq.phase, g.seq.hdr with
    | .fetch, _ => .next (s.fetchBlock r)
    | .run, some i =>
      match i with
      | .loads h => .next (s.loadPiece r h g.seq.prog)
      | .setscale h => .next (s.scalePiece r h g.seq.prog)
      | .contract h => if g.arr.op = 0 ∧ g.arr.pend.isEmpty = true then .next (s.seqNext r h (s.cyc + 1)) else .next s
      | .drain h => if g.arr.op = 0 then .next (s.seqNext r h (s.cyc + 1)) else .next s
      | _ => .next s
    | _, _ => .next s
  else .next s

/-- STREAM (R367): its tokens are pushed one per cycle from now on, from the one at which its progress stands (R371). -/
def execStream (_h : BlockHdr) (s : State) : Host.Outcome State Fault Refusal :=
  runBlock (fun _ r s => s.onSeq r fun q => { q with phase := .run, from_ := s.cyc }) s

/-- STREAM_BLOCK_PUSH (R367): the next token of the payload, or the DONE after it, on O2 of south element (7, c). -/
def execStreamBlockPush (r : Nat) (s : State) : Host.Outcome State Fault Refusal :=
  let g := s.region r
  match s.seqRuns r, g.seq.phase, g.seq.hdr with
  | true, .run, some (.stream h) =>
    let e := 112 + (h.route.extractLsb' 0 4).toNat
    let x := g.elem e
    let n := h.len.toNat / 2
    let k := g.seq.prog
    let done := h.route.getLsbD 4
    let last := k + 1 == n + (if done then 1 else 0)
    if x.room 2 then
      let go := fun (t : Token) =>
        let s1 := s.setElem r e (x.pushStream 2 t)
        if last then s1.seqNext r h (s.cyc + 1) else s1.onSeq r fun q => { q with prog := k + 1, from_ := s.cyc + 1 }
      if k < n then
        if x.mayPush 2 kData then
          .next (go (dataTok (h.fmt.extractLsb' 0 3) 0xFF (octOfBytes fun b => g.seq.pay.getD (32 * k + b) 0)))
        else .next s
      else .next (go (portMark s.tick kDone 0)).usedMark
    else .next s
  | _, _, _ => .next s

/-- CONTRACT (R368): a TCON whose descriptor is captured from the payload. -/
def execContract (_h : BlockHdr) (s : State) : Host.Outcome State Fault Refusal :=
  runBlock (fun g r s =>
    let pay := g.seq.pay
    let opc := pay.getD 32 0
    let ef := BitVec.ofNat 3 (pay.getD 33 0).toNat
    let m := fieldAt pay 34 2
    let d : Desc := ⟨(List.range 8).map fun k => BitVec.ofNat 32 (fieldAt pay (4 * k) 4), m⟩
    match d.fault opc.toNat ef.toNat with
    | some det => s.raise r 0 g.seq.slot.toNat opc (FaultRec.of 0x02 det)
    | none =>
      if g.arr.lq = 0xF then
        (s.onRegion r fun g => { g with
          arr := g.arr.start 2 opc ef ((pay.getD 36 0).getLsbD 0) (BitVec.ofNat 16 m) d.c (s.cyc + 1) }).onSeq r fun q =>
            { q with phase := .run }
      else s) s

/-- ZERO (R368). -/
def execZero (h : BlockHdr) (s : State) : Host.Outcome State Fault Refusal :=
  runBlock (fun _ r s =>
    let t := (h.route.extractLsb' 0 4).toNat
    let n := (h.route.extractLsb' 4 4).toNat + 1
    (s.onRegion r fun g => g.zeroTiles t n).seqNext r h (s.cyc + 1)) s

/-- DRAIN (R368): an ACCRD of the sequencer. -/
def execDrain (h : BlockHdr) (s : State) : Host.Outcome State Fault Refusal :=
  runBlock (fun _ r s =>
    (s.onRegion r fun g => { g with arr := { g.arr.start 3 0xB4 0 (h.route.getLsbD 8) (h.route &&& 0xFF) g.arr.desc (s.cyc + 1) with
      done := h.route.getLsbD 9 } }).onSeq r fun q => { q with phase := .run }) s

/-- SYNC (R369): with ROUTE[0] it waits for a DATA token at I0 of element (1,1) and takes it. (DEDUCED, log entry 73) -/
def execSync (h : BlockHdr) (s : State) : Host.Outcome State Fault Refusal :=
  runBlock (fun g r s =>
    if h.route.getLsbD 0 then
      match (g.elem 17).head 0 with
      | none => s
      | some t =>
        if t.kind = kData then (s.setElem r 17 ((g.elem 17).dequeue 0)).seqNext r h (s.cyc + 1)
        else s.raiseAs r 0 17 0xFFFF 0xF1 ((FaultRec.of 0x03 0x08).token 0 t.seq)
    else s.seqNext r h (s.cyc + 1)) s

/-- JUMP (R370). -/
def execJump (h : BlockHdr) (s : State) : Host.Outcome State Fault Refusal :=
  runBlock (fun _ r s => s.seqNext r h (s.cyc + 1)) s

/-- JUMPIF with its predicate word in hand (R370). -/
def State.branch (s : State) (r : Nat) (h : BlockHdr) (w : Nat) : State :=
  let pay := (s.region r).seq.pay
  if w &&& fieldAt pay 8 4 ≠ 0 then s.seqGo r (BitVec.ofNat 64 (fieldAt pay 16 8)) (s.cyc + 1) else s.seqNext r h (s.cyc + 1)

/-- JUMPIF (R370): the word is read as an LD of the task reads it; one on another device is awaited (R385). (DEDUCED, log entry 74) -/
def execJumpif (h : BlockHdr) (s : State) : Host.Outcome State Fault Refusal :=
  runBlock (fun g r s =>
    let a := BitVec.ofNat 64 (fieldAt g.seq.pay 0 8)
    let sl := g.seq.slot.toNat
    match s.translate (r / 192) (s.partOf r) a .r with
    | (.error b, s1) => s1.raiseAs r 0 0 sl 0xF1 (badAt b a)
    | (.ok p, s1) =>
      if s1.cut r p then s1.raiseAs r 0 0 sl 0xF1 (badAt (0x0A, 0x01) a) else
      if s1.inFlight r then s1 else
      let s1 := s1.fetchCross r p false (leBytes 8 p.addr)
      match s1.performLoad r 0 0 (s1.phaseOf r) 0xC0 (fieldsOf 0) p 4 with
      | .wait => s1
      | .bad b => s1.raiseAs r 0 0 sl 0xF1 (badAt b a)
      | .done s2 bs lost _ => if lost then s2.raiseAs r 0 0 sl 0xF1 (badAt (eccAt p.kind) a) else (s2.fetchCross r p true bs).branch r h (leNat bs)
      | .sent s2 =>
        let upd := fun (q : Remote) => if q.tag = s1.links.nextTag then { q with elem := seqElem } else q
        ({ s2 with links := { s2.links with remote := s2.links.remote.map upd } }).onSeq r fun q => { q with phase := .run }) s

/-- Another device has answered with the predicate word of a JUMPIF (R370, R385). -/
def State.seqAnswer (s : State) (r : Nat) (status : Byte) (data : List Byte) : State :=
  let q := (s.region r).seq
  let a := BitVec.ofNat 64 (fieldAt q.pay 0 8)
  match q.phase, q.hdr with
  | .run, some (.jumpif h) =>
    if status = 0 then (s.fetchCross r ⟨4, 0, 0, false⟩ true data).branch r h (fieldAt data 0 4)
    else s.raiseAs r 0 0 q.slot.toNat 0xF1 (badAt (if status = 2 then (0x0B, 0x02) else (0x04, 0x24)) a)
  | _, _ => s

/-- CALLT (R370). -/
def execCallt (h : BlockHdr) (s : State) : Host.Outcome State Fault Refusal :=
  runBlock (fun g r s =>
    let q := g.seq
    if 8 ≤ q.stack.length then s.pralineFault r 0x06 q.slot.toNat q.addr
    else (s.onSeq r fun q => { q with stack := q.successor h :: q.stack }).seqGo r (BitVec.ofNat 64 (fieldAt q.pay 0 8)) (s.cyc + 1)) s

/-- RETT (R370). -/
def execRett (_h : BlockHdr) (s : State) : Host.Outcome State Fault Refusal :=
  runBlock (fun g r s =>
    match g.seq.stack with
    | [] => s.pralineFault r 0x07 g.seq.slot.toNat g.seq.addr
    | a :: rest => (s.onSeq r fun q => { q with stack := rest }).seqGo r a (s.cyc + 1)) s

/-- END (R357, R370): the region returns to matrix mode, and a reserved entry takes the exit code. -/
def execEndBlk (h : BlockHdr) (s : State) : Host.Outcome State Fault Refusal :=
  runBlock (fun g r s =>
    let code := if h.len = 0 then 0 else fieldAt g.seq.pay 0 4
    let tok := dataTok 0 0x01 (Oct.ofFn fun l => if l = 0 then BitVec.ofNat 32 code else 0)
    let s1 := match g.seq.out with
      | some c => s.setElem r 0 ((g.elem 0).deliver c.toNat g.seq.seq tok)
      | none => s
    s1.onRegion r fun g => { g with mode := 1, seq := { Sequencer.idle with table := g.seq.table } }) s

/- Fault service and pre-emption (R362, R371). -/

/-- The sequencers of a partition that are parked on a page. -/
def State.parkedSeqs (s : State) (part : BitVec 4) (page : Nat) : List Nat :=
  s.regions.filterMap fun g =>
    if g.2.seq.active ∧ g.2.seq.parked ∧ s.partOf g.1 = part ∧ fieldAt g.2.seq.pay 0 8 / 0x10000 = page then some g.1 else none

/-- A sequencer at a stop (R371): a block that is fetched and not begun, or an unfinished LOADS or SETSCALE, is fetched again. -/
def Sequencer.pause (q : Sequencer) : Sequencer :=
  let again : Sequencer := { q with phase := .fetch, hdr := none, pay := [], prog := 0 }
  match q.phase, q.hdr with
  | .ready, _ => again
  | .run, some (.loads _) => again
  | .run, some (.setscale _) => again
  | _, _ => q

end Sys2Proof.Machine
end

