-- ==== Sys2Proof/Machine/Sched.lean ====
section
/-!
DEFINITION. Scheduling and pre-emption (R337 to R347): eligibility and the lottery, claims, requests, the stopping of regions, scan-out
and resume, budgets, and the switching of queues.
-/
namespace Sys2Proof.Machine

/- Switching out and in (R347). -/

/-- A queue is switched out from now on: PROG as software reads it is saved. -/
def State.switchOut (s : State) (q : Nat) (byCmd : Bool) : State :=
  let x := s.queue q
  if x.swout then s.setQueue q { x with byCmd := x.byCmd || byCmd }
  else s.setQueue q { x with swout := true, byCmd := byCmd, saved := x.prog }

/-- Switch-in: the shadow becomes TAIL, and PROG is brought up to date. -/
def State.switchIn (s : State) (q : Nat) : State :=
  let x := s.queue q
  if x.swout then
    let s1 := s.setQueue q { x with swout := false, byCmd := false, tail := x.shownTail, shadow := none }
    if x.saved ≠ x.prog then s1.raiseVector q else s1
  else s

/- Requests (R339, R342, R343). -/

/-- The units of 1/21 ns in a microsecond of the reference timer. -/
def microsecond : Nat := 21000

/-- Whether a load stands in its non-pre-emptible interval (R339, R412). -/
def State.shielded (s : State) (l : Load) : Bool :=
  (s.queue l.queue).np && (l.ph == .running || l.ph == .preload || l.ph == .ended) && decide (s.rt < l.actNs + s.sched.nplim * microsecond)

/-- The feeds whose tokens the array's next step or load group takes (R195, R204). -/
def Region.nextFeeds (g : Region) : List Feed :=
  let a := g.arr
  let f4 := a.efmt == 4
  if a.op = 1 then
    let n := a.imm.toNat / 4 % 128 + 1
    let k := Nat.min 8 (n - a.prog)
    westFeeds a.prog k 0 false ++ (if f4 then westFeeds a.prog k 2 true else [])
  else if a.op = 2 then
    let d : Desc := ⟨a.desc, a.imm.toNat % 512⟩
    let w := (shapeOf a.opc.toNat).2.2.1
    if a.prog < a.steps then
      let second := a.half.isSome
      let c := if second then 8 else 0
      let n := if w = 16 then 8 else w
      let tOn := !d.tbank && !second
      westFeeds c n 0 false ++ (if f4 then westFeeds c n 2 true else []) ++ (if tOn then northFeeds w 1 false else [])
        ++ (if tOn && f4 then northFeeds w 3 true else [])
    else if a.var0 ∧ a.fib = false then [(⟨0, 0, false⟩ : Feed)] ++ (if d.tbank then [] else [⟨0, 1, false⟩])
    else []
  else []

/-- Whether the array of a region runs and does not wait for a feed token (R200, R342). -/
def Region.arrayBusy (g : Region) (cyc : Nat) : Bool :=
  g.mode == 1 && g.arr.op != 0 && !(decide (g.arr.dur ≤ cyc) && g.nextFeeds.any fun q => (q.head g).isNone)

/-- A request to pre-empt a load (R342, R344): a load that runs begins to stop, and one that is being placed or loaded waits again. A load
that is stopping, stopped or held by a fault is not changed. -/
def State.requestStop (s : State) (ld : Nat) : State :=
  match s.load ld with
  | none => s
  | some l =>
    if !l.frecs.isEmpty ∨ l.abn = true ∨ l.redo = true ∨ l.stop ≠ .none then s
    else match l.ph with
      | .loading => s.unplace ld
      | .preload | .running | .ended =>
        let s1 := l.regions.foldl (fun s r => s.onRegion r fun g =>
          if g.rstate = 2 then { g with rstate := 3, req := some ⟨s.cyc, g.arrayBusy s.cyc, none⟩ } else g) s
        s1.setLoad ld { l with stop := .asked }
      | _ => if l.claims then (s.unclaim ld).setLoad ld { l with claims := false } else s

/-- Whether a load has no region stopped or stopping: it runs. -/
def Load.runs (l : Load) : Bool := l.stop == .none && (l.ph == .loading || l.ph == .preload || l.ph == .running)

/-- A claim's request to a load of a queue (R343, R347): a queue all of whose running loads are so stopped is switched out. -/
def State.claimStop (s : State) (ld : Nat) : State :=
  match s.load ld with
  | none => s
  | some l =>
    let s1 := s.requestStop ld
    if (s1.loadsOf l.queue).any fun p => p.2.runs then s1 else s1.switchOut l.queue false

/- Eligibility (R337). -/

/-- Whether a load waits for placement, or is stopped and may resume (R337). -/
def Load.waits (l : Load) : Bool :=
  l.frecs.isEmpty && !l.abn && l.brk.isNone && !l.redo
    && (l.ph == .waiting || (l.ph != .faulted && (l.stop == .stopped || l.stop == .out)))

/-- Whether a load already has regions taken for its resume. -/
def State.restoring (s : State) (l : Load) : Bool := !l.regions.isEmpty && l.regions.all fun r => (s.region r).rstate == 6

/-- The oldest waiting load of a queue. -/
def State.oldest (s : State) (q : Nat) : Option (Nat × Load) := (s.loadsOf q).find? fun p => p.2.waits && !s.restoring p.2

/-- Whether a queue is eligible (R337). -/
def State.eligible (s : State) (q : Nat) : Bool :=
  let x := s.queue q
  x.tick != 0 && !x.budx && !x.held && !x.brkh && (!x.swout || !x.byCmd) && (s.oldest q).isSome

/-- The load that a queue waits with claims regions, so that its queue has won its draw (R343). -/
def State.claiming (s : State) (q : Nat) : Bool := ((s.oldest q).map fun p => p.2.claims).getD false

/-- The queues that take part in the next draw (R337): the eligible urgent ones while there are any, and those not excluded. One that
claims regions has won already. -/
def State.drawers (s : State) : List Nat :=
  let es := (List.range 128).filter s.eligible
  let us := es.filter fun q => (s.queue q).urg
  (if us.isEmpty then es else us).filter fun q => !(s.queue q).excl && !s.claiming q

/-- Whether a draw is due (R337): regions are free, or a queue that takes part needs none, because its load stands in place, or may claim
some. (DEDUCED, log entry 150) -/
def State.drawDue (s : State) : Bool :=
  !s.freeRegions.isEmpty || s.drawers.any fun q =>
    (s.queue q).urg || ((s.oldest q).map fun p => p.2.stop == .stopped).getD false

/-- The three steps of the generator (R338). -/
def lotteryNext (x : Word) : Word :=
  let a := x ^^^ (x <<< 13)
  let b := a ^^^ (a >>> 17)
  b ^^^ (b <<< 5)

/-- The queue that a draw of weight `w` wins (R338). -/
def lotteryWinner (tick : Nat → Nat) (w : Nat) : Nat → List Nat → Option Nat
  | _, [] => none
  | acc, q :: qs => if w < acc + tick q then some q else lotteryWinner tick w (acc + tick q) qs

/- Claims (R343). -/

/-- Whether no load but `ld` has claimed any of a load's regions. -/
def State.claimFree (s : State) (ld : Nat) (l : Load) : Bool :=
  l.regions.all fun r => (s.region r).claim.isNone || (s.region r).claim == some ld

/-- The stopped loads of non-urgent queues whose regions load `ld` may claim. (DEDUCED, log entry 88) -/
def State.claimable (s : State) (ld : Nat) : List (Nat × Load) :=
  s.loads.filter fun p =>
    !(s.queue p.2.queue).urg && p.2.ph != .faulted && p.2.frecs.isEmpty && !p.2.abn && !p.2.redo && (p.2.stop == .stopped)
      && (p.2.regions.all fun r => (s.region r).rstate == 4) && s.claimFree ld p.2

/-- The running loads of non-urgent queues that a claim of load `ld` may stop. -/
def State.victims (s : State) (ld : Nat) : List (Nat × Load) :=
  s.loads.filter fun p => !(s.queue p.2.queue).urg && p.2.frecs.isEmpty && !p.2.abn && p.2.runs && !s.shielded p.2
    && p.2.ph != .loading && s.claimFree ld p.2

/-- The regions that a waiting load still needs. -/
def State.needed (s : State) (l : Load) : Nat := l.npage - (if l.ph = .waiting then (s.keepFor l).length else 0)

/-- The regions that load `ld` has claimed and that are on their way: scanning out, or of a load that is stopping or stopped and not held by
a fault. -/
def State.coming (s : State) (ld : Nat) : Nat :=
  ((List.range 768).filter fun r =>
    let g := s.region r
    g.claim == some ld && (g.rstate == 5 || ((s.ownerLoad r).map fun l =>
      (l.stop == .asked || l.stop == .stopped) && l.frecs.isEmpty && !l.abn && !l.redo && l.ph != .faulted).getD false)).length

/-- The regions of a load are claimed for load `ld`, in a state of REGMAP where one is given. -/
def State.markClaim (s : State) (ld : Nat) (rs : List Nat) (st : Option (BitVec 4)) : State :=
  rs.foldl (fun s r => s.onRegion r fun g => { g with claim := some ld, rstate := st.getD g.rstate }) s

/-- Load `ld` claims the regions of stopped loads, one load after another, until `n` more are on their way: a load that is claimed is scanned
out whole (R343, R344). (DEDUCED, log entry 88) -/
def State.claimStopped (s : State) (ld : Nat) : Nat → List (Nat × Load) → State × Nat
  | n, [] => (s, n)
  | n, (v, l) :: ls =>
    if n = 0 then (s, 0)
    else ((s.markClaim ld l.regions (some 5)).setLoad v { l with stop := .out }).claimStopped ld (n - l.regions.length) ls

/-- Load `ld` requests the pre-emption of running loads until `n` more regions are on their way. (DEDUCED, log entry 88) -/
def State.claimRunning (s : State) (ld : Nat) : Nat → List (Nat × Load) → State
  | _, [] => s
  | n, (v, l) :: ls => if n = 0 then s else ((s.claimStop v).markClaim ld l.regions none).claimRunning ld (n - l.regions.length) ls

/-- An urgent load that finds too few free regions claims them (R343): of stopped loads first, those it has asked to stop before any others,
and then of running ones. Which loads become victims is a free value. (DEDUCED, log entry 88) -/
def State.claim (s : State) (ld : Nat) (l : Load) : State :=
  let mine := (s.claimable ld).filter fun p => p.2.regions.any fun r => (s.region r).claim == some ld
  let s1 := (s.claimStopped ld mine.length mine).1
  let short := s1.needed l - ((s1.freeFor (some ld)).length + s1.coming ld)
  let t := s1.claimStopped ld short (rotate (s1.claimable ld) s1.free)
  t.1.claimRunning ld t.2 (rotate (t.1.victims ld) s1.free)

/- Placement of the winner (R148, R337, R345). -/

/-- The streams that the routes of a scanned-out load need on the regions `rs` (R379). -/
def State.imageStreams (s : State) (ld : Nat) (rs : List Nat) : List Nat :=
  (rs.zipIdx).flatMap fun p => match s.sched.saves.find? fun v => v.load == ld && v.page == p.2 with
    | some v => pageStreams (rs.map some) p.2 v.img.config
    | none => []

/-- A stopped load takes its own regions again, or, scanned out whole, any free ones on which its routes have their streams; they are being
restored. (DEDUCED, log entry 122) -/
def State.takeBack (s : State) (ld : Nat) (l : Load) : Option State :=
  if l.stop = .stopped then
    if l.regions.all fun r => (s.region r).claim.isNone then
      some ((l.regions.foldl (fun s r => s.onRegion r fun g => { g with rstate := 6 }) s).setLoad ld { l with back := some s.cyc })
    else none
  else if !l.regions.isEmpty then none
  else match s.pick (some ld) l.npage [] with
    | none => none
    | some rs =>
      if !s.streamsFit ld ((s.imageStreams ld rs).map keyEdge) then none
      else
      let s1 := (rs.zipIdx).foldl (fun s e => s.take ld e.2 e.1 6) (s.bump.unclaim ld)
      some (s1.setLoad ld { l with claims := false, back := none, streams := s.giveStreams ld (s.imageStreams ld rs), pages := (l.pages.zip rs).map fun p => { p.1 with reg := some p.2 } })

/-- The oldest waiting load of a queue is placed, or begins to resume (R337): otherwise an urgent one claims regions, and another's queue is
excluded from the draw until regions are freed. Placement and resume switch the queue in (R347). (DEDUCED, log entry 85) -/
def State.seat (s : State) (q : Nat) : State :=
  match s.oldest q with
  | none => s
  | some (ld, l) =>
    match if l.ph = .waiting then s.placeLoad ld else s.takeBack ld l with
    | some s1 => s1.switchIn q
    | none =>
      if (s.queue q).urg then (s.claim ld l).onLoad ld fun l => { l with claims := true }
      else s.setQueue q { s.queue q with excl := true }

/-- LOAD_PLACEMENT (R148, R337): with one queue taking part no draw is made, and its oldest waiting load is placed. One that claims regions
(R343) is placed as soon as it has them. -/
def execLoadPlacement (ld : Nat) (s : State) : Host.Outcome State Fault Refusal :=
  match s.load ld with
  | none => .next s
  | some l =>
    if s.pwr.trip = false ∧ (s.drawers = [l.queue] ∨ (l.claims = true ∧ s.eligible l.queue = true)) ∧ ((s.oldest l.queue).map (·.1)) = some ld then .next (s.seat l.queue) else .next s

/-- LOTTERY_DRAW (R337, R338): a draw is due and more than one queue takes part. -/
def execLotteryDraw (s : State) : Host.Outcome State Fault Refusal :=
  let qs := s.drawers
  if s.pwr.trip = false ∧ 1 < qs.length ∧ s.drawDue = true then
    let x := lotteryNext s.sched.seed
    let tick := fun q => (s.queue q).tick.toNat
    let total := qs.foldl (fun n q => n + tick q) 0
    let w := x.toNat * total / 2 ^ 32
    let s1 := { s with sched := { s.sched with seed := x } }
    match lotteryWinner tick w 0 qs with
    | some q => .next (s1.seat q)
    | none => .next s1
  else .next s

/-- SCHED_SEED_WRITE (R338): a write of 0 stores 1. -/
def execSchedSeedWrite (v : BitVec 64) (s : State) : Host.Outcome State Fault Refusal :=
  let w := v.extractLsb' 0 32
  fromHost (fun s => { s with sched := { s.sched with seed := if w = 0 then 1 else w } }) s

/- Stopping (R342, R350, R371). -/

/-- The load of a region once one of its regions has stopped: with the last one it is stopped in place, and a BRK's record is
written (R330, R342). -/
def State.stoppedNow (s : State) (r : Nat) : State :=
  match (s.region r).owner with
  | none => s
  | some ld =>
    match s.load ld with
    | none => s
    | some l =>
      if l.regions.all fun q => (s.region q).rstate == 4 then
        let s1 := match l.brk with | some f => s.loadRecord ld f | none => s
        (s1.setLoad ld { l with stop := .stopped }).rehold l.queue
      else s

/-- A region stops in place with the live-tile mask `live` (R342, R350): accumulator tiles outside it are set to +0 in matrix mode, and
the row unit closes its banks once its issued operations have completed (R258). (DEDUCED, log entry 81) -/
def State.stopRegion (s : State) (r : Nat) (live : BitVec 16) : State :=
  let dead := (List.range 16).filter fun t => !live.getLsbD t
  let s1 := s.onRegion r fun g =>
    let g1 := if g.mode = 0 then g else dead.foldl (fun g t => g.zeroTiles t 1) g
    { g1 with rstate := 4, req := none, live := live, seq := g1.seq.pause }
  (s1.restRows r).stoppedNow r

/-- Whether a region may stop at once (R342, R371): in stream mode; in matrix mode, where its array was idle or waited when the stop was
asked for, and in weight-driven mode, between steps and with the words of those taken complete. (DEDUCED, log entry 87) -/
def Region.mayStop (g : Region) : Bool :=
  g.mode == 0 || (g.arr.half.isNone && g.arr.pend.isEmpty && (g.mode != 1 || !(g.req.map (·.late)).getD false))

/-- Whether a stop of region `r` is asked for. -/
def State.stopAsked (s : State) (r : Nat) : Bool :=
  (s.region r).rstate == 3 && ((s.ownerLoad r).map fun l => l.stop == .asked && l.frecs.isEmpty && !l.abn).getD false && !s.pwr.trip

/-- PREEMPT_REQUEST (R342): a load is pre-empted for the reason that stands: its queue's budget or QCMD 1, or a BRK. A claim asks at once
(R343). -/
def execPreemptRequest (ld : Nat) (s : State) : Host.Outcome State Fault Refusal :=
  match s.load ld with
  | none => .next s
  | some l =>
    let x := s.queue l.queue
    let budget := x.budx && x.swout && !s.shielded l
    let cmd := x.swout && x.byCmd
    if budget || cmd || l.brk.isSome then .next (s.requestStop ld) else .next s

/-- Whether a PREPT of this cycle has met the request of region `r`, which then stops with its live tiles at the end of the cycle (R350). -/
def State.preptMet (s : State) (r : Nat) : Bool := ((s.region r).req.bind (·.live)).isSome

/-- REGION_STOP (R342): a region of a load under a request stops, where its mode lets it. (DEDUCED, log entry 87) -/
def execRegionStop (r : Nat) (s : State) : Host.Outcome State Fault Refusal :=
  if s.stopAsked r && (s.region r).mayStop && !s.preptMet r then .next (s.stopRegion r 0xFFFF) else .next s

/-- PREPT_FALLBACK (R342): a region whose array ran at the request, and whose lead has fired no PREPT within 4096 cycles of it, stops at its
next step boundary with every tile live. (DEDUCED, log entry 87) -/
def execPreptFallback (r : Nat) (s : State) : Host.Outcome State Fault Refusal :=
  let g := s.region r
  let late := match g.req with | some q => q.late && decide (q.cyc + 4096 ≤ s.cyc) | none => false
  if s.stopAsked r && !s.preptMet r && g.mode == 1 && late && g.arr.half.isNone && g.arr.pend.isEmpty then .next (s.stopRegion r 0xFFFF)
  else .next s

/-- The regions whose PREPT has met a request stop at the end of the cycle (R350), and replays that wait are tried again (R291). -/
def State.endCycle (s : State) : State :=
  s.regions.foldl (fun s g => match g.2.req.bind (·.live) with
    | some m => if s.stopAsked g.1 then s.stopRegion g.1 m else s.onRegion g.1 fun g => { g with req := none }
    | none => s) s.replayDue

/- Scan-out and resume (R344, R345). -/

/-- SLOTS and BASE of a partition's save area (R341). -/
def State.saveArea (s : State) (p : BitVec 4) : Nat × Nat :=
  let v := SMap.get (fun _ => (0 : BitVec 64)) s.sched.save p.toNat
  ((v.extractLsb' 0 8).toNat, (v.extractLsb' 22 30).toNat * 2 ^ 22)

/-- The lowest free save slot of a partition. -/
def State.freeSlot (s : State) (p : BitVec 4) : Option Nat :=
  (List.range (s.saveArea p).1).find? fun k => !(s.sched.saves.any fun v => v.part == p && v.slot == k)

/-- The bytes of a region's scratchpad and weight-store block, by offset in an image: the scratchpad from 0, the block from 0x80000. -/
def Mem.regionBytes (m : Mem) (r : Nat) : List Host.Cell :=
  let p := spadAddr r 0 0
  let w := wstoreAddr r 0
  m.bytes.filterMap fun c =>
    if p ≤ c.1 ∧ c.1 < p + 0x80000 then some (c.1 - p, c.2)
    else if w ≤ c.1 ∧ c.1 < w + 0x100000 then some (c.1 - w + 0x80000, c.2) else none

/-- Places of a region's scratchpad and weight-store block in a list of addresses in units of `u` bytes, by their offset in an image. -/
def regionPlaces (u : Nat) (as : List Nat) (r : Nat) : List Nat :=
  let p := spadAddr r 0 0 / u
  let w := wstoreAddr r 0 / u
  as.filterMap fun n =>
    if p ≤ n ∧ n < p + 0x80000 / u then some (n - p)
    else if w ≤ n ∧ n < w + 0x100000 / u then some (n - w + 0x80000 / u) else none

/-- The address on region `r` of an offset in an image. -/
def imageAddr (r off : Nat) : Nat := if off < 0x80000 then spadAddr r 0 0 + off else wstoreAddr r (off - 0x80000)

/-- Every copy that touches region `r` is held from it (R300). -/
def State.holdCopies (s : State) (r : Nat) : State :=
  let f := fun (k : Nat) (c : Copy) => s.holdFrom (k / 64) c r
  { s with eng := { s.eng with
      chans := s.eng.chans.map fun k => (k.1, { k.2 with run := k.2.run.map (f k.1) })
      orphans := s.eng.orphans.map fun k => (k.1, f k.1 k.2) } }

/-- A copy follows region `old` to `new`: what it keeps of the region's scratchpad, and the region's name (R287, R300).
(DEDUCED, log entry 69) -/
def Copy.follow (c : Copy) (old new : Nat) : Copy :=
  let at_ := fun (a : Nat) => if (a - spadBase) / 0x80000 = old then a - 0x80000 * old + 0x80000 * new else a
  { c with
    held := c.held.filter fun h => h != old
    unsure := c.unsure.filter fun h => h != old
    keep := c.keep.foldl (fun k b => SMap.set k (at_ b.1) b.2) []
    keepLost := c.keepLost.foldl (fun l a => setInsert l (at_ a)) []
    reloc := SMap.set (c.reloc.map fun e => (e.1, if e.2 = old then new else e.2)) old new }

/-- The copies held from region `old` go on at `new`, where its page is restored (R300). -/
def State.releaseCopies (s : State) (old new : Nat) : State :=
  let f := fun (c : Copy) => if c.held.contains old || c.unsure.contains old then c.follow old new else c
  { s with eng := { s.eng with
      chans := s.eng.chans.map fun k => (k.1, { k.2 with run := k.2.run.map f })
      orphans := s.eng.orphans.map fun k => (k.1, f k.2) } }

/-- The name that `releaseCopies` left is the region's own from now on. (DEDUCED, log entry 69) -/
def Copy.settle (c : Copy) (tmp r : Nat) : Copy :=
  if c.reloc.any fun e => e.2 == tmp then
    let c1 := { c.follow tmp r with held := c.held, unsure := c.unsure }
    { c1 with reloc := c1.reloc.filter fun e => e.1 != tmp && e.1 != e.2 }
  else c

/-- Regions to which pages of the copy have come are meant themselves where the page table names them (R300, R373).
(DEDUCED, log entry 69) -/
def Copy.arrive (c : Copy) (rs : List Nat) : Copy :=
  if c.reloc.any fun e => rs.contains e.2 then { c with reloc := c.reloc.filter fun e => !rs.contains e.1 } else c

/-- Whether every issued access and row operation of a region has come to rest, so that the region can be saved (R240, R258). -/
def State.quiet (s : State) (r : Nat) : Bool :=
  let g := s.region r
  g.row.issued.isEmpty && !(g.row.table.any fun e => e.2.held) && g.arr.pend.isEmpty
    && !(s.mem.rowq.any fun u => u.reg == r) && !s.inFlight r && !(s.links.edges.any fun e => e.2.flits.any fun f => f.toks.any fun t => t.1 == r)
    && g.elems.all fun e => decide (e.1 < 128) ||
        !(e.2.port.accs.any fun a => a.ph == .walk || (a.ph == .home && ((s.ownerLoad r).map fun l => s.live true r e.1 l a).getD true))

/-- The state-window words of a region in ascending element, item and word, as an image holds them (R344): each element with its select
value. -/
def imagePlaces : List (Nat × Half) :=
  (List.range 148).flatMap fun e => (List.range 0x378).flatMap fun i => (List.range (itemWords e i)).map fun w => (e, BitVec.ofNat 16 (16 * i + w))

/-- A token's eight lanes and header, as an image holds it. -/
def tokenBytes (t : Token) : List Byte := ((List.range 8).map t.lanes.get ++ [tokHeader t]).flatMap fun w => leBytes 4 w.toNat

/-- The tokens in the router buffers of a region, in ascending element and channel. -/
def Region.inRouters (g : Region) : List Token := g.elems.flatMap fun e => e.2.rbuf.flatMap fun c => c.2.map (·.tok)

/-- The bytes of the image of region `r` (R344): its state-window words, which reach the stationary storage, the scales and the accumulator
tiles too, its router buffers, its scratchpad with the full/empty bits, and its weight-store block. (DESIGN CHOICE, log entry 89) -/
def State.imageBytes (s : State) (r : Nat) : List Byte :=
  let g := s.region r
  (imagePlaces.flatMap fun p => leBytes 4 (winRead g p.1 p.2).toNat)
    ++ g.inRouters.flatMap tokenBytes
    ++ s.mem.readBytes (spadAddr r 0 0) 0x80000
    ++ ((List.range 0x2000).map fun i => maskOf fun l => s.mem.full.contains (spadAddr r 0 0 / 8 + 8 * i + l))
    ++ s.mem.readBytes (wstoreAddr r 0) 0x100000

/-- The address of a save slot (R341). -/
def State.slotBase (s : State) (part : BitVec 4) (slot : Nat) : Nat := (s.saveArea part).2 + 0x400000 * slot

/-- The bytes of memory in the first `n` of a save slot, by offset; those not listed are zero. -/
def State.slotCells (s : State) (base n : Nat) : List Host.Cell :=
  s.mem.bytes.filterMap fun c => if base ≤ c.1 ∧ c.1 < base + n then some (c.1 - base, c.2) else none

/-- The image of region `r` is written into the save slot of an entry (R344): an immediate write to device memory, with a CSN of its own
(R260, R267). The entry notes what it wrote. (DESIGN CHOICE, log entry 89) -/
def State.writeImage (s : State) (v : SaveSlot) (r : Nat) : State :=
  let bytes := s.imageBytes r
  let base := s.slotBase v.part v.slot
  let s1 := s.immediate 0 (cellsAt base bytes)
  let w := { v with len := bytes.length, cells := s1.slotCells base bytes.length }
  { s1 with sched := { s1.sched with saves := s1.sched.saves ++ [w] } }

/-- The region with word `w` of token `i` of its router buffers replaced, in the order of `inRouters`. -/
def Region.routerPut (g : Region) (i w : Nat) (v : Word) : Region :=
  let chan := fun (n : Nat) (ts : List Transit) => ts.mapIdx fun k t => if n + k = i then { t with tok := tokPut t.tok w v } else t
  let chans := fun (n : Nat) (m : SMap (List Transit)) =>
    m.foldl (fun (a : Nat × SMap (List Transit)) q => (a.1 + q.2.length, a.2 ++ [(q.1, chan a.1 q.2)])) (n, [])
  let elems := g.elems.foldl (fun (a : Nat × SMap Elem) e =>
    let c := chans a.1 e.2.rbuf
    (c.1, a.2 ++ [(e.1, { e.2 with rbuf := c.2 })])) (0, [])
  { g with elems := elems.2 }

/-- An image with the byte at an offset replaced by the one that memory holds now. `word` are the four bytes of its word.
(DESIGN CHOICE, log entry 89) -/
def SaveSlot.patch (v : SaveSlot) (o : Nat) (b : Byte) (word : Word) : SaveSlot :=
  let n := 4 * imagePlaces.length
  let k := 36 * v.img.inRouters.length
  if o < n then
    match imagePlaces[o / 4]? with
    | some p => { v with img := (winWrite v.img p.1 p.2 word).getD v.img }
    | none => v
  else if o < n + k then { v with img := v.img.routerPut ((o - n) / 36) ((o - n) % 36 / 4) word }
  else if o < n + k + 0x80000 then { v with mem := cellsSet v.mem (o - n - k) b }
  else if o < n + k + 0x82000 then
    let f := 8 * (o - n - k - 0x80000)
    { v with full := (List.range 8).foldl (fun l i => if b.getLsbD i then setInsert l (f + i) else l.filter fun x => x != f + i) v.full }
  else { v with mem := cellsSet v.mem (o - n - k - 0x2000) b }

/-- An image as memory holds it (R345): what a write of software has changed in the slot since counts as it stands there.
(DESIGN CHOICE, log entry 89) -/
def State.reread (s : State) (v : SaveSlot) : SaveSlot :=
  let base := s.slotBase v.part v.slot
  let now := s.slotCells base v.len
  if now = v.cells then v
  else
    let changed := ((now ++ v.cells).map (·.1)).filter fun o => cellsGet now o != cellsGet v.cells o
    changed.foldl (fun w o => w.patch o (cellsGet now o) (BitVec.ofNat 32 (leNat ((List.range 4).map fun i => cellsGet now (4 * (o / 4) + i))))) v

/-- SCAN_OUT (R344): a claimed region's state goes into a free save slot of its load's partition, and the region is free. A claim that
finds no free slot waits. (DESIGN CHOICE, log entry 89) -/
def execScanOut (r : Nat) (s : State) : Host.Outcome State Fault Refusal :=
  let g := s.region r
  match g.owner with
  | none => .next s
  | some ld =>
    match s.load ld with
    | none => .next s
    | some l =>
      let part := (s.queue l.queue).part
      match g.rstate == 5 && s.quiet r && !s.pwr.trip, s.freeSlot part with
      | true, some n =>
        let v : SaveSlot := ⟨part, n, ld, g.page, r, g, s.mem.regionBytes r, regionPlaces 8 s.mem.full r, regionPlaces 1 s.mem.lost r, 0, []⟩
        let s2 := (s.holdCopies r).writeImage v r
        let l1 := { l with streams := [], pages := l.pages.map fun p => if p.reg = some r then { p with reg := none } else p }
        let s3 := (s2.setLoad ld l1).onRegion r fun g => { Region.reset with
            bxslot := g.bxslot, claim := g.claim, row := { RowUnit.empty with acts := g.row.acts, period := g.row.period } }
        .next s3.unexclude
      | _, _ => .next s

/-- Everything that names region `old` for load `ld` names `new` from now on: replay entries, waiting starts, remote requests, boundaries
and LAUNCHes. -/
def State.renameRegion (s : State) (ld old new : Nat) : State :=
  let sub := fun (r : Nat) => if r = old then new else r
  let s1 := { s with
    mmu := { s.mmu with
      invHeld := s.mmu.invHeld.map fun (p : Nat × Nat × Nat × Nat) => if p.1 = ld then (p.1, sub p.2.1, p.2.2) else p
      replay := s.mmu.replay.map fun (p : Replay) => if p.load = ld then { p with reg := sub p.reg, stack := sub p.reg / 192 } else p }
    links := { s.links with remote := s.links.remote.map fun (p : Remote) => if p.load = ld then { p with reg := sub p.reg } else p }
    sched := { s.sched with launches := s.sched.launches.map fun (a : Launch) => if a.load = ld then { a with reg := sub a.reg } else a }
    eng := { s.eng with chans := s.eng.chans.map fun (k : Nat × Channel) =>
      (k.1, { k.2 with starts := k.2.starts.map fun (st : Start) => if st.load = ld then { st with reg := sub st.reg } else st }) } }
  match s1.load ld with
  | some l => s1.setLoad ld { l with bounds := l.bounds.map fun (b : Boundary) => { b with reg := sub b.reg } }
  | none => s1

/-- One image is scanned into region `r`, which was free, and its slot freed (R345). Names are changed under numbers that no region has, so
that pages that change places do not meet. -/
def State.scanIn (s : State) (saved : SaveSlot) (r : Nat) : State :=
  let v := s.reread saved
  let p := spadAddr r 0 0
  let s1 := s.setRegion r { v.img with owner := some v.load, page := v.page, rstate := 6, bxslot := (s.region r).bxslot }
  let m := s1.mem.clearSpad r
  let w := wstoreAddr r 0
  let m1 := { m with bytes := m.bytes.filter fun c => !(decide (w ≤ c.1) && decide (c.1 < w + 0x100000)),
                     lost := m.lost.filter fun b => !(decide (w ≤ b) && decide (b < w + 0x100000)) }
  let m2 := v.mem.foldl (fun m c => m.write (imageAddr r c.1) c.2) m1
  let at_ := fun (n : Nat) => if n < 0x10000 then p / 8 + n else w / 8 + (n - 0x10000)
  let m3 := { m2 with full := (v.full.map at_).foldl setInsert m2.full, lost := (v.lost.map (imageAddr r)).foldl setInsert m2.lost }
  ((({ s1 with mem := m3 }).renameRegion v.load v.reg (10000 + r)).releaseCopies v.reg (10000 + r))

/-- The names under which `scanIn` left the regions of a load become the regions' own. -/
def State.settleNames (s : State) (ld : Nat) (rs : List Nat) : State :=
  let s1 := rs.foldl (fun s r => s.renameRegion ld (10000 + r) r) s
  let fix := fun (c : Copy) => (rs.foldl (fun c r => c.settle (10000 + r) r) c).arrive rs
  { s1 with eng := { s1.eng with
    chans := s1.eng.chans.map fun k => (k.1, { k.2 with run := k.2.run.map fix })
    orphans := s1.eng.orphans.map fun k => (k.1, fix k.2) } }

/-- Whether the memory of a save slot has met an uncorrectable error in the image (R344, R345). (DESIGN CHOICE, log entry 89) -/
def State.slotLost (s : State) (v : SaveSlot) : Bool := s.mem.isLost (s.slotBase v.part v.slot) v.len

/-- Whether the row units of a load have closed every bank (R258). -/
def State.rowsClosed (s : State) (l : Load) : Bool := l.regions.all fun r => !((s.region r).row.table.any fun e => e.2.held)

/-- LOAD_RESUME (R345): the load's images are scanned in, or its regions go on in place, and it runs on its exact stopped state. An
image with an uncorrectable error stops the task. -/
def execLoadResume (ld : Nat) (s : State) : Host.Outcome State Fault Refusal :=
  match s.load ld with
  | none => .next s
  | some l =>
    if (l.stop = .stopped ∨ l.stop = .out) ∧ l.frecs.isEmpty = true ∧ l.abn = false ∧ l.pages.all (·.reg.isSome) = true
        ∧ s.restoring l = true ∧ s.rowsClosed l = true ∧ s.pwr.trip = false then
      let vs := s.sched.saves.filter fun v => v.load == ld
      if vs.any s.slotLost then .next (s.stopFault ld { FaultRec.of 0x0B 0x06 with page := ((vs.find? s.slotLost).map (·.page)).getD 0 })
      else
        let s1 := vs.foldl (fun s v => match (l.pages[v.page]?).bind (·.reg) with
          | some r => s.scanIn v r
          | none => s) s
        let s2 := s1.settleNames ld l.regions
        let s3 := { s2 with sched := { s2.sched with saves := s2.sched.saves.filter fun v => v.load != ld } }
        let s4 := l.regions.foldl (fun s r => s.onRegion r fun g => { g with rstate := 2, req := none }) s3
        match s4.load ld with
        | some l1 =>
          let s5 := s4.setLoad ld { l1 with stop := .none, back := none }
          .next { s5 with agenda := s5.agenda ++ s5.wakes }
        | none => .next s4
    else .next s

/- Budgets (R339, R411). -/

/-- USED of a queue (R339): region-microseconds of the period. -/
def Queue.used (x : Queue) : Nat := x.usedNs / microsecond

/-- The budget that a queue is charged against (R339, R411): half of it while a load of the queue stands on a stack at level 1 or above. -/
def State.budgetOf (s : State) (q : Nat) : Option Nat :=
  let x := s.queue q
  let hot := (s.loadsOf q).any fun p => p.2.regions.any fun r => decide (1 ≤ s.level (r / 192))
  if x.budget = 0x1FFFF then none else some (if hot then x.budget.toNat / 2 else x.budget.toNat)

/-- BUDGET_EXHAUST (R339): BUDX is set, the queue is switched out, and its running loads are pre-empted. For a load in its non-pre-emptible
interval, and with it the switch-out of its queue, this is deferred to the interval's end (R346). (DEDUCED, log entry 85) -/
def execBudgetExhaust (q : Nat) (s : State) : Host.Outcome State Fault Refusal :=
  let x := s.queue q
  match s.budgetOf q with
  | none => .next s
  | some b =>
    if x.budx = false ∧ b ≤ x.used then
      let s1 := s.setQueue q { x with budx := true }
      let s2 := if (s.loadsOf q).any fun p => s.shielded p.2 then s1 else s1.switchOut q false
      .next ((s2.loadsOf q).foldl (fun s p => if s.shielded p.2 then s else s.requestStop p.1) s2)
    else .next s

/-- BUDGET_PERIOD_START (R339): USED and BUDX are cleared. A queue that its budget switched out and that has no load in progress is
switched in. (DEDUCED, log entry 85) -/
def execBudgetPeriodStart (s : State) : Host.Outcome State Fault Refusal :=
  let s1 := { s with queues := s.queues.map fun (p : Nat × Queue) => (p.1, { p.2 with usedNs := 0, budx := false }) }
  .next ((s1.queues.map (·.1)).foldl (fun s q =>
    if (s.queue q).swout && !(s.queue q).byCmd && (s.loadsOf q).isEmpty then s.switchIn q else s) s1)

/-- NP_INTERVAL_END (R339, R346): the pre-emption that the interval deferred follows, where BUDX is then set, and the switch-out with the last
load of the queue that stands in its interval. (DEDUCED, log entry 85) -/
def execNpIntervalEnd (ld : Nat) (s : State) : Host.Outcome State Fault Refusal :=
  match s.load ld with
  | none => .next s
  | some l =>
    if (s.queue l.queue).np && (s.queue l.queue).budx then
      let active := l.ph == .running || l.ph == .preload || l.ph == .ended
      let s1 := if active && !s.shielded l then s.requestStop ld else s
      .next (if (s.loadsOf l.queue).any fun p => s.shielded p.2 then s1 else s1.switchOut l.queue false)
    else .next s

/- Commands of queues (R334, R347). -/

/-- A write of QTAIL (R334, R347): accepted into TAIL or into the shadow, or ignored with TERR set. -/
def State.writeTail (s : State) (q : Nat) (v : Word) : State :=
  let x := s.queue q
  if (v - x.prog).toNat ≤ 2 ^ x.log2n ∧ (v - x.tail).toNat < 2 ^ 31 then
    s.setQueue q (if x.swout then { x with shadow := some v } else { x with tail := v })
  else s.setQueue q { x with terr := true }

/-- QTAIL_WRITE (R331, R334): the host's write to a device queue is ignored and sets TERR. -/
def execQtailWrite (q : Nat) (v : Word) (s : State) : Host.Outcome State Fault Refusal :=
  fromHost (fun s =>
    if q < 64 then s.writeTail q v
    else if q < 128 then s.setQueue q { s.queue q with terr := true }
    else s) s

/-- QCMD 1 (R342, R347): the queue is switched out and its loads are pre-empted. -/
def execQcmdStop (q : Nat) (s : State) : Host.Outcome State Fault Refusal :=
  fromHost (fun s =>
    let s1 := s.switchOut q true
    (s1.loadsOf q).foldl (fun s p => s.requestStop p.1) s1) s

/-- QCMD 2 (R347): a queue that QCMD 1 switched out is switched in. -/
def execQcmdResume (q : Nat) (s : State) : Host.Outcome State Fault Refusal :=
  fromHost (fun s => if (s.queue q).swout && (s.queue q).byCmd then s.switchIn q else s) s

end Sys2Proof.Machine
end

