-- ==== Sys2Proof/Machine/Service.lean ====
section
/-!
DEFINITION. Invalidation of cached translations and the service of pages that were not mapped (R272, R316, R317, R318, R362).
-/
namespace Sys2Proof.Machine

/-- Runs `f` with region `r` of load `ld` in place: for a scanned-out page from its image, which then takes the change, else as it stands. -/
def State.withImage (s : State) (ld r : Nat) (f : State → State) : State :=
  match s.savedPage ld r with
    | none => if (s.region r).owner = some ld then f s else s
    | some v =>
      let g := s.region r
      let s1 := f (s.setRegion r { v.img with owner := some ld, page := v.page })
      let img := s1.region r
      let saves := s1.sched.saves.map fun (w : SaveSlot) => if w.load = ld ∧ w.reg = r then { w with img := img } else w
      ({ s1 with sched := { s1.sched with saves := saves } }).setRegion r g

/-- Whether an access of a global port still uses a translation of an address that `covers` names (R316). -/
def Access.uses (a : Access) (covers : BitVec 64 → Bool) : Bool :=
  (a.ph == .walk || a.ph == .home || a.ph == .away) && a.slots.any fun p => (SMap.find a.tr p.1).isSome && covers p.2

/-- The users of such translations on one region of load `ld`: accesses of its global ports, and row operations on their way to their banks,
which the cycle of their firing tells apart. -/
def Region.users (g : Region) (ld r : Nat) (covers : BitVec 64 → Bool) : List (Nat × Nat × Nat × Nat) :=
  [144, 145].flatMap (fun e => ((g.elem e).port.accs.filter fun a => a.uses covers).map fun a => (ld, r, e, a.id))
    ++ (g.row.issued.filter fun i => i.1.opc != 0xFF && covers i.1.addr).map fun i => (ld, r, 146, i.1.fresh)

/-- The users of a space's translations, on the regions of its loads and in their save images, and the requests of copies and of sequencers
to other devices, by their tags. (DEDUCED, log entry 54) -/
def State.users (s : State) (part : BitVec 4) (covers : BitVec 64 → Bool) : List (Nat × Nat × Nat × Nat) :=
  (s.regions.flatMap fun g => if s.partOf g.1 = part then g.2.users ((g.2.owner).getD 0) g.1 covers else [])
    ++ (s.sched.saves.flatMap fun v => if v.part = part then v.img.users v.load v.reg covers else [])
    ++ ((s.links.remote.filter fun p => decide (148 ≤ p.elem) && s.remotePart p == part && (decide (p.load < 2 ^ 64) || covers (BitVec.ofNat 64 (p.id / 2)))).map
      fun p => (p.load, p.reg, p.elem, p.tag.toNat))

/-- The addresses that an invalidation covers (R316, R317): the whole space, or those of the page and of every leaf cached for it, which may be
larger. -/
def State.invCovers (s : State) (part : BitVec 4) (va : BitVec 64) (all : Bool) : BitVec 64 → Bool :=
  let same := fun (n : Nat) (a : BitVec 64) => a.toNat / 2 ^ n == va.toNat / 2 ^ n
  let lvls := (s.mmu.tlb.filter fun t => t.part == part && same (levelShift t.lvl) (BitVec.ofNat 64 (0x10000 * t.page))).map (·.lvl)
  let n := lvls.foldl (fun n l => Nat.max n (levelShift l)) 16
  fun a => all || same n a

/-- MMU_INV with GO set (R316, R317): the translations of the page, or of the whole space, are dropped, and the invalidation waits for
the accesses that still use them. (DEDUCED, log entry 54) -/
def execMmuInvGo (v : BitVec 64) (s : State) : Host.Outcome State Fault Refusal :=
  fromHost (fun s =>
    if v.getLsbD 0 then
      let part := v.extractLsb' 12 4
      let covers := s.invCovers part v (v.getLsbD 1)
      let tlb := s.mmu.tlb.filter fun t => !(t.part == part && covers (BitVec.ofNat 64 (0x10000 * t.page)))
      { s with mmu := { s.mmu with tlb := tlb, invGo := true, invHeld := s.mmu.invHeld ++ s.users part covers } }
    else s) s

/-- Whether a user that an invalidation waits for has completed or been parked (R316), wherever its region's state is.
(DEDUCED, log entry 54) -/
def State.invDone (s : State) (k : Nat × Nat × Nat × Nat) : Bool :=
  if 148 ≤ k.2.2.1 then !(s.links.remote.any fun p => p.elem == k.2.2.1 && p.tag.toNat == k.2.2.2) else
  let body := ((s.savedPage k.1 k.2.1).map (·.img)).or (if (s.region k.2.1).owner = some k.1 then some (s.region k.2.1) else none)
  match body with
  | none => true
  | some g => !(g.users k.1 k.2.1 fun _ => true).contains k

/-- MMU_INV_COMPLETE (R316): GO reads 0 once every access translated through a dropped translation has completed or been parked. -/
def execMmuInvComplete (s : State) : Host.Outcome State Fault Refusal :=
  if s.mmu.invGo ∧ s.mmu.invHeld.all s.invDone = true then .next { s with mmu := { s.mmu with invGo := false, invHeld := [] } }
  else .next s

/-- The page of a space is serviced (R318): the next park on it counts as a first park again. -/
def State.serviced (s : State) (part : BitVec 4) (page : Nat) : State :=
  let of_ := fun (k : Nat × Word × Nat) =>
    ((s.load k.1).map fun l => (s.queue l.queue).part == part).getD (s.copies.all fun c => c.2.by_.load != k.1 || c.2.by_.part == part)
  { s with mmu := { s.mmu with parks := s.mmu.parks.filter fun k => !(k.2.2 == page && of_ k) } }

/-- The parked stores of a page, in queue order. -/
def State.parkedStores (s : State) (part : BitVec 4) (page : Nat) : List Replay :=
  s.mmu.replay.filter fun q => q.part == part && q.page == page

/-- One parked store is replayed (R272, R318): it is translated and performed, or its fault stops the task; a start reaches its channel.
(DEDUCED, log entry 56) -/
def State.replayStore (s : State) (q : Replay) : State :=
  match (s.elem q.reg q.elem).acc q.id with
  | none => s
  | some a =>
    match a.slots.find? fun p => p.1 == q.slot with
    | none => s
    | some p =>
      match s.translate q.stack q.part p.2 (needOf a.opc) with
      | (.error b, s1) => s1.failSlot q.reg q.elem a q.slot p.2 b
      | (.ok ph, s1) =>
        let a1 := { a with tr := SMap.set a.tr q.slot ph }
        let s2 := s1.setAccess q.reg q.elem a1
        if a.opc = 0xCF then s2.reachChannel q.reg q.elem a1 ph
        else ((s2.performFirst q.reg q.elem a1 [p]).1).settle q.reg q.elem q.id

/-- Whether the access of a parked store still waits for the answer to another slot of its own, which another device performs. -/
def State.replayWaits (s : State) (q : Replay) : Bool :=
  let g := ((s.savedPage q.load q.reg).map (·.img)).getD (s.region q.reg)
  (((g.elem q.elem).acc q.id).map fun a => a.ph == .away && a.opc != 0xCF).getD false

/-- Replays the stores of mapped pages as far as it goes: a store that waits holds those behind it of its page (R272). -/
def State.replayList (s : State) : List Replay → List (BitVec 4 × Nat) → State
  | [], _ => s
  | q :: qs, held =>
    if held.contains (q.part, q.page) then s.replayList qs held
    else if s.replayWaits q then s.replayList qs ((q.part, q.page) :: held)
    else
      let s1 := { s with mmu := { s.mmu with replay := s.mmu.replay.erase q } }
      (s1.withImage q.load q.reg fun s => s.replayStore q).replayList qs held

/-- The replay of every mapped page goes on (R272). -/
def State.replayOn (s : State) : State := s.replayList (s.mmu.replay.filter (·.go)) []

/-- MMU_SVC with OP 1 (R318, R291, R362): the parked stores of the page are replayed in queue order and its spilled writes in theirs, and
its parked sequencers fetch their blocks again. -/
def State.svcMapped (v : BitVec 64) (s : State) : State :=
  let part := v.extractLsb' 12 4
  let page := v.toNat / 0x10000
  let s1 := s.serviced part page
  let ready := s1.mmu.replay.map fun q => if q.part = part ∧ q.page = page then { q with go := true } else q
  let s3 := ({ s1 with mmu := { s1.mmu with replay := ready } }).replayOn
  let s4 := s3.replayPage part page
  let wake := fun (q : Sequencer) => { q with parked := false, pay := [] }
  let s5 := (s4.parkedSeqs part page).foldl (fun s r => s.onSeq r wake) s4
  let saves := s5.sched.saves.map fun (w : SaveSlot) =>
    if w.part = part ∧ w.img.seq.active ∧ w.img.seq.parked ∧ fieldAt w.img.seq.pay 0 8 / 0x10000 = page then
      { w with img := { w.img with seq := wake w.img.seq } } else w
  { s5 with sched := { s5.sched with saves := saves } }

/-- MMU_SVC_MAPPED (R317, R318). -/
def execMmuSvcMapped (v : BitVec 64) (s : State) : Host.Outcome State Fault Refusal := fromHost (State.svcMapped v) s

/-- One parked store is dropped (R318); the first one of each load raises MEM 0x03. -/
def State.dropStore (s : State) (q : Replay) (first : Bool) : State :=
  match (s.elem q.reg q.elem).acc q.id with
  | none => s
  | some a =>
    match a.slots.find? fun p => p.1 == q.slot with
    | none => s
    | some p =>
      if first then s.failSlot q.reg q.elem a q.slot p.2 (0x04, 0x03)
      else
        let a1 := { a with slots := a.slots.filter fun p => p.1 != q.slot, chan := none }
        s.setElem q.reg q.elem (if a1.slots.isEmpty then (s.elem q.reg q.elem).dropAcc a.id else (s.elem q.reg q.elem).setAcc a1)

/-- Drops the parked stores of a list; `seen` are the loads that have met the fault. -/
def State.dropStores (s : State) : List Replay → List Nat → State
  | [], _ => s
  | q :: qs, seen =>
    (s.withImage q.load q.reg fun s => s.dropStore q (!seen.contains q.load)).dropStores qs (q.load :: seen)

/-- MMU_SVC with OP 2 (R318, R291, R362): the parked stores of the page are dropped, its owning tasks and its parked sequencers raise
MEM 0x03, and its spilled writes are discarded with ENGINE 0x04. -/
def State.svcUnmappable (v : BitVec 64) (s : State) : State :=
  let part := v.extractLsb' 12 4
  let page := v.toNat / 0x10000
  let qs := s.parkedStores part page
  let s1 := s.serviced part page
  let s2 := { s1 with mmu := { s1.mmu with replay := s1.mmu.replay.filter fun q => !(q.part == part && q.page == page) } }
  let s3 := (s2.dropStores qs []).dropPage part page
  let fail := fun (s : State) (r : Nat) =>
    let q := (s.region r).seq
    (s.onSeq r fun q => { q with parked := false, pay := [] }).raiseAs r 0 0 q.slot.toNat 0xF1
      ((FaultRec.of 0x04 0x03).at_ (BitVec.ofNat 64 (fieldAt q.pay 0 8)))
  let s4 := (s3.parkedSeqs part page).foldl fail s3
  let outs := s4.sched.saves.filter fun w =>
    w.part == part && w.img.seq.active && w.img.seq.parked && fieldAt w.img.seq.pay 0 8 / 0x10000 == page
  outs.foldl (fun s w => s.withImage w.load w.reg fun s => fail s w.reg) s4

/-- MMU_SVC_UNMAPPABLE (R317, R318). -/
def execMmuSvcUnmappable (v : BitVec 64) (s : State) : Host.Outcome State Fault Refusal := fromHost (State.svcUnmappable v) s

end Sys2Proof.Machine
end

