-- ==== Sys2Proof/Machine/Hub.lean ====
section
/-!
DEFINITION. The registers of BAR0 and what software does with them (R322, R333, R341, R351, R392 to R397, R414, R420).
-/
namespace Sys2Proof.Machine

/-- The state that a meaning of the device's own leaves. -/
def State.took (s : State) (f : State → Host.Outcome State Fault Refusal) : State := match f s with | .next t => t | _ => s

/- Reading registers. -/

/-- One field of a register. -/
def bitsAt (v n : Nat) : BitVec 64 := BitVec.ofNat 64 (v * 2 ^ n)

/-- A flag at bit `n` of a register. -/
def flagAt (b : Bool) (n : Nat) : BitVec 64 := if b then bitsAt 1 n else 0

/-- Whether queue `q` is empty (R333): TAIL = PROG, and nothing of it is running or stopped. -/
def State.isEmptyQueue (s : State) (q : Nat) : Bool :=
  let x := s.queue q
  x.tail == x.prog && (s.loadsOf q).isEmpty && x.pkts.all fun p => p.2.fin

/-- QSTAT (R333). (DEDUCED, log entry 91) -/
def State.qstat (s : State) (q : Nat) : BitVec 64 :=
  let x := s.queue q
  flagAt x.terr 9 ||| flagAt x.swout 8 ||| flagAt x.shadow.isSome 7 ||| flagAt x.held 6 ||| flagAt x.brkh 5 ||| flagAt x.abn 4
    ||| flagAt x.budx 3 ||| flagAt (s.isEmptyQueue q) 2

/-- QFRCTL (R322). -/
def Queue.ctl (x : Queue) : BitVec 64 :=
  bitsAt x.rlim.toNat 16 ||| flagAt x.brken 15 ||| flagAt x.ovf 14 ||| bitsAt x.pol.toNat 12 ||| bitsAt x.frlog 0

/-- A register of queue `q` at an offset of its block (R322, R333). (DEDUCED, log entry 91) -/
def State.queueReg (s : State) (q o : Nat) : BitVec 64 :=
  let x := s.queue q
  match o with
  | 0x00 => x.base
  | 0x08 => bitsAt x.log2n 0
  | 0x10 => bitsAt x.shownTail.toNat 0
  | 0x18 => bitsAt x.shownProg.toNat 0
  | 0x20 => bitsAt x.tick.toNat 0
  | 0x28 => bitsAt x.budget.toNat 0
  | 0x30 => bitsAt (x.used % 2 ^ 17) 0
  | 0x38 => flagAt x.np 8 ||| flagAt x.urg 7 ||| bitsAt x.part.toNat 0
  | 0x40 => s.qstat q
  | 0x48 => x.frbase
  | 0x50 => x.ctl
  | 0x58 => bitsAt x.frwr.toNat 0
  | 0x60 => bitsAt x.frrd.toNat 0
  | _ => 0

/-- REGMAP of region `r` (R341). (DEDUCED, log entry 90) -/
def State.regmap (s : State) (r : Nat) : BitVec 64 :=
  let g := s.region r
  let q := ((s.ownerLoad r).map (·.queue)).getD 0
  bitsAt (s.taskOf r).toNat 32 ||| bitsAt q 25 ||| bitsAt (g.page % 1024) 15 ||| bitsAt g.rstate.toNat 0

/-- The load whose current task SCHED_TSEL names (R341). -/
def State.selected (s : State) : Option Load :=
  (s.loads.find? fun p => (!p.2.ended || !p.2.bounds.isEmpty) && (p.2.task.map (·.id)) == some s.sched.tsel).map (·.2)

/-- SCHED_TINFO0 (R310, R341). (DEDUCED, log entry 90) -/
def State.tinfo0 (s : State) : BitVec 64 :=
  match s.selected with
  | none => 0
  | some l =>
    let n := l.lines
    let st := match l.stop with | .stopped => 2 | .out => 3 | _ => if l.ph = .faulted then 2 else 1
    bitsAt n 32 ||| bitsAt st 4 ||| bitsAt (s.queue l.queue).part.toNat 0

/-- SCHED_TINFO1 (R341). -/
def State.tinfo1 (s : State) : BitVec 64 := bitsAt ((s.selected.bind (·.task)).map (·.csn) |>.getD 0) 0

/-- SCHED_TPLp, with COUNT as it reads (R341). -/
def State.tplReg (s : State) (p : BitVec 4) : BitVec 64 := bitsAt (s.tplRange p).2 16 ||| bitsAt (s.tplRange p).1 0

/-- SCHED_ACTBp (R248, R341). -/
def State.actb (s : State) (p : Nat) : Byte := SMap.get (fun _ => (131 : Byte)) s.sched.actb p

/-- A register of the SCHED block (R341). -/
def State.schedReg (s : State) (off : Nat) : Option (BitVec 64) :=
  let a := off - 0x10000
  if a = 0 then some (bitsAt s.sched.seed.toNat 0)
  else if a = 0x08 then some (bitsAt s.sched.nplim 0)
  else if a = 0x10 then some (bitsAt s.sched.priv.toNat 0)
  else if a = 0x18 then some (bitsAt s.sched.tsel.toNat 0)
  else if a = 0x20 then some s.tinfo0
  else if a = 0x28 then some s.tinfo1
  else if 0x100 ≤ a ∧ a < 0x180 then some (SMap.get (fun _ => (0 : BitVec 64)) s.sched.save ((a - 0x100) / 8))
  else if 0x180 ≤ a ∧ a < 0x200 then some (bitsAt (s.actb ((a - 0x180) / 8)).toNat 0)
  else if 0x200 ≤ a ∧ a < 0x280 then some (s.tplReg (BitVec.ofNat 4 ((a - 0x200) / 8)))
  else if 0x1000 ≤ a ∧ a < 0x2800 then some (s.regmap ((a - 0x1000) / 8))
  else if 0x3000 ≤ a ∧ a < 0x3400 then some (SMap.get (fun _ => (0 : BitVec 64)) s.sched.rswin ((a - 0x3000) / 8))
  else if 0x3800 ≤ a ∧ a < 0x3C00 then some (SMap.get (fun _ => (0 : BitVec 64)) s.sched.rslim ((a - 0x3800) / 8))
  else if 0x4000 ≤ a ∧ a < 0x4800 ∧ a % 0x80 / 8 < 9 then
    some (bitsAt (SMap.get (fun _ => 0) s.sched.stale (16 * ((a - 0x4000) / 0x80) + a % 0x80 / 8)) 0)
  else none

/-- The slot table of a tile after reset (R297). -/
def bxslotReset : BitVec 64 := 0x4321432143214321

/-- BXSLOTm of region `r` (R297). -/
def State.bxslot (s : State) (r m : Nat) : BitVec 64 := SMap.get (fun _ => bxslotReset) (s.region r).bxslot m

/-- A register of the link block (R394). -/
def State.linkReg (s : State) (o : Nat) : Option (BitVec 64) :=
  if o < 0x60 then
    let e := s.edge (o / 8)
    -- the hub end of edge H counts in the same register
    let h := if o / 8 % 3 = 0 then s.edge (edgePeer (o / 8)) else Edge.reset
    some (bitsAt (Nat.min (e.retry.toNat + h.retry.toNat) 0xFFFF) 16 ||| bitsAt (Nat.min (e.retrain.toNat + h.retrain.toNat) 0xFF) 8 ||| flagAt e.down 1 ||| flagAt e.up 0)
  else if 0x100 ≤ o ∧ o < 0x180 then some (SMap.get (fun _ => (0xFFFFFFFF0000 : BitVec 64)) s.links.allow ((o - 0x100) / 8))
  else if 0x200 ≤ o ∧ o < 0x280 then
    let x := s.glink ((o - 0x200) / 8)
    some (bitsAt x.crcErr.toNat 16 ||| bitsAt x.retrain.toNat 8 ||| flagAt x.enable 2 ||| flagAt x.down 1 ||| flagAt x.up 0)
  else if 0x800 ≤ o ∧ o < 0x1000 then some (bitsAt (SMap.get (fun _ => (0 : Half)) s.links.route ((o - 0x800) / 8)).toNat 0)
  else none

/-- The oldest word of the window's read queue (R393). -/
def Hub.rdWord (h : Hub) : BitVec 64 := match h.hcwRd with | w :: _ => bitsAt (2 ^ 32 + w.toNat) 0 | [] => 0

/-- The template-table word that TPL_SEL selects (R393). -/
def State.tplWordAt (s : State) : BitVec 64 :=
  let v := s.hub.tplSel.toNat
  SMap.get (fun _ => (0 : BitVec 64)) s.eng.tpl (65536 * (v / 2 ^ 20 % 4) + 16 * (v % 4096) + v / 2 ^ 12 % 16)

/-- The temperature of stack `st` (R411). -/
def State.temp (s : State) (st : Nat) : Nat := SMap.get Config.temperature s.pwr.temp st

/-- The stored firmware image (R417): the one that the part is delivered with, until another is installed. (DESIGN CHOICE, log entry 10) -/
def Power.image (p : Power) : List Byte := p.fwimg.getD Config.firmwareImage

/-- A register of the hub block (R393, R414). -/
def State.hubReg (s : State) (o : Nat) : Option (BitVec 64) :=
  let p := s.pwr
  match o with
  | 0x00 => some (bitsAt 0x0768 16 ||| bitsAt Config.hubRev.toNat 0)
  | 0x08 => some (bitsAt s.hub.dom.toNat 8 ||| bitsAt s.hub.dev.toNat 0)
  | 0x10 => some (bitsAt s.cyc 0)
  | 0x18 => some (flagAt s.hub.wsdrop 2 ||| flagAt (s.links.edges.any fun e => e.2.down) 1 ||| flagAt p.rdy 0)
  | 0x20 => some (bitsAt s.hub.hcwSel.toNat 0)
  | 0x28 => some 0
  | 0x30 => some s.hub.rdWord
  | 0x38 => some 0
  | 0x40 => some (bitsAt p.cap 0)
  | 0x48 => some (bitsAt p.watts 20 ||| bitsAt p.clkpct 12 ||| flagAt p.capped 2 ||| flagAt p.trip 1 ||| flagAt p.sag 0)
  | 0x50 => some p.fwsrc
  | 0x58 => some 0
  | 0x60 => some (bitsAt (Config.imageVersion p.image) 32 ||| bitsAt p.reason.toNat 4 ||| bitsAt p.fwst.toNat 0)
  | 0x68 => some 0
  | 0x70 => some (p.rb.headD 0)
  | 0xA0 => some (s.hub.tplSel.zeroExtend 64)
  | 0xA8 => some s.tplWordAt
  | _ =>
    if 0x80 ≤ o ∧ o < 0xA0 then
      let st := (o - 0x80) / 8
      some (bitsAt (s.temp st % 256) 8 ||| bitsAt (s.level st) 0)
    else none

/-- Whether an offset names a register that only the host reaches (R414). -/
def hostOnly (off : Nat) : Bool := off == 0x60050 || off == 0x60058 || off == 0x60068 || off == 0x60070

/-- The value of the register at an offset of BAR0, or none where the offset names no register (R351, R392). (DEDUCED, log entry 99) -/
def State.barValue (s : State) (off : Nat) : Option (BitVec 64) :=
  let h := s.hub
  if off % 8 ≠ 0 then none
  else if off < 0x4000 then some (s.queueReg (off / 0x80) (off % 0x80))
  else if off < 0x10000 then none
  else if off < 0x20000 then s.schedReg off
  else if off < 0x20080 then some (s.mmuRoot (BitVec.ofNat 4 ((off - 0x20000) / 8)))
  else if off = 0x20080 then some (flagAt s.mmu.invGo 0)
  else if off = 0x20088 then some 0
  else if off = 0x30000 then some h.dfbase
  else if off = 0x30008 then some (h.dfctl.zeroExtend 64 ||| flagAt h.dfovf 14 ||| bitsAt h.dflog 0)
  else if off = 0x30010 then some (bitsAt h.dfwr.toNat 0)
  else if off = 0x30018 then some (bitsAt h.dfrd.toNat 0)
  else if 0x40000 ≤ off ∧ off < 0x4C000 then some (s.bxslot ((off - 0x40000) / 64) (off % 64 / 8))
  else if 0x50000 ≤ off ∧ off < 0x60000 then s.linkReg (off - 0x50000)
  else if 0x60000 ≤ off ∧ off < 0x70000 then s.hubReg (off - 0x60000)
  else if 0x70000 ≤ off ∧ off < 0x70880 then
    some (SMap.get (fun k => if k % 2 = 1 then (0x100000000 : BitVec 64) else 0) h.msix ((off - 0x70000) / 8))
  else if 0x78000 ≤ off ∧ off < 0x78018 then
    let k := (off - 0x78000) / 8
    some (BitVec.ofNat 64 (h.pend.foldl (fun v n => if n / 64 = k then v + 2 ^ (n % 64) else v) 0))
  else none

/-- TPL_SEL after an access of TPL_DATA (R393): WORD advances by one, carrying into ENTRY. -/
def Hub.tplNext (h : Hub) : Hub :=
  let v := h.tplSel.toNat
  let k := (16 * (v % 4096) + v / 2 ^ 12 % 16 + 1) % 65536
  { h with tplSel := BitVec.ofNat 32 (v / 2 ^ 20 * 2 ^ 20 + k % 16 * 2 ^ 12 + k / 16) }

/-- Whether a waiting window command reads a state word (R397): such a one waits while the read queue is full. -/
def isWindowRead (w : Word) : Bool := w.extractLsb' 16 8 == 243 && w.extractLsb' 0 2 == 2

/-- Moves the oldest waiting window command into the agenda, where it may go (R397). -/
def State.pump (s : State) : State :=
  match s.hub.hcwq with
  | [] => s
  | (r, w) :: rest =>
    if isWindowRead w && decide (64 ≤ s.hub.hcwRd.length) then s
    else { s with hub := { s.hub with hcwq := rest }, agenda := .cmd r true w :: s.agenda }

/-- HCW_RD (R393, R397): the oldest window read result is returned and removed, and the commands that waited for room go on. -/
def execHcwRd (s : State) : Host.Outcome State Fault Refusal :=
  .next ({ s with ret := s.ret ++ [s.hub.rdWord], hub := { s.hub with hcwRd := s.hub.hcwRd.drop 1 } }).pump

/-- HCW_CMD (R393, R397): the command runs on region HCW_SEL after those that wait. A region number that names no region takes none. -/
def execHcwCmd (v : Word) (s : State) : Host.Outcome State Fault Refusal :=
  let r := s.hub.hcwSel.toNat
  if r < 768 then .next ({ s with hub := { s.hub with hcwq := s.hub.hcwq ++ [(r, v)] } }).pump else .next s

/-- HCW_GO (R393, R397): the page committed through the window takes effect on a free region. On another region it activates nothing,
and a CFG fault goes to the device ring. A page still open ends with the stream (R63). (DEDUCED, log entry 95) -/
def execHcwGo (s : State) : Host.Outcome State Fault Refusal :=
  let r := s.hub.hcwSel.toNat
  let g := s.region r
  if 768 ≤ r then .next s
  else if g.owner.isSome ∨ g.rstate ≠ 0 then .next (s.deviceRecord { FaultRec.of 0x01 0x0D with reg := r })
  else if g.cfg.isOpen then .next (s.endStream r)
  else match g.cfg.done with
    | none => .next s
    | some c =>
      if g.cfg.doneKeep then
        .next (s.setRegion r { g with elems := c.map fun e => (e.1, { g.elem e.1 with conf := e.2 }), cfg := CfgStream.none })
      else
        let g1 : Region := { Region.reset with elems := c.map fun e => (e.1, Elem.fresh e.2), bxslot := g.bxslot, page := g.cfg.donePage.toNat }
        let s1 := s.setRegion r g1
        .next { s1 with mem := s1.mem.clearSpad r }

/-- TPL_DATA written (R282, R393). -/
def State.tplWrite (s : State) (v : BitVec 64) : State :=
  let t := s.hub.tplSel.toNat
  let stks := if t / 2 ^ 22 % 2 = 1 then [0, 1, 2, 3] else [t / 2 ^ 20 % 4]
  let k := 16 * (t % 4096) + t / 2 ^ 12 % 16
  let tpl := stks.foldl (fun m st => SMap.set m (65536 * st + k) v) s.eng.tpl
  { s with eng := { s.eng with tpl := tpl }, hub := s.hub.tplNext }

/-- TPL_DATA_WRITE (R393). -/
def execTplDataWrite (v : BitVec 64) (s : State) : Host.Outcome State Fault Refusal := .next (s.tplWrite v)

/-- TPL_DATA_READ (R393). -/
def execTplDataRead (s : State) : Host.Outcome State Fault Refusal :=
  .next { s with ret := s.ret ++ [s.tplWordAt], hub := s.hub.tplNext }

/- Firmware and readback (R414 to R420). -/

/-- `n` bytes of host memory from an address. -/
def State.hostBytes (s : State) (a n : Nat) : List Byte := (List.range n).map fun i => s.hostByte (a + i)

/-- Why an image is refused (R417, R418), by its code, or 0. -/
def imageReason (bs : List Byte) : Byte :=
  if !Config.imageFormed bs then 1
  else if !Config.imageEd25519 bs then 2
  else if !Config.imageMlDsa bs then 3
  else if Config.imageSecurity bs < Config.fusedFloor then 4
  else 0

/-- The thermal level of a stack at a temperature (R411): it rises at an entry point, and falls only 5 °C below it.
(DEDUCED, log entry 108) -/
def levelAt (old temp : Nat) : Nat :=
  if 100 ≤ temp then 2
  else if 95 ≤ temp then (if old = 2 ∧ 95 < temp then 2 else 1)
  else if 90 < temp then (if 1 ≤ old then 1 else 0)
  else 0

/-- The device after a reset (R415, R416): the stored image, host memory and the temperatures stay, and the image is verified (R417); where
it fails, RDY stays clear and FW_STAT says why. (DEDUCED, log entries 108, 110) -/
def State.resetDevice (s : State) : State :=
  let why := imageReason s.pwr.image
  let p := { Power.reset with
    fwimg := s.pwr.fwimg, temp := s.pwr.temp, lvl := s.pwr.temp.map fun t => (t.1, BitVec.ofNat 2 (levelAt 0 t.2))
    rdy := why == 0, fwst := if why = 0 then 0 else 3, reason := why }
  { State.reset with
    mem := { Mem.reset with host := s.mem.host }, pwr := p, inbox := s.inbox, tick := s.tick + 1, ret := s.ret, msi := s.msi }

/-- DEVICE_RESET (R415, R416). (DEDUCED, log entry 110) -/
def execDeviceReset (s : State) : Host.Outcome State Fault Refusal := .next s.resetDevice

/-- A firmware command has ended with a state and a reason (R414). (DESIGN CHOICE, log entry 111) -/
def State.fwEnds (s : State) (st : BitVec 4) (why : Byte) : State := { s with pwr := { s.pwr with fwst := st, reason := why, fwjob := none } }

/-- FW_INSTALL (R418): refused while a queue is not empty; the image is fetched and verified, and a good one is stored and the device resets,
while a bad one changes nothing. (DESIGN CHOICE, log entry 111) -/
def execFwInstall (len : Word) (s : State) : Host.Outcome State Fault Refusal :=
  if !((List.range 128).all s.isEmptyQueue) then .next (s.fwEnds 3 6)
  else if s.pwr.fwErr then .next (s.fwEnds 3 5)
  else
    let bs := s.hostBytes s.pwr.fwsrc.toNat (4096 * len.toNat)
    if imageReason bs ≠ 0 then .next (s.fwEnds 3 (imageReason bs))
    else .next { s with pwr := { s.pwr with fwimg := some bs } }.resetDevice

/-- FW_ATTEST (R419): the signed report over the nonce is written to host memory. -/
def execFwAttest (s : State) : Host.Outcome State Fault Refusal :=
  let a := s.pwr.fwsrc.toNat
  let nonce := s.hostBytes a 32
  let img := s.pwr.image
  let report := (List.range Config.attestLength).map fun i =>
    Config.attestByte ((s.hubReg 0).getD 0) (Config.measurement img) (Config.imageSecurity img) nonce i
  .next ((s.hostWrite (cellsAt (a + 4096) report)).fwEnds 2 0)

/-- A write of FW_CMD (R414, R418): the command is under way, and FW_STAT busy, until it ends; an install that a queue forbids is refused at once,
and a command while another is under way is ignored. That the fetch fails is the bus's choice. (DESIGN CHOICE, log entry 111) -/
def State.fwCommand (s : State) (v : BitVec 64) : State :=
  let cmd := v.extractLsb' 0 2
  if s.pwr.fwjob.isSome ∨ (cmd ≠ 1 ∧ cmd ≠ 2) then s
  else if cmd = 1 ∧ (List.range 128).all s.isEmptyQueue = false then s.fwEnds 3 6
  else { s.bump with pwr := { s.pwr with
    fwst := 1, reason := 0, fwjob := some (cmd, v.extractLsb' 32 32), fwErr := decide (s.free % 2 = 1) } }

/-- The words of a replay-queue entry (R420). (DESIGN CHOICE, log entry 112) -/
def State.rbReplay (s : State) (i : Nat) : List (BitVec 64) :=
  match (s.mmu.replay.filter fun q => q.stack == i / 1024 % 4)[i % 1024]? with
  | none => []
  | some q =>
    match (s.elem q.reg q.elem).acc q.id with
    | none => []
    | some a =>
      let va := ((a.slots.find? fun p => p.1 == q.slot).map (·.2)).getD 0
      let bs := slotBytes false a.opc a.f a.b q.slot
      let on := (List.range 8).foldl (fun m n => if n < bs.length ∧ (a.opc ≠ 0xC6 ∨ a.vm.getLsbD (n / 4) = true) then m + 2 ^ n else m) 0
      [Config.headWord a.task.toNat, va, bitsAt (leNat (bs.take 8)) 0, bitsAt on 0]

/-- What a flit on a die edge carries, in words (R420): each token with the region, element and channel it is bound for, or the bytes of an
access or copy. (DESIGN CHOICE, log entry 112) -/
def flitWords (f : BridgeFlit) : List Word :=
  (f.toks.flatMap fun t => [BitVec.ofNat 32 t.1, BitVec.ofNat 32 (4 * t.2.1 + t.2.2.1)] ++ (List.range 8).map t.2.2.2.lanes.get ++ [tokHeader t.2.2.2])
    ++ (List.range ((f.data.length + 3) / 4)).map fun i => BitVec.ofNat 32 (leNat ((f.data.drop (4 * i)).take 4))

/-- The words of a bridge's retry buffer (R381, R420): direction 0 is the edge's own sending, 1 that of its other end.
(DESIGN CHOICE, log entry 112) -/
def State.rbBridge (s : State) (i : Nat) : List (BitVec 64) :=
  let e := i % 16
  let from_ := if 12 ≤ e then none else if i / 16 % 4 = 0 then some e else if i / 16 % 4 = 1 then some (edgePeer e) else none
  match from_.bind fun e => (s.edge e).retryBuf[i / 64 % 64]? with
  | none => []
  | some fl => Config.headWord fl.fseq.toNat :: (List.range 32).map (Config.flitWord fl.fseq.toNat (flitWords fl))

/-- The words of a Glosutus link's retry buffer (R384, R420). -/
def State.rbLink (s : State) (i : Nat) : List (BitVec 64) :=
  match (s.glink (i % 16)).out[i / 16 % 256]? with
  | none => []
  | some b => Config.headWord (leNat (b.take 2) / 16) :: (List.range 32).map fun k => bitsAt (leNat ((b.drop (8 * k)).take 8)) 0

/-- The words of a version line of the selected task (R341, R420). (DESIGN CHOICE, log entry 112) -/
def State.rbVersion (s : State) (i : Nat) : List (BitVec 64) :=
  match s.selected with
  | none => []
  | some l =>
    let cells := l.vers.foldl (fun m v => v.2.foldl (fun m c => SMap.set m c.1 c.2) m) []
    match (linesOf cells)[i]? with
    | none => []
    | some n =>
      let at_ := fun k => SMap.find cells (128 * n + k)
      let mask := fun h => bitsAt ((List.range 64).foldl (fun m k => if (at_ (64 * h + k)).isSome then m + 2 ^ k else m) 0) 0
      [1, bitsAt (128 * n) 0, mask 0, mask 1]
        ++ (List.range 16).map fun w => bitsAt (leNat ((List.range 8).map fun k => (at_ (8 * w + k)).getD 0)) 0

/-- The words of a save slot's directory entry (R344, R420). (DESIGN CHOICE, log entry 112) -/
def State.rbSave (s : State) (i : Nat) : List (BitVec 64) :=
  match s.sched.saves.find? fun v => v.part.toNat == i % 16 && v.slot == i / 16 % 256 with
  | none => []
  | some v =>
    let t := (((s.load v.load).bind (·.task)).map (·.id.toNat)).getD 0
    [Config.headWord t, bitsAt v.reg 0, bitsAt v.page 0]

/-- The words of an engine channel (R281, R420). (DESIGN CHOICE, log entry 112) -/
def State.rbChannel (s : State) (i : Nat) : List (BitVec 64) :=
  match (s.chan (i % 1024) (i / 1024 % 64)).run with
  | none => []
  | some c => [Config.headWord c.by_.task.toNat, bitsAt c.by_.idx.toNat 0, bitsAt c.pos 0]

/-- RB_SEL_WRITE (R420): one entry of an internal structure is latched. -/
def execRbSelWrite (v : BitVec 64) (s : State) : Host.Outcome State Fault Refusal :=
  let i := v.toNat % 2 ^ 56
  let ws := match v.toNat / 2 ^ 56 with
    | 1 => s.rbReplay i
    | 2 => s.rbBridge i
    | 3 => s.rbLink i
    | 4 => s.rbVersion i
    | 5 => s.rbSave i
    | 6 => s.rbChannel i
    | _ => []
  .next { s with pwr := { s.pwr with rb := ws } }

/-- RB_DATA_READ (R420): the next word of the latched entry, and zero beyond its end. -/
def execRbDataRead (s : State) : Host.Outcome State Fault Refusal :=
  .next { s with ret := s.ret ++ [s.pwr.rb.headD 0], pwr := { s.pwr with rb := s.pwr.rb.drop 1 } }

/- Writing registers. -/

/-- A write of a QBASE, QSIZE or QPART (R333): only while the queue is empty, else TERR is set. -/
def State.whileEmpty (s : State) (q : Nat) (x : Queue) : State :=
  s.setQueue q (if s.isEmptyQueue q then x else { s.queue q with terr := true })

/-- A ring's LOG2N as a write leaves it (R322, R333). -/
def logOf (v : BitVec 64) : Nat := if 4 ≤ v.toNat % 32 ∧ v.toNat % 32 ≤ 16 then v.toNat % 32 else 4

/-- A write of QFRCTL (R322). -/
def Queue.writeCtl (x : Queue) (v : BitVec 64) : Queue :=
  { x with
    rlim := v.extractLsb' 16 8, brken := v.getLsbD 15, ovf := x.ovf && !v.getLsbD 14
    pol := if v.getLsbD 13 then 0 else v.extractLsb' 12 2, frlog := logOf v }

/-- QFCMD and QCMD (R322, R333). -/
def State.queueCmd (s : State) (q : Nat) (fr : Bool) (v : BitVec 64) : State :=
  match fr, v.toNat % 4 with
  | true, 1 => s.took (execQfcmdRestart q)
  | true, 2 => s.took (execQfcmdAbandon q)
  | true, 3 => s.took (execQfcmdResume q)
  | false, 1 => s.took (execQcmdStop q)
  | false, 2 => s.took (execQcmdResume q)
  | _, _ => s

/-- A write to a register of queue `q` (R322, R333, R334). -/
def State.writeQueue (s : State) (q o : Nat) (v : BitVec 64) (host : Bool) : State :=
  let x := s.queue q
  match o with
  | 0x00 => s.whileEmpty q { x with base := v &&& 0xFFFFFFFFFFFC0 }
  | 0x08 => s.whileEmpty q { x with log2n := logOf v }
  | 0x10 => if host then s.took (execQtailWrite q (v.extractLsb' 0 32)) else s.writeTail q (v.extractLsb' 0 32)
  | 0x20 => s.setQueue q { x with tick := v.extractLsb' 0 16 }
  | 0x28 => s.setQueue q { x with budget := v.extractLsb' 0 17 }
  | 0x38 => s.whileEmpty q { x with np := v.getLsbD 8, urg := v.getLsbD 7, part := v.extractLsb' 0 4 }
  | 0x40 => s.setQueue q { x with terr := x.terr && !v.getLsbD 9, abn := x.abn && !v.getLsbD 4 }
  | 0x48 => s.setQueue q { x with frbase := v &&& 0xFFFFFFFFFFFC0 }
  | 0x50 => s.setQueue q (x.writeCtl v)
  | 0x60 => s.setQueue q { x with frrd := v.extractLsb' 0 32 }
  | 0x68 => s.queueCmd q true v
  | 0x70 => s.queueCmd q false v
  | _ => s

/-- A write to a register of the SCHED block (R341). -/
def State.writeSched (s : State) (off : Nat) (v : BitVec 64) : State :=
  let a := off - 0x10000
  let h := s.sched
  let put := fun (h : Sched) => { s with sched := h }
  if a = 0 then s.took (execSchedSeedWrite v)
  else if a = 0x08 then put { h with nplim := if v.toNat % 1024 = 0 ∨ 1000 < v.toNat % 1024 then 1000 else v.toNat % 1024 }
  else if a = 0x10 then put { h with priv := v.extractLsb' 0 16 }
  else if a = 0x18 then put { h with tsel := v.extractLsb' 0 32 }
  else if 0x100 ≤ a ∧ a < 0x180 then put { h with save := SMap.set h.save ((a - 0x100) / 8) (v &&& 0xFFFFFFFC000FF) }
  else if 0x180 ≤ a ∧ a < 0x200 then
    let n := v.toNat % 256
    put { h with actb := SMap.set h.actb ((a - 0x180) / 8) (if n = 0 then 1 else if 131 < n then 131 else BitVec.ofNat 8 n) }
  else if 0x200 ≤ a ∧ a < 0x280 then put { h with tpl := SMap.set h.tpl ((a - 0x200) / 8) (v.extractLsb' 0 32 &&& 0x1FFF0FFF) }
  else if 0x3000 ≤ a ∧ a < 0x3400 then put { h with rswin := SMap.set h.rswin ((a - 0x3000) / 8) (v &&& 0xFFFFFFFFFFFF0000) }
  else if 0x3800 ≤ a ∧ a < 0x3C00 then put { h with rslim := SMap.set h.rslim ((a - 0x3800) / 8) (v &&& 0xFFFFFFFFFFFF0001) }
  else if 0x4000 ≤ a ∧ a < 0x4800 ∧ a % 0x80 / 8 < 9 then
    put { h with stale := SMap.set h.stale (16 * ((a - 0x4000) / 0x80) + a % 0x80 / 8) 0 }
  else s

/-- Whether a value of BXSLOT holds a reserved entry (R297). -/
def bxslotBad (v : BitVec 64) : Bool := (List.range 16).any fun e => decide (5 ≤ v.toNat / 16 ^ e % 16)

/-- A write of BXSLOTm of region `r` (R297): one with a reserved entry changes nothing. -/
def State.writeBxslot (s : State) (r m : Nat) (v : BitVec 64) : State :=
  if bxslotBad v then s else s.onRegion r fun g => { g with bxslot := SMap.set g.bxslot m v }

/-- The counters of a bridge that a write touches are cleared (R394): RETRAIN in byte 1, RETRY in bytes 2 and 3. `on` says which bytes are
written. (DEDUCED, log entry 99) -/
def State.clearBridge (s : State) (e : Nat) (on : Nat → Bool) : State :=
  let clear := fun (x : Edge) => { x with retry := if on 2 || on 3 then 0 else x.retry, retrain := if on 1 then 0 else x.retrain }
  let s1 := s.setEdge e (clear (s.edge e))
  if e % 3 = 0 then s1.setEdge (edgePeer e) (clear (s1.edge (edgePeer e))) else s1

/-- A write of GL_STAT (R394): the counters that it touches are cleared, and ENABLE says whether the link trains. A link that is not
enabled is neither up nor down. `on` says which bytes are written. (DEDUCED, log entry 99) -/
def State.writeLink (s : State) (k : Nat) (v : BitVec 64) (on : Nat → Bool) : State :=
  let x := s.glink k
  let z := { x with crcErr := if (List.range 4).any fun i => on (i + 2) then 0 else x.crcErr, retrain := if on 1 then 0 else x.retrain }
  if on 0 && !v.getLsbD 2 then
    let s1 := s.setGlink k { GLink.reset with out := [] }
    if x.up || x.down then s1.raiseVector 129 else s1
  else s.setGlink k (if on 0 then { z with enable := true } else z)

/-- A write to a register of the link block (R394). -/
def State.writeLinks (s : State) (o : Nat) (v : BitVec 64) (on : Nat → Bool) : State :=
  if o < 0x60 then s.clearBridge (o / 8) on
  else if 0x100 ≤ o ∧ o < 0x180 then
    { s with links := { s.links with allow := SMap.set s.links.allow ((o - 0x100) / 8) (v &&& 0xFFFFFFFF0000) } }
  else if 0x200 ≤ o ∧ o < 0x280 then s.writeLink ((o - 0x200) / 8) v on
  else if 0x800 ≤ o ∧ o < 0x1000 then
    { s with links := { s.links with route := SMap.set s.links.route ((o - 0x800) / 8) (v.extractLsb' 0 16) } }.flush
  else s

/-- Whether a task is current in some load (R306). -/
def State.tasksRun (s : State) : Bool := s.loads.any fun p => p.2.task.isSome && p.2.ph != .faulted

/-- A write of HCW_SEL (R393, R397): it ends the host's stream and begins one on the region it names, so that a page which the old one left
open fails (R63), and commands are taken again after a refused one (R66). (DESIGN CHOICE, log entry 133) -/
def State.selectWindow (s : State) (v : BitVec 10) : State :=
  let old := s.hub.hcwSel.toNat
  let s1 := if old < 768 ∧ (s.region old).rstate ≠ 1 then s.endStream old else s
  let s2 := { s1 with hub := { s1.hub with hcwSel := v } }
  if v.toNat < 768 then s2.onRegion v.toNat fun g => { g with cfg := { g.cfg with dead := false } } else s2

/-- A write to a register of the hub block (R393, R414). (DEDUCED, log entry 100) (DESIGN CHOICE, log entry 133) -/
def State.writeHub (s : State) (o : Nat) (v : BitVec 64) : State :=
  let p := s.pwr
  match o with
  | 0x08 => if s.tasksRun then s else { s with hub := { s.hub with dom := v.extractLsb' 8 8, dev := v.extractLsb' 0 8 } }
  | 0x18 => { s with hub := { s.hub with wsdrop := s.hub.wsdrop && !v.getLsbD 2 } }
  | 0x20 => s.selectWindow (v.extractLsb' 0 10)
  | 0x28 => s.took (execHcwCmd (v.extractLsb' 0 32))
  | 0x38 => if v.getLsbD 0 then s.took execHcwGo else s
  | 0x40 =>
    let n := v.toNat % 4096
    { s with pwr := { p with cap := if n < 1000 then 1000 else if 3000 < n then 3000 else n } }
  | 0x48 => { s with pwr := { p with sag := p.sag && !v.getLsbD 0 } }
  | 0x50 => { s with pwr := { p with fwsrc := v &&& 0xFFFFFFFFFFFFF000 } }
  | 0x58 => s.fwCommand v
  | 0x68 => s.took (execRbSelWrite v)
  | 0xA0 => { s with hub := { s.hub with tplSel := v.extractLsb' 0 32 &&& 0x70FFFF } }
  | 0xA8 => s.tplWrite v
  | _ => s

/-- A vector that is no longer masked is raised if it is pending (R396). -/
def State.unmask (s : State) (n : Nat) : State :=
  let ctl := SMap.get (fun _ => (0x100000000 : BitVec 64)) s.hub.msix (2 * n + 1)
  if !ctl.getLsbD 32 && s.hub.pend.contains n then
    { s with hub := { s.hub with pend := s.hub.pend.filter fun k => k != n }, msi := s.msi ++ [n] }
  else s

/-- A write of an MSI-X table word (R396). -/
def State.writeMsix (s : State) (k : Nat) (v : BitVec 64) : State :=
  { s with hub := { s.hub with msix := SMap.set s.hub.msix k v } }.unmask (k / 2)

/-- A write to the register at an offset of BAR0 (R392), by the host or by SYSWR. -/
def State.barWrite (s : State) (off : Nat) (v : BitVec 64) (host : Bool) : State :=
  let h := s.hub
  if off % 8 ≠ 0 then s
  else if off < 0x4000 then s.writeQueue (off / 0x80) (off % 0x80) v host
  else if off < 0x10000 then s
  else if off < 0x20000 then s.writeSched off v
  else if off < 0x20080 then
    { s with mmu := { s.mmu with root := SMap.set s.mmu.root ((off - 0x20000) / 8) (v &&& 0xFFFFFFFFFE0001) } }
  else if off = 0x20080 then s.took (execMmuInvGo v)
  else if off = 0x20088 then
    if v.toNat % 4 = 1 then s.took (execMmuSvcMapped v) else if v.toNat % 4 = 2 then s.took (execMmuSvcUnmappable v) else s
  else if off = 0x30000 then { s with hub := { h with dfbase := v &&& 0xFFFFFFFFFFFC0 } }
  else if off = 0x30008 then
    let pol : BitVec 32 := if v.getLsbD 13 then 0 else v.extractLsb' 0 32 &&& 0x1000
    { s with hub := { h with dfctl := (v.extractLsb' 0 32 &&& 0xFF8000) ||| pol, dfovf := h.dfovf && !v.getLsbD 14, dflog := logOf v } }
  else if off = 0x30018 then { s with hub := { h with dfrd := v.extractLsb' 0 32 } }
  else if 0x40000 ≤ off ∧ off < 0x4C000 then s.writeBxslot ((off - 0x40000) / 64) (off % 64 / 8) v
  else if 0x50000 ≤ off ∧ off < 0x60000 then s.writeLinks (off - 0x50000) v fun _ => true
  else if 0x60000 ≤ off ∧ off < 0x70000 then s.writeHub (off - 0x60000) v
  else if 0x70000 ≤ off ∧ off < 0x70880 then s.writeMsix ((off - 0x70000) / 8) v
  else s

/-- Whether an offset lies in the hub block (R415). -/
def inHubBlock (off : Nat) : Bool := decide (0x60000 ≤ off) && decide (off < 0x70000)

/-- What the bytes of a register that a narrow access does not write stand at (R392): its value, but zero for commands and for bits that a
written 1 clears. (DEDUCED, log entry 99) -/
def State.unwritten (s : State) (off : Nat) : BitVec 64 :=
  let v := (s.barValue off).getD 0
  if off < 0x4000 then (if off % 0x80 = 0x40 then 0 else if off % 0x80 = 0x50 then v &&& ~~~0x4000 else v)
  else if off = 0x30008 then v &&& ~~~0x4000
  else if off = 0x20080 ∨ off = 0x60018 ∨ off = 0x60048 then 0
  else v

/-- The bytes of the register at an offset, up to its highest field (R322, R333, R341, R393, R394, R414): a write of the bytes above them is
ignored (R392). (DEDUCED, log entry 99) -/
def regBytes (off : Nat) : Nat :=
  if off < 0x4000 then
    match off % 0x80 with
    | 0x00 | 0x48 => 7
    | 0x08 | 0x68 | 0x70 => 1
    | 0x20 | 0x38 | 0x40 => 2
    | 0x28 | 0x30 => 3
    | _ => 4
  else if off = 0x10008 ∨ off = 0x10010 then 2
  else if off < 0x10100 then 4
  else if off < 0x10180 then 7
  else if off < 0x10200 then 1
  else if off < 0x10280 then 4
  else if off < 0x14000 then 8
  else if off < 0x20000 then 6
  else if off < 0x20080 then 7
  else if off < 0x30000 then 8
  else if off = 0x30000 then 7
  else if off < 0x40000 then 4
  else if off < 0x50000 then 8
  else if off < 0x50060 then 4
  else if off < 0x50280 then 6
  else if off < 0x60000 then 2
  else match off with
    | 0x60008 | 0x60020 | 0x60040 => 2
    | 0x60018 | 0x60038 => 1
    | 0x60028 | 0x60048 => 4
    | 0x600A0 => 3
    | _ => 8

/-- REGISTER_WRITE (R392): the host writes a register of BAR0, whole or some bytes of it. A narrow write acts on its bytes of the register and
on no field beside them. (DEDUCED, log entry 99) -/
def execRegisterWrite (off : Nat) (bytes : List Byte) (s : State) : Host.Outcome State Fault Refusal :=
  let k := off % 8
  let reg := off - k
  let old := leBytes 8 (s.unwritten reg).toNat
  let v := BitVec.ofNat 64 (leNat (old.take k ++ bytes ++ old.drop (k + bytes.length)))
  let on := fun (i : Nat) => decide (k ≤ i ∧ i < k + bytes.length)
  .next (if !(s.reachable || inHubBlock off) || decide (regBytes reg ≤ k) then s
    else if 0x50000 ≤ reg ∧ reg < 0x60000 then s.writeLinks (reg - 0x50000) v on
    else s.barWrite reg v true)

/-- What the host reads at an offset of BAR0 (R413, R415): all ones outside the hub block until the device is ready, except after a trip; zero
where the offset names no register (R392). -/
def State.hostValue (s : State) (off : Nat) : BitVec 64 :=
  if s.reachable || s.pwr.trip || inHubBlock off then (s.barValue off).getD 0 else BitVec.allOnes 64

/-- STALE_CLEAR (R341): a write clears a stale-read counter. -/
def execStaleClear (p k : Nat) (s : State) : Host.Outcome State Fault Refusal :=
  fromHost (fun s => if p < 16 ∧ k < 9 then { s with sched := { s.sched with stale := SMap.set s.sched.stale (16 * p + k) 0 } } else s) s

/-- BRG_STAT_CLEAR (R394). -/
def execBrgStatClear (e : Nat) (s : State) : Host.Outcome State Fault Refusal :=
  fromHost (fun s => if e < 12 then s.clearBridge e (fun _ => true) else s) s

/-- GL_STAT_WRITE (R394). (DEDUCED, log entry 100) -/
def execGlStatWrite (k : Nat) (v : BitVec 64) (s : State) : Host.Outcome State Fault Refusal :=
  fromHost (fun s => if k < 16 then s.writeLink k v (fun _ => true) else s) s

/-- MSIX_UNMASK (R396): the mask of a vector is cleared, and the vector is raised if it is pending. -/
def execMsixUnmask (n : Nat) (s : State) : Host.Outcome State Fault Refusal :=
  fromHost (fun s =>
    let v := SMap.get (fun _ => (0x100000000 : BitVec 64)) s.hub.msix (2 * n + 1)
    if n < 136 then s.writeMsix (2 * n + 1) (v &&& ~~~0x100000000) else s) s

/- Device memory over BAR2 (R395). -/

/-- The memory kind of a physical address in BAR2, if memory lies there (R313, R395). -/
def bar2Kind (a : Nat) : Option (BitVec 3) :=
  if a < rowStoreEnd then some 0
  else if spadBase ≤ a ∧ a < spadBase + 768 * 0x80000 then some 1
  else if wstoreBase ≤ a ∧ a < wstoreBase + 768 * 0x100000 then some 2
  else none

/-- HOST_BAR2_READ (R395): the host reads the aligned 8 bytes at an offset, as latest applied state. A word lost to an uncorrectable
error reads as a free value (log entry 107). -/
def execHostBar2Read (x : Nat) (s : State) : Host.Outcome State Fault Refusal :=
  let a := x / 8 * 8
  if (bar2Kind a).isSome && (s.reachable || s.pwr.trip) then
    if s.mem.isLost a 8 then .next { s.bump with ret := s.ret ++ [BitVec.ofNat 64 s.free] }
    else .next { s with ret := s.ret ++ [bitsAt (s.mem.readLe a 8) 0] }
  else .next { s with ret := s.ret ++ [BitVec.allOnes 64] }

/-- One aligned group of a host write (R267, R395): an immediate write. One to the weight store of a region with an active load is
dropped, and WSDROP is set. -/
def State.bar2Put (s : State) (cells : List Host.Cell) : State :=
  match (cells.head?).bind fun c => (bar2Kind c.1).map fun k => (k, c.1) with
  | none => s
  | some (k, a) =>
    if k = 2 ∧ (s.region ((a - wstoreBase) / 0x100000)).owner.isSome ∧ 2 ≤ (s.region ((a - wstoreBase) / 0x100000)).rstate.toNat then
      { s with hub := { s.hub with wsdrop := true } }
    else s.immediate k cells

/-- Writes bytes from an address in aligned groups of 8 (R395). -/
def State.bar2Puts (s : State) : Nat → Nat → List Byte → State
  | 0, _, _ => s
  | n + 1, a, bs =>
    if bs.isEmpty then s
    else
      let k := 8 - a % 8
      (s.bar2Put (cellsAt a (bs.take k))).bar2Puts n (a + k) (bs.drop k)

/-- HOST_BAR2_WRITE (R267, R276, R395). -/
def execHostBar2Write (x : Nat) (bytes : List Byte) (s : State) : Host.Outcome State Fault Refusal :=
  fromHost (fun s => s.bar2Puts (bytes.length + 1) x bytes) s

end Sys2Proof.Machine
end

