-- ==== Sys2Proof/Machine/Links.lean ====
section
/-!
DEFINITION. Bridges between stacks (R378 to R382), Glosutus links (R383 to R388), requests from and to other devices (R385, R389), and
scrubbing (R321).
-/
namespace Sys2Proof.Machine

/- Bridges. -/

/-- A saturating count (R394). -/
def satIncH (n : Half) : Half := if n = 0xFFFF then n else n + 1

/-- A saturating count of one byte (R394). -/
def satIncB (n : Byte) : Byte := if n = 0xFF then n else n + 1

/-- A flit that has crossed edge `e` is at its stack, where its tokens go into their routers, or comes to the next edge toward it, on the stream
that its route has there (R378, R379, R381). -/
def State.land (s : State) (e due : Nat) (fl : BridgeFlit) : State :=
  match edgePath (edgeEnd e) fl.dest with
  | [] => fl.toks.foldl (fun s t =>
      if (s.region t.1).owner.isNone then s else s.setElem t.1 t.2.1 ((s.elem t.1 t.2.1).send t.2.2.1 ⟨s.cyc, t.2.2.2⟩)) s
  | b :: _ =>
    let st := match fl.toks.head?.bind fun t => s.feeder t.1 t.2.1 t.2.2.1 with
      | some p => s.streamOf b p.1 p.2.1 p.2.2
      | none => fl.stream
    s.handEdge b (due + 30) { fl with stream := st }

/-- BRIDGE_RETRY (R381): the sender resends from the failed flit, which keeps its place. (DESIGN CHOICE, log entry 101) -/
def execBridgeRetry (e : Nat) (seq : BitVec 12) (s : State) : Host.Outcome State Fault Refusal :=
  let x := s.edge e
  match x.retryBuf.head? with
  | some h =>
    if h.fseq = seq ∧ x.up ∧ x.fails < 8 then .next (s.setEdge e { x with retry := satIncH x.retry, fails := x.fails + 1 }) else .next s
  | none => .next s

/-- BRIDGE_FLIT_RECEIVE (R381): the flit that is next in order arrives at the far end of edge `e`. With its CRC right it is delivered and
acknowledged; otherwise it is discarded, and the negative acknowledgement makes the sender resend. (DESIGN CHOICE, log entry 102) -/
def execBridgeFlitReceive (e : Nat) (fl : BridgeFlit) (s : State) : Host.Outcome State Fault Refusal :=
  let x := s.edge e
  match x.retryBuf with
  | [] => .next s
  | h :: rest =>
    if fl = { h with crcOk := true } ∧ x.up ∧ x.fails < 8 ∧ s.pwr.trip = false then
      .next (((s.setEdge e { x with retryBuf := rest, due := x.due.drop 1, rxSeq := h.fseq + 1, fails := 0 }).land e (x.due.headD s.cyc) h).pumpEdge e)
    else if fl.crcOk = false ∧ fl.fseq = h.fseq ∧ s.pwr.trip = false then execBridgeRetry e h.fseq s
    else .next s

/-- The load whose task is meant by a flit of a reserved stream: of a copy the starting task, while it runs (R299). -/
def State.senderLoad (s : State) (w : Sender) : Option Nat :=
  if w.elem < 1000 ∨ w.elem = seqElem then some w.load
  else match s.copies.find? fun k => k.2.num == w.id with
    | some k => if s.starterRuns k.2.by_ then some w.load else none
    | none => none

/-- Whether a flit that is on edge `b` still has edge `e` before it. -/
def flitNeeds (f : BridgeFlit) (b e : Nat) : Bool := b == e || (edgePath (edgeEnd b) f.dest).contains e

/-- The flits on the device that still have edge `e` before them. -/
def State.flitsFor (s : State) (e : Nat) : List BridgeFlit := s.links.edges.flatMap fun b => b.2.flits.filter fun f => flitNeeds f b.1 e

/-- The loads with traffic that waits on an edge: in a retry buffer or waiting on the way to it, or at the head of an output whose route crosses
it (R139). -/
def State.waitingOn (s : State) (e : Nat) : List Nat :=
  let sent := (s.flitsFor e).flatMap fun f => (f.toks.filterMap fun t => (s.region t.1).owner) ++ (f.who.bind s.senderLoad).toList
  let stalled := s.regions.filterMap fun g =>
    if g.2.elems.any fun y => (List.range 4).any fun c => !(y.2.outQ c).isEmpty && (g.2.converting y.1 c).isNone
        && (y.2.route c).any fun d => (s.edgesTo g.1 d).contains e
    then g.2.owner else none
  (sent ++ stalled).eraseDups

/-- The accesses and copies that had flits for edge `e` no longer wait for them: what they do next finds the edge down. -/
def State.dropSent (s : State) (e : Nat) : State :=
  let keep := fun (b : Nat) (f : BridgeFlit) => f.who.isNone || !flitNeeds f b e
  let cut := fun (b : Nat) (x : Edge) =>
    let sent := (x.retryBuf.zip x.due).filter fun p => keep b p.1
    { x with retryBuf := sent.map (·.1), due := sent.map (·.2), hold := x.hold.filter fun h => keep b h.1 }
  { s with links := { s.links with edges := s.links.edges.map fun b => (b.1, cut b.1 b.2) } }

/-- An edge goes down in both directions (R382): LINK 0x03 goes to the device ring, and the tasks whose traffic waits on it stop with
LINK 0x01. (DESIGN CHOICE, log entry 101) -/
def State.edgeFails (s : State) (e : Nat) : State :=
  let es := [e, edgePeer e]
  let s0 := es.foldl (fun s b => s.setEdge b { s.edge b with up := false, down := true }) s
  let s1 := (s0.deviceRecord (FaultRec.of 0x0A 0x03)).raiseVector 129
  (((es.flatMap s1.waitingOn).eraseDups).foldl (fun s k => s.stopFault k (FaultRec.of 0x0A 0x01)) (es.foldl State.dropSent s1))

/-- BRIDGE_RETRAIN (R382): after eight retries of one flit the link is retrained; the third failure in succession takes the edge down.
(DESIGN CHOICE, log entry 102) -/
def execBridgeRetrain (e : Nat) (ok : Bool) (s : State) : Host.Outcome State Fault Refusal :=
  let x := s.edge e
  if x.fails < 8 ∨ x.up = false then .next s
  else
    let y := { x with retrain := satIncB x.retrain }
    if ok then .next (s.setEdge e { y with fails := 0, lost := 0 })
    else if x.lost < 2 then .next (s.setEdge e { y with lost := x.lost + 1 })
    else .next ((s.setEdge e { y with lost := 3, up := false, down := true }).edgeFails e)

/-- ALLOWANCE_PERIOD (R380): every stream's allowance begins anew. (DEDUCED, log entry 106) -/
def execAllowancePeriod (s : State) : Host.Outcome State Fault Refusal :=
  .next ({ s with links := { s.links with spent := [] } } : State).flush.pumpEdges

/- Requests of this device (R385, R388). -/

/-- The state without a request. -/
def State.dropRemote (s : State) (p : Remote) : State := { s with links := { s.links with remote := s.links.remote.erase p } }

/-- A request comes to a fault, at the port, the sequencer or the engine that made it; an access that has pushed its result and lacks only
its acknowledgement faults too. (DEDUCED, log entry 104) -/
def State.failRemote (s : State) (p : Remote) (b : Bad) : State :=
  let r := p.reg
  if p.elem < 148 then
    s.withImage p.load r fun s =>
      if p.opc = 0xCA ∧ p.want = 0 then s.raise r p.elem p.slot.toNat p.opc { FaultRec.of b.1 b.2 with who := p.task } else
      match (s.elem r p.elem).acc p.id with
      | none => s
      | some a =>
        let sl := a.slots.headD (0, a.addr)
        s.failSlot r p.elem { a with ph := .home } sl.1 sl.2 b
  else if p.elem = seqElem then
    s.withImage p.load r fun s =>
      let q := (s.region r).seq
      s.raiseAs r 0 0 q.slot.toNat 0xF1 (badAt b (BitVec.ofNat 64 (fieldAt q.pay 0 8)))
  else
    s.copyLoses p b

/-- The tokens of an LDROW whose row another device returned (R235, R385). -/
def remoteRow (f : Fields) (data : List Byte) (lost : Bool) (ver : Nat) : List Token :=
  ((List.range (rowLen f / 32)).map fun i =>
    if lost then poisonTok f.efmt else dataTok f.efmt 0xFF (octOfBytes fun b => data.getD (32 * i + b) 0))
  ++ (if f.var.getLsbD 0 then [dataTok 0 0x01 (Oct.ofFn fun l => if l = 0 then BitVec.ofNat 32 (ver % 2 ^ 16) else 0)] else [])

/-- Whether the word that another device returned ends a WAITA (R231). (DESIGN CHOICE, log entry 105) -/
def waitHolds (a : Access) (data : List Byte) : Bool :=
  let w := accWidth a.opc a.f
  let val := fun v : Oct Word => if w = 8 then (pairAt v 0).toNat else (v.get 0).toNat
  let mask := if a.f.var.getLsbD 0 then val a.c else 2 ^ (8 * w) - 1
  intCond a.f.cc.toNat (8 * w) (leNat data &&& mask) (val a.b)

/-- A port's access takes the answer of another device (R231 to R236, R385). `lost` says that the home met an uncorrectable error: a version
that did not come is a free value. The bytes after a row give its slot's version and whether the read was stale, and an acknowledgement
of a row update its events (log entry 21). (DEDUCED, log entry 104; DESIGN CHOICE, log entry 105) -/
def State.portAnswer (s : State) (r e : Nat) (a : Access) (data : List Byte) (lost : Bool) : State :=
  let k := (a.slots.headD (0, 0)).1
  let hub : Phys := ⟨4, 0, 0, false⟩
  if a.opc = 0xCD then
    let n := rowLen a.f
    let ver := if lost then s.free else leNat ((data.drop n).take 2)
    let s1 := if lost then s.bump else if data.getD (n + 2) 0 != 0 then s.countStale (s.partOf r) a.addr else s
    ((s1.setAccess r e { a with ph := .done, slots := [], toks := remoteRow a.f data lost ver }).cross r e a.id hub true data).settle r e a.id
  else if a.opc = 0xCB ∨ a.opc = 0xCC then
    ((s.setAccess r e { a with ph := .done, toks := [], slots := [], ev := data.headD 0 }).cross r e a.id hub true data).settle r e a.id
  else if a.opc = 0xC9 ∧ waitHolds a data = false ∧ lost = false then
    s.setAccess r e { a with ph := if a.waited || decide ((s.elem r e).parkedCount < 8) then .parked else .home }
  else
    let ev := if a.opc = 0xCA then (atomFrom false (s.issuer r e a) a k (leNat data)).2 else 0
    ((s.setAccess r e ({ a with ph := .home }.took false k data lost ev)).cross r e a.id hub true data).settle r e a.id

/-- Whether an access turns an uncorrectable error into a POISON token (R227). -/
def readsPoison (opc : Byte) : Bool := opc == 0xC0 || opc == 0xC5 || opc == 0xC7 || opc == 0xCD

/-- A request that an answer completes is gone, but an ATOM with its old data still lacks its acknowledgement (R273, R385). -/
def State.answeredRemote (s : State) (p : Remote) (status : Byte) : State :=
  if p.opc = 0xCA ∧ 0 < p.want ∧ status = 0 then
    { s with links := { s.links with remote := s.links.remote.map fun q => if q = p then { q with want := 0 } else q } }
  else s.dropRemote p

/-- REMOTE_RESPONSE (R385, R388): an answer completes the access that waits for it; one that comes too late finds none. An ATOM's old data
come first, and then its acknowledgement, which completes nothing else (R273). -/
def execRemoteResponse (tag : Nat) (status : Byte) (data : List Byte) (s : State) : Host.Outcome State Fault Refusal :=
  match s.links.remote.find? fun p => p.tag.toNat == tag with
  | none => .next s
  | some p =>
    let s1 := s.answeredRemote p status
    let bad : Bad := if status = 2 then (0x0B, 0x02) else (0x04, 0x24)
    if p.opc = 0xCA ∧ p.want = 0 then .next (if status = 0 then s1 else (s1.failRemote p bad).replayOn)
    else if p.opc = 0xCA ∧ status = 0 ∧ data.length < p.want then .next s
    else if p.elem < 148 then
      .next (s1.withImage p.load p.reg fun s =>
        match (s.elem p.reg p.elem).acc p.id with
        | none => s
        | some a =>
          if a.ph ≠ .away then s
          else if status = 0 then s.portAnswer p.reg p.elem a data false
          else if status = 2 ∧ readsPoison a.opc = true then s.portAnswer p.reg p.elem a [] true
          else s.failRemote p bad).replayOn
    else if p.elem = seqElem then .next (s1.withImage p.load p.reg fun s => s.seqAnswer p.reg status data)
    else .next (s1.copyAnswer p status data)

/-- REMOTE_TIMEOUT (R388): a request that no answer has met in 100 µs raises LINK 0x02. -/
def execRemoteTimeout (tag : Nat) (s : State) : Host.Outcome State Fault Refusal :=
  match s.links.remote.find? fun p => p.tag.toNat == tag with
  | none => .next s
  | some p => if p.due ≤ s.rt ∧ s.pwr.trip = false then .next ((s.dropRemote p).failRemote p (0x0A, 0x02)).replayOn else .next s

/- Requests of other devices (R277, R385, R389). -/

/-- What a request comes to at its home: it waits, it fails with a status, or it is done with the bytes it returns. -/
inductive Served where
  | wait
  | bad (status : Byte)
  | done (s : State) (data : List Byte)

/-- A load of another device (R235, R277): latest applied state. -/
def State.serveLoad (s : State) (opc : Byte) (a n : Nat) : Served :=
  match bar2Kind a with
  | none => .bad 1
  | some k =>
    if opc = 0xCD ∧ k ≠ 0 then .bad 1
    else if k = 2 ∧ s.wsref = true then .wait
    else if s.mem.isLost a n then .bad 2
    else if opc = 0xCD then
      .done s (s.mem.readBytes a n ++ leBytes 2 (s.mem.version a).toNat ++ [if s.mem.rowPending a then 1 else 0])
    else .done s (s.mem.readBytes a n)

/-- A store of another device (R277): immediate. -/
def State.serveStore (s : State) (opc mod vm : Byte) (a : Nat) (bs : List Byte) : Served :=
  let cells := (cellsAt a bs).filter fun c => vm.getLsbD ((c.1 - a) / 4 % 8)
  match bar2Kind a with
  | none => .bad 1
  | some k =>
    if k = 2 then .bad 1
    else if storeLost s.mem cells then .bad 2
    else
      let s1 := s.immediate k cells
      let full := k = 1 ∧ (opc = 0xC3 ∨ ((opc = 0xC6 ∨ opc = 0xC8) ∧ mod.getLsbD 0 = true))
      .done (if full then { s1 with mem := cells.foldl (fun m c => m.setFull c.1 1) s1.mem } else s1) []

/-- An atomic of another device (R232, R277): immediate, on the row store. -/
def State.serveAtom (s : State) (mod : Byte) (mods : List Byte) (a : Nat) (data : List Byte) : Served :=
  let w := if mod.getLsbD 3 then 8 else 4
  if bar2Kind a ≠ some 0 then .bad 1
  else if s.mem.isLost a w then .bad 2
  else
    let old := s.mem.readLe a w
    let n := atomNew (mod.toNat % 8) (8 * w) (mods.getD 4 0 == 1) (mods.getD 2 0 == 1) (RMode.ofCode (mods.getD 3 0).toNat)
      (mods.getD 5 0 == 1) old (leNat (data.take w)) (leNat ((data.drop 16).take w))
    .done (s.immediate 0 (cellsAt a (leBytes w n.1))) (leBytes w old)

/-- A row update of another device (R234, R277): on the row slot of its physical address, after the updates accepted before it. -/
def State.serveRow (s : State) (opc : Byte) (mods : List Byte) (a : Nat) (data : List Byte) : Served :=
  let n := leNat (mods.take 2)
  if bar2Kind a ≠ some 0 then .bad 1
  else if s.mem.rowq.any fun u => u.addr / 256 == a / 256 then .wait
  else if s.mem.isLost a n then .bad 2
  else
    let body := (List.range (n / 32)).map fun i => (mods.getD (6 + i) 0, octOfBytes fun b => data.getD (32 * i + b) 0)
    let w := rowMerge s.mem a (opc == 0xCC) (mods.getD 2 0 == 2) (RMode.ofCode (mods.getD 3 0).toNat) (mods.getD 5 0 == 1) body
    .done { s with mem := s.mem.commitRow a w.1 } [w.2]

/-- A request as its home performs it. (DESIGN CHOICE, log entry 21) -/
def State.serve (s : State) (b : Inbound) : Served :=
  let u0 := b.units.headD []
  let a := leNat (u0.take 8)
  let mods := u0.drop 8
  let n := leNat (mods.take 2)
  let data := (b.units.drop 1).flatten
  let opc : Byte := b.hdr.extractLsb' 0 8
  let mod : Byte := b.hdr.extractLsb' 16 8
  if b.ukind = 1 then s.serveLoad opc a n
  else if b.ukind = 2 then s.serveStore opc mod (mods.getD 6 0xFF) a (data.take n)
  else if opc = 0xCA then s.serveAtom mod mods a data
  else if opc = 0xCB ∨ opc = 0xCC then s.serveRow opc mods a data
  else .bad 1

/-- Sends the answer to a request (R385): a response with bytes, or an acknowledgement. (DEDUCED, log entry 103) -/
def State.reply (s : State) (b : Inbound) (status : Byte) (data : List Byte) : State :=
  let st := b.stream.toNat
  let hdr : Word := status.zeroExtend 32
  let resp := fun (s : State) => s.post b.dev st (unitsOf st 4 b.tag.toNat hdr (if data.isEmpty then [0] else data))
  let ack := fun (s : State) (ev : List Byte) => s.post b.dev st (unitsOf st 5 b.tag.toNat hdr (if ev.isEmpty then [0] else ev))
  if b.ukind = 1 then resp s
  else if b.ukind = 3 ∧ (b.hdr.extractLsb' 0 8 : Byte) = 0xCA ∧ status = 0 then ack (resp s) []
  else ack s data

/-- REMOTE_REQUEST_PERFORM (R385, R389): the requests of one stream of a device are performed in the order in which they came. -/
def execRemoteRequestPerform (dev stream tag : Nat) (s : State) : Host.Outcome State Fault Refusal :=
  match s.links.ready.find? fun b => b.dev.toNat == dev && b.stream.toNat == stream with
  | none => .next s
  | some b =>
    if b.tag.toNat ≠ tag ∨ s.pwr.trip = true then .next s
    else
      let s0 := { s with links := { s.links with ready := s.links.ready.erase b } }
      match s0.serve b with
      | .wait => .next s
      | .bad st => .next (s0.reply b st [])
      | .done s1 data => .next (s1.reply b 0 data)

/- Glosutus links (R384, R386 to R388). -/

/-- Whether every byte of `bs` from `i` to `j − 1` is zero. -/
def zeroBytes (bs : List Byte) (i j : Nat) : Bool := ((bs.drop i).take (j - i)).all fun b => b == 0

/-- Whether a flit is taken (R384, R386): its CRC is right, its type is not reserved and its reserved bytes are zero. -/
def flitGood (bs : List Byte) : Bool :=
  let h := leNat (bs.take 2)
  let fack := leNat ((bs.drop 2).take 2)
  bs.length == 256 && leNat (bs.drop 252) == (crc32 (bs.take 252)).toNat && decide (h % 16 ≤ 4) && decide (fack < 4096)
    && decide ((bs.getD 6 0).toNat < 8) && zeroBytes bs 7 8 && zeroBytes bs 248 252
    && (h % 16 != 4 || (decide (h / 16 = 0) && zeroBytes bs 4 8 && zeroBytes bs 12 252))

/-- Sends a flit that is not a data flit (R384, R386). (DEDUCED, log entry 103) -/
def GLink.control (x : GLink) (ftype : Nat) (body : List Byte) : GLink := { x with ctl := x.ctl ++ [sealFlit ftype 0 (x.rxSeq - 1) body] }

/-- The sequence number of a flit. -/
def flitSeq (bs : List Byte) : Nat := leNat (bs.take 2) / 16

/-- The retry buffer after an acknowledgement of every flit through `fack` (R381, R384). -/
def GLink.acked (x : GLink) (fack : Nat) : GLink :=
  match (x.out.zipIdx).find? fun p => flitSeq p.1 == fack with
  | some p => { x with out := x.out.drop (p.2 + 1), fails := 0 }
  | none => x

/-- The body of a data flit: bytes 4 to 251. -/
def flitBody (bs : List Byte) : List Byte := (bs.drop 4).take 248

/-- The stream of a data flit: that of its first unit. -/
def bodyStream (body : List Byte) : Nat := (body.getD 4 0).toNat

/-- A data flit in order is delivered, or goes on toward its device with one hop more (R386, R387). -/
def State.takeFlit (s : State) (k : Nat) (body : List Byte) : State :=
  let cls := bodyClass body
  if body.getD 0 0 = s.hub.dev then
    let units := (chunks 40 6 ((body.drop 4).take 240))
    (units.foldl (fun s u => s.deliverUnit (body.getD 1 0) u) s).freeBuffer (some k) cls
  else if 4 ≤ (body.getD 2 0).toNat then s.freeBuffer (some k) cls
  else
    let b := body.set 2 (body.getD 2 0 + 1)
    { s with links := { s.links with wait := s.links.wait ++ [((bodyStream body, b, some k) : Waiting)] } }.flush

/-- GL_FLIT_RECEIVE (R384, R386, R387): a flit arrives on link `k`. -/
def execGlFlitReceive (k : Nat) (bytes : List Byte) (s : State) : Host.Outcome State Fault Refusal :=
  let x := s.glink k
  if 16 ≤ k ∨ x.up = false ∨ s.pwr.trip = true then .next s
  else if flitGood bytes = false then
    .next (s.setGlink k ({ x with crcErr := if x.crcErr = 0xFFFFFFFF then x.crcErr else x.crcErr + 1 }.control 3 []))
  else
    let t := leNat (bytes.take 2) % 16
    let fack := leNat ((bytes.drop 2).take 2)
    let y := if t = 4 then { x with peer0 := BitVec.ofNat 16 (leNat ((bytes.drop 8).take 2)), peer1 := BitVec.ofNat 16 (leNat ((bytes.drop 10).take 2)) }
      else x.acked fack
    if t = 1 then
      if flitSeq bytes = y.rxSeq.toNat then
        .next ((s.setGlink k ({ y with rxSeq := y.rxSeq + 1 }.control 2 [])).takeFlit k (flitBody bytes)).flush
      else .next (s.setGlink k (y.control 3 []))
    else if t = 3 then .next (s.setGlink k { y with fails := y.fails + 1 }).flush
    else .next (s.setGlink k y).flush

/-- The requests of this device in the bodies of flits. -/
def State.requestsIn (s : State) (bodies : List (List Byte)) : List Remote :=
  let mine := bodies.filter fun b => b.getD 1 0 == s.hub.dev
  let units := mine.flatMap fun b => chunks 40 6 ((b.drop 4).take 240)
  s.links.remote.filter fun p => units.any fun u =>
    let h := unitHdr u
    decide (1 ≤ h / 2 ^ 8 % 16 ∧ h / 2 ^ 8 % 16 ≤ 3) && BitVec.ofNat 16 (h / 2 ^ 16) == p.tag

/-- A link goes down (R388): LINK 0x03 goes to the device ring, and the requests in its retry buffer, with those that waited for it and have no
other up link in their masks, stop their tasks with LINK 0x01. Other waiting flits take the links that are left. -/
def State.linkFails (s : State) (k : Nat) (x : GLink) : State :=
  let s0 := s.setGlink k { x with up := false, down := true, out := [] }
  let dev := fun (w : Waiting) => (w.2.1.getD 0 0).toNat
  let lost := s.links.wait.filter fun w => (s.linkFor (dev w) w.1).isSome && (s0.linkFor (dev w) w.1).isNone
  let ps := s.requestsIn (x.out.map flitBody ++ lost.map (·.2.1))
  let s1 := { s0 with links := { s0.links with wait := s0.links.wait.filter fun w => !lost.contains w } }.deviceRecord (FaultRec.of 0x0A 0x03)
  (ps.foldl (fun s p => (s.dropRemote p).failRemote p (0x0A, 0x01)) (s1.raiseVector 129)).flush.replayOn

/-- GL_RETRAIN (R384, R386, R388): after eight failures of one flit the link retrains, which restores its credits; the third failure in
succession takes it down. (DESIGN CHOICE, log entry 102) -/
def execGlRetrain (k : Nat) (ok : Bool) (s : State) : Host.Outcome State Fault Refusal :=
  let x := s.glink k
  if x.fails < 8 ∨ x.up = false then .next s
  else
    let y := { x with retrain := satIncB x.retrain }
    if ok then
      .next (s.setGlink k { y with
        fails := 0, lost := 0, sent0 := 0, sent1 := 0, peer0 := 0, peer1 := 0, freed0 := 0, freed1 := 0, told0 := 0, told1 := 0 }).flush
    else if x.lost < 2 then .next (s.setGlink k { y with lost := x.lost + 1 })
    else .next (s.linkFails k { y with lost := 3 })

/-- CREDIT_FLIT (R386): the freed buffers that are not yet reported go out in a credit flit. -/
def execCreditFlit (k : Nat) (s : State) : Host.Outcome State Fault Refusal :=
  let x := s.glink k
  if x.up ∧ (x.freed0 ≠ x.told0 ∨ x.freed1 ≠ x.told1) ∧ s.pwr.trip = false then
    let body := [0, 0, 0, 0] ++ leBytes 2 x.freed0.toNat ++ leBytes 2 x.freed1.toNat
    .next (s.setGlink k ({ x with told0 := x.freed0, told1 := x.freed1 }.control 4 body))
  else .next s

/-- LINK_TRAINED (R386, R394, R396): an enabled link finishes training: UP is set, both credit classes start at 128, and vector 129 is
raised. -/
def execLinkTrained (k : Nat) (s : State) : Host.Outcome State Fault Refusal :=
  let x := s.glink k
  if k < 16 ∧ x.enable ∧ x.up = false ∧ x.down = false then
    let y : GLink := { GLink.reset with enable := true, up := true, crcErr := x.crcErr, retrain := x.retrain }
    .next ((s.setGlink k y).raiseVector 129).flush
  else .next s

/-- The open rows in which the bytes of a word are lost (R251). -/
def State.loseOpen (s : State) (word : List Nat) : State :=
  let mark := fun (h : HoldEntry) =>
    let here := word.filterMap fun b => if h.base ≤ b ∧ b < h.base + 1024 then some (b - h.base) else none
    if h.held then { h with lost := here.foldl setInsert h.lost } else h
  { s with regions := s.regions.map fun g => (g.1, g.2.onRow fun u => { u with table := u.table.map fun e => (e.1, mark e.2) }) }

/-- ECC_IN_SCRUBBING (R10, R321): the 64-bit word of an address is lost, in its open row too where it has one (R251), and a record goes to the
device ring. Where a task's version holds the
line too, a free value says whether the error lies in the version line instead (R263). (DEDUCED, log entry 44; DESIGN CHOICE, log entry 48) -/
def execEccInScrubbing (pa : Nat) (s : State) : Host.Outcome State Fault Refusal :=
  match bar2Kind pa with
  | none => .next s
  | some k =>
    let word := (List.range 8).map fun i => 8 * (pa / 8) + i
    let holders := s.loads.filter fun p => k = 0 ∧ (linesOf (p.2.vers.flatMap (·.2))).contains (pa / 128) = true
    let s1 := match holders.head? with
      | some (ld, l) =>
        if s.free % 2 = 1 then s.bump.setLoad ld { l with vbad := setInsert l.vbad (pa / 128) }
        else ({ s.bump with mem := { s.mem with lost := word.foldl setInsert s.mem.lost } }).loseOpen word
      | none => ({ s with mem := { s.mem with lost := word.foldl setInsert s.mem.lost } }).loseOpen word
    let b := eccAt k
    .next (s1.deviceRecord ((FaultRec.of b.1 b.2).at_ (BitVec.ofNat 64 pa)))

end Sys2Proof.Machine
end

