-- ==== Sys2Proof/Machine/Power.lean ====
section
/-!
DEFINITION. Supply, power and temperature (R409 to R413): what they change is the clock, the budgets and, at the trip, whether the
fabric runs.
-/
namespace Sys2Proof.Machine

/-- SUPPLY_SAG (R410): the clock is stretched for at least 64 cycles, and SAG is set. -/
def execSupplySag (s : State) : Host.Outcome State Fault Refusal :=
  .next { s with pwr := { s.pwr with sag := true, sagEnd := some (s.cyc + 64), healed := false } }

/-- SAG_RECOVERY (R410): the rail has recovered, and the stretch ends at once, or when its 64 cycles have passed.
(DEDUCED, log entry 108) -/
def execSagRecovery (s : State) : Host.Outcome State Fault Refusal :=
  match s.pwr.sagEnd with
  | some n => .next { s with pwr := if n ≤ s.cyc then { s.pwr with sagEnd := none } else { s.pwr with healed := true } }
  | none => .next s

/-- A stretch whose rail has recovered ends with its 64 cycles (R410). -/
def Power.heal (p : Power) (cyc : Nat) : Power :=
  match p.sagEnd with
  | some n => if p.healed = true ∧ n ≤ cyc then { p with sagEnd := none, healed := false } else p
  | none => p

/-- The units of 1/21 ns in a window of 1 ms of the reference timer (R409, R410). -/
def capWindow : Nat := 21000000

/-- The fabric clock over the window that closes now, as a percentage of 2.1 GHz (R414): the cycles of the window, of 10 units each at full rate,
against the reference timer. -/
def State.clockShare (s : State) : Nat := Nat.min 100 ((s.cyc - s.pwr.cycAt) * 1000 / (s.rt - s.pwr.capAt))

/-- POWER_CAP_WINDOW (R409, R414): a window of 1 ms closes with an average power that would be `watts`; before the millisecond is over none
does. The device holds PWR_CAP by slowing the clock (log entry 7). (DEDUCED, log entry 108) -/
def execPowerCapWindow (watts : Nat) (s : State) : Host.Outcome State Fault Refusal :=
  if s.rt < s.pwr.capAt + capWindow then .next s
  else .next { s with pwr := { s.pwr with
    watts := Nat.min watts s.pwr.cap, capped := decide (s.pwr.cap < watts), capAt := s.rt, cycAt := s.cyc
    clkpct := s.clockShare } }

/-- THERMAL_LEVEL_CHANGE (R411): a stack reports a temperature, and its level follows. -/
def execThermalLevelChange (st temp : Nat) (s : State) : Host.Outcome State Fault Refusal :=
  if st < 4 then
    .next { s with pwr := { s.pwr with
      temp := SMap.set s.pwr.temp st temp, lvl := SMap.set s.pwr.lvl st (BitVec.ofNat 2 (levelAt (s.level st) temp)) } }
  else .next s

/-- THERMAL_TRIP (R413): at 110 °C the fabric clocks are gated, TRIP is set and RDY cleared. A commit that is not published never is. -/
def execThermalTrip (st : Nat) (s : State) : Host.Outcome State Fault Refusal :=
  if st < 4 ∧ 110 ≤ s.temp st then .next { s with pwr := { s.pwr with trip := true, rdy := false }, agenda := [] } else .next s

end Sys2Proof.Machine
end

