-- ==== Sys2Proof/Machine/System.lean ====
section
/-!
DEFINITION. The system instructions: phase boundaries, traps and breaks, device registers, counters, and template loads (R325 to R330,
R348 to R354).
-/
namespace Sys2Proof.Machine

/- Phase boundaries (R263, R326, R327, R349). -/

/-- Whether a task was current on region `r` at the start of the cycle (R327): a TEND that fired in this very cycle ends it only from now
on, since boundaries of one cycle count as one (R263). -/
def State.taskCurrent (s : State) (r : Nat) : Bool :=
  match s.ownerLoad r with
  | none => false
  | some l => l.task.isSome && (!l.ended || l.bounds.any fun b => b.cycle == s.cyc)

/-- A boundary of the load of its region has fired (R263, R327): the next phase begins, once in a cycle, and a TEND ends the task.
(DEDUCED, log entry 49) -/
def State.passBoundary (s : State) (b : Boundary) : State :=
  match (s.region b.reg).owner with
  | none => s
  | some ld =>
    match s.load ld with
    | none => s
    | some l =>
      match l.bounds.find? fun c => c.cycle == s.cyc with
      | some c => s.setLoad ld { l with bounds := l.bounds ++ [{ b with phase := c.phase }], ended := l.ended || b.kind == 0xE9 }
      | none => s.setLoad ld { l with bounds := l.bounds ++ [{ b with phase := l.phase }], phase := l.phase + 1, ended := l.ended || b.kind == 0xE9 }

/-- The entry that a boundary reserves for its token, or a LAUNCH without an output for its CMPL: the element, the channel, the seq and
whether the slot names it; nothing where a DATA push lacks credit. -/
def boundaryOut (kind : Byte) (f : Fields) (x : Elem) : Option (Elem × Option (BitVec 2) × Option (BitVec 12) × Bool) :=
  match outOf f.dst with
  | some c => if x.mayPush c kData then some (x.reserve c kData, some (BitVec.ofNat 2 c), ruleSeq x f, true) else none
  | none =>
    let pctl := x.field 169
    if kind = 0xEB ∧ pctl.getLsbD 15 then
      let c := pctl.extractLsb' 13 2
      some (x.reserve c.toNat kCmpl, some c, addrSeq x f, false)
    else some (x, none, none, false)

/-- PHASE, TEND, TRIG and LAUNCH (R326 to R328, R349): a phase boundary while a task is current; otherwise dequeues, predicate update and a
token of zero. `arg` gives the packet address of a LAUNCH, or its fault. (DEDUCED, log entry 82) -/
def fireBoundary (kind : Byte) (f : Fields) (q : Nat) (arg : Elem → Except FaultRec (BitVec 64)) (s : State) :
    Host.Outcome State Fault Refusal :=
  fire kind f (Look.lane f) (fun x =>
    (if s.taskCurrent s.cur.reg then
      match boundaryOut kind f x, arg x with
      | none, _ => .wait
      | some _, .error r => .fault r
      | some (y, chan, sq, out), .ok a =>
        .done (closePlain y f) fun t =>
          t.passBoundary ⟨kind, s.cyc, 0, s.cur.reg, s.cur.elem, BitVec.ofNat 4 s.cur.slot, chan, sq, a, q, out⟩
    else match outOf f.dst with
      | some c => if x.mayPush c kData then .done (closePlain (x.push c { csnToken 0 with seq := seqFor x f c }) f) id else .wait
      | none => .done (closePlain x f) id : Fired).unless (laneFault s x f)) s

/-- PHASE (R326). -/
def execPhase (f : Fields) (s : State) : Host.Outcome State Fault Refusal := fireBoundary 0xE8 f 0 (fun _ => .ok 0) s

/-- TEND (R327). -/
def execTend (f : Fields) (s : State) : Host.Outcome State Fault Refusal := fireBoundary 0xE9 f 0 (fun _ => .ok 0) s

/-- TRIG (R328). -/
def execTrig (f : Fields) (s : State) : Host.Outcome State Fault Refusal := fireBoundary 0xEA f 0 (fun _ => .ok 0) s

/-- LAUNCH (R349): the packet's address must be 64-byte aligned. (DEDUCED, log entry 82) -/
def execLaunch (f : Fields) (s : State) : Host.Outcome State Fault Refusal :=
  fireBoundary 0xEB f (64 + immBits f 0 6) (fun x =>
    let a := srcPair x f f.sa 0
    if a.toNat % 64 ≠ 0 then .error (memFault (0x20, a)) else .ok a) s

/- Traps and breaks (R329, R330). -/

/-- The address that a TRAP or BRK names (R329): pair 0 of a, with its valid flag. -/
def trapAddr (x : Elem) (f : Fields) (r : FaultRec) : FaultRec := if f.sa = 30 then r else r.at_ (srcPair x f f.sa 0)

/-- TRAP (R329): the fault TRAP with the code as its detail. -/
def execTrap (f : Fields) (s : State) : Host.Outcome State Fault Refusal :=
  fire 0xEC f (Look.lane f) (fun x =>
    match laneFault s x f with
    | some r => .fault r
    | none => .fault (trapAddr x f (FaultRec.of 0x09 (f.imm.extractLsb' 0 8)))) s

/-- A load stops at a BRK of its region (R330): its record will be written once it has stopped, and PREEMPT_REQUEST stops it.
(DEDUCED, log entry 81) -/
def State.breakLoad (s : State) (r : Nat) (f : FaultRec) : State :=
  match (s.region r).owner with
  | none => s
  | some ld =>
    match s.load ld with
    | none => s
    | some l => if (s.queue l.queue).brken ∧ l.brk = none then s.setLoad ld { l with brk := some { f with time := some s.cyc } } else s

/-- BRK (R330): dequeues and predicate update; with BRKEN set the load then stops as a pre-emption stops it. -/
def execBrk (f : Fields) (s : State) : Host.Outcome State Fault Refusal :=
  fire 0xED f (Look.lane f) (fun x =>
    match laneFault s x f with
    | some r => .fault r
    | none =>
      let r := { trapAddr x f (FaultRec.of 0x09 0xFF) with
        resum := true, page := (s.region s.cur.reg).page, reg := s.cur.reg, unit := s.cur.elem, slot := s.cur.slot, opc := 0xED }
      .done (closePlain x f) fun t => t.breakLoad s.cur.reg r) s

/-- PREPT (R350): ready while the array is idle. With a pre-emption request pending in matrix mode at the start of the cycle the region stops
at its end, keeping the tiles of its mask. -/
def execPrept (f : Fields) (s : State) : Host.Outcome State Fault Refusal :=
  let g := s.region s.cur.reg
  if g.mode = 0 ∨ (g.arr.op = 0 ∧ g.arr.pend.isEmpty = true) then
    fire 0xEE f (Look.lane f) (poisonFirst f fun x =>
      .done (closePlain x f) fun t =>
        if g.mode = 1 ∧ s.stopAsked s.cur.reg = true ∧ (g.req.any fun q => decide (q.cyc < s.cyc)) = true then
          t.onRegion s.cur.reg fun g => { g with req := g.req.map fun q => { q with live := some f.imm } }
        else t) s
  else .next s

/-- HALT (R354). -/
def execHalt (f : Fields) (s : State) : Host.Outcome State Fault Refusal :=
  fire 0xF2 f (Look.lane f) (poisonFirst f fun x => .done (closePlain { x with halted := true } f) id) s

/- Counters (R352). -/

/-- The counter that CNTRD selects, and whether it is 64 bits wide. (DEDUCED, log entry 82) -/
def State.counter (s : State) (r e sel : Nat) : BitVec 64 × Bool :=
  let l := s.ownerLoad r
  match sel with
  | 0x00 => ((s.elem r e).sflags.zeroExtend 64, false)
  | 0x01 => (bitsAt s.cyc 0, true)
  | 0x02 => ((s.taskOf r).zeroExtend 64, false)
  | 0x03 => (bitsAt ((l.map (·.tile)).getD 0) 0, false)
  | 0x04 => (bitsAt ((l.map fun l => l.watermark s.mem l.phase).getD s.mem.pw) 0, true)
  | 0x05 => (bitsAt ((l.map fun l => (s.queue l.queue).used).getD 0) 0, false)
  | 0x06 => (bitsAt ((l.map Load.lines).getD 0) 0, false)
  | _ => (bitsAt (SMap.get (fun _ => 0) s.sched.stale0 (16 * (s.partOf r).toNat + (sel - 0x10))) 0, true)

/-- CNTRD (R352): a 64-bit counter goes to the whole pairs of E; `.clr` clears the counter in the same step. -/
def execCntrd (f : Fields) (s : State) : Host.Outcome State Fault Refusal :=
  let r := s.cur.reg
  let sel := immBits f 0 8
  let clr := f.var.getLsbD 0
  fire 0xF3 f (Look.lane f) (fun x =>
    let v := s.counter r s.cur.elem sel
    let m := if v.2 then pairMask (execLanes x f) else execLanes x f
    let vals := if v.2 then octOfPairs fun _ => v.1 else Oct.all (v.1.extractLsb' 0 32)
    let y := if clr && sel == 0 then { x with sflags := 0 } else x
    (match commitRes y f 0 (Res.plain m vals 0) with
      | .done z _ => Fired.done z fun t =>
          if clr && decide (0x10 ≤ sel) then
            { t with sched := { t.sched with stale := SMap.set t.sched.stale (16 * (s.partOf r).toNat + (sel - 0x10)) 0 } }
          else t
      | o => o).unless (laneFault s x f)) s

/- Device registers (R351). -/

/-- Whether a partition is privileged (R341). -/
def State.privileged (s : State) (p : BitVec 4) : Bool := s.sched.priv.getLsbD p.toNat

/-- Whether an unprivileged partition may read a register: those of its own queues and its own STALE counters (R351). -/
def State.ownRegister (s : State) (p : BitVec 4) (off : Nat) : Bool :=
  if off < 0x4000 then (s.queue (off / 0x80)).part == p
  else decide (0x14000 ≤ off ∧ off < 0x14800) && (off - 0x14000) / 0x80 == p.toNat

/-- The detail of the MEM fault of a SYSRD (R351, R414). (DEDUCED, log entry 92) -/
def State.readBad (s : State) (p : BitVec 4) (off : Nat) : Option Byte :=
  if (s.barValue off).isNone then some 0x24
  else if hostOnly off then some 0x04
  else if s.privileged p || s.ownRegister p off then none
  else some 0x04

/-- The detail of the MEM fault of a SYSWR (R297, R351, R414). (DEDUCED, log entry 92) -/
def State.writeBad (s : State) (p : BitVec 4) (off : Nat) (v : BitVec 64) : Option Byte :=
  if (s.barValue off).isNone then some 0x24
  else if hostOnly off then some 0x05
  else if !s.privileged p then some 0x05
  else if decide (0x40000 ≤ off ∧ off < 0x4C000) && bxslotBad v then some 0x24
  else none

/-- What reading a register changes (R393): the window's read queue and the template index. -/
def State.barRead (s : State) (off : Nat) : State :=
  if off = 0x60030 then ({ s with hub := { s.hub with hcwRd := s.hub.hcwRd.drop 1 } }).pump
  else if off = 0x600A8 then { s with hub := s.hub.tplNext }
  else s

/-- A firing whose access the hub performs (R351, R353): `act` gives the state with the access's token, or the fault.
(DEDUCED, log entry 93) -/
def fireSys (opc : Byte) (f : Fields) (align : Nat) (addr : Elem → BitVec 64)
    (act : Elem → State → Except Bad (List Token) × State) (s : State) : Host.Outcome State Fault Refusal :=
  let r := s.cur.reg
  let e := s.cur.elem
  firePort opc f (Look.lane f) f (fun x => !owesCredit x f) (fun x m =>
    let a := addr x
    if a.toNat % align ≠ 0 then .fault (memFault (0x20, a))
    else match withChannel x f kData { newAccess s opc f [(0, a)] a with ph := .away } with
      | none => .wait
      | some (y, acc) =>
        .done ((closeFiring y f (noResult m)).issueAt s.cyc acc) fun t =>
          let acc := { acc with id := y.port.nextId }
          match act x t with
          | (.error b, t1) => t1.failSlot r e acc 0 a b
          | (.ok toks, t1) => (t1.setAccess r e { acc with ph := .done, slots := [], toks := toks }).settle r e acc.id) s

/-- SYSRD (R351). -/
def execSysrd (f : Fields) (s : State) : Host.Outcome State Fault Refusal :=
  let p := s.partOf s.cur.reg
  fireSys 0xEF f 8 (fun x => (srcLane x f f.sa 0).zeroExtend 64) (fun x t =>
    let off := (srcLane x f f.sa 0).toNat
    match t.readBad p off with
    | some d => (.error (0x04, d), t)
    | none =>
      let v := (t.barValue off).getD 0
      (.ok [dataTok 0 0x03 (Oct.ofFn fun l => if l = 0 then v.extractLsb' 0 32 else if l = 1 then v.extractLsb' 32 32 else 0)],
        t.barRead off)) s

/-- SYSWR (R351). -/
def execSyswr (f : Fields) (s : State) : Host.Outcome State Fault Refusal :=
  let p := s.partOf s.cur.reg
  fireSys 0xF0 f 8 (fun x => (srcLane x f f.sa 0).zeroExtend 64) (fun x t =>
    let off := (srcLane x f f.sa 0).toNat
    let v := srcPair x f f.sb 0
    match t.writeBad p off v with
    | some d => (.error (0x04, d), t)
    | none => (.ok [], t.barWrite off v false)) s

/-- Copies `n` templates into a stack's table from entry `i` (R353), each written whole; the first that cannot be read stops the copy. -/
def State.loadTemplates (s : State) (stack : Nat) (part : BitVec 4) : Nat → Nat → BitVec 64 → Except Bad (List Token) × State
  | 0, _, _ => (.ok [], s)
  | n + 1, i, a =>
    match s.agentRead stack part a 128 with
    | (.error b, s1) => (.error b, s1)
    | (.ok bs, s1) =>
      let tpl := (List.range 16).foldl (fun m w => SMap.set m (65536 * stack + 16 * i + w) (BitVec.ofNat 64 (fieldAt bs (8 * w) 8))) s1.eng.tpl
      { s1 with eng := { s1.eng with tpl := tpl } }.loadTemplates stack part n (i + 1) (a + 128)

/-- CFGLD (R353). (DEDUCED, log entry 94) -/
def execCfgld (f : Fields) (s : State) : Host.Outcome State Fault Refusal :=
  let p := s.partOf s.cur.reg
  fireSys 0xF4 f 128 (fun x => srcPair x f f.sa 0) (fun x t =>
    let i := (srcLane x f f.sb 0).toNat
    let n := immBits f 0 6 + 1
    let range := t.tplRange p
    if range.2 < i + n then (.error (0x06, 0x01), t)
    else t.loadTemplates (s.cur.reg / 192) p n (range.1 + i) (srcPair x f f.sa 0)) s

end Sys2Proof.Machine
end

