-- ==== Sys2Proof/Machine/Dispatch.lean ====
section
/-!
DEFINITION. The meaning of every instruction: one arm per constructor, each one call.
-/
namespace Sys2Proof.Machine

/-- The effect of an instruction, command, block or event. -/
def exec (i : Instr) (s : State) : Host.Outcome State Fault Refusal :=
  match i with
  | .nop f => Sys2Proof.Machine.execNop f s
  | .pass f => Sys2Proof.Machine.execPass f s
  | .emit f => Sys2Proof.Machine.execEmit f s
  | .tagset f => Sys2Proof.Machine.execTagset f s
  | .seqset f => Sys2Proof.Machine.execSeqset f s
  | .seqget f => Sys2Proof.Machine.execSeqget f s
  | .demand f => Sys2Proof.Machine.execDemand f s
  | .drop f => Sys2Proof.Machine.execDrop f s
  | .fwdsel f => Sys2Proof.Machine.execFwdsel f s
  | .add f => Sys2Proof.Machine.execAdd f s
  | .sub f => Sys2Proof.Machine.execSub f s
  | .mul f => Sys2Proof.Machine.execMul f s
  | .mulh f => Sys2Proof.Machine.execMulh f s
  | .mulhu f => Sys2Proof.Machine.execMulhu f s
  | .mad f => Sys2Proof.Machine.execMad f s
  | .abs f => Sys2Proof.Machine.execAbs f s
  | .neg f => Sys2Proof.Machine.execNeg f s
  | .min f => Sys2Proof.Machine.execMin f s
  | .max f => Sys2Proof.Machine.execMax f s
  | .minu f => Sys2Proof.Machine.execMinu f s
  | .maxu f => Sys2Proof.Machine.execMaxu f s
  | .and f => Sys2Proof.Machine.execAnd f s
  | .or f => Sys2Proof.Machine.execOr f s
  | .xor f => Sys2Proof.Machine.execXor f s
  | .andn f => Sys2Proof.Machine.execAndn f s
  | .shl f => Sys2Proof.Machine.execShl f s
  | .shr f => Sys2Proof.Machine.execShr f s
  | .sar f => Sys2Proof.Machine.execSar f s
  | .rot f => Sys2Proof.Machine.execRot f s
  | .clz f => Sys2Proof.Machine.execClz f s
  | .popc f => Sys2Proof.Machine.execPopc f s
  | .brev f => Sys2Proof.Machine.execBrev f s
  | .bfx f => Sys2Proof.Machine.execBfx f s
  | .bfi f => Sys2Proof.Machine.execBfi f s
  | .sel f => Sys2Proof.Machine.execSel f s
  | .cmp f => Sys2Proof.Machine.execCmp f s
  | .test f => Sys2Proof.Machine.execTest f s
  | .mov f => Sys2Proof.Machine.execMov f s
  | .movi f => Sys2Proof.Machine.execMovi f s
  | .movh f => Sys2Proof.Machine.execMovh f s
  | .addr f => Sys2Proof.Machine.execAddr f s
  | .idx2 f => Sys2Proof.Machine.execIdx2 f s
  | .pand f => Sys2Proof.Machine.execPand f s
  | .por f => Sys2Proof.Machine.execPor f s
  | .pxor f => Sys2Proof.Machine.execPxor f s
  | .pnot f => Sys2Proof.Machine.execPnot f s
  | .pmov f => Sys2Proof.Machine.execPmov f s
  | .preg f => Sys2Proof.Machine.execPreg f s
  | .pregSet f => Sys2Proof.Machine.execPregSet f s
  | .bcast f => Sys2Proof.Machine.execBcast f s
  | .perm f => Sys2Proof.Machine.execPerm f s
  | .shuf f => Sys2Proof.Machine.execShuf f s
  | .lred f => Sys2Proof.Machine.execLred f s
  | .lscan f => Sys2Proof.Machine.execLscan f s
  | .pcount f => Sys2Proof.Machine.execPcount f s
  | .first f => Sys2Proof.Machine.execFirst f s
  | .fadd f => Sys2Proof.Machine.execFadd f s
  | .fsub f => Sys2Proof.Machine.execFsub f s
  | .fmul f => Sys2Proof.Machine.execFmul f s
  | .fma f => Sys2Proof.Machine.execFma f s
  | .fnma f => Sys2Proof.Machine.execFnma f s
  | .fma3 f => Sys2Proof.Machine.execFma3 f s
  | .fmin f => Sys2Proof.Machine.execFmin f s
  | .fmax f => Sys2Proof.Machine.execFmax f s
  | .fabs f => Sys2Proof.Machine.execFabs f s
  | .fneg f => Sys2Proof.Machine.execFneg f s
  | .fcmp f => Sys2Proof.Machine.execFcmp f s
  | .fclass f => Sys2Proof.Machine.execFclass f s
  | .frint f => Sys2Proof.Machine.execFrint f s
  | .ftoi f => Sys2Proof.Machine.execFtoi f s
  | .itof f => Sys2Proof.Machine.execItof f s
  | .frcp f => Sys2Proof.Machine.execFrcp f s
  | .frsq f => Sys2Proof.Machine.execFrsq f s
  | .fexpf f => Sys2Proof.Machine.execFexpf f s
  | .flogf f => Sys2Proof.Machine.execFlogf f s
  | .fexpins f => Sys2Proof.Machine.execFexpins f s
  | .fexpext f => Sys2Proof.Machine.execFexpext f s
  | .fmant f => Sys2Proof.Machine.execFmant f s
  | .fdot2 f => Sys2Proof.Machine.execFdot2 f s
  | .fdot4 f => Sys2Proof.Machine.execFdot4 f s
  | .ftri f => Sys2Proof.Machine.execFtri f s
  | .cvt f => Sys2Proof.Machine.execCvt f s
  | .pack f => Sys2Proof.Machine.execPack f s
  | .unpk f => Sys2Proof.Machine.execUnpk f s
  | .gscale f => Sys2Proof.Machine.execGscale f s
  | .qscale f => Sys2Proof.Machine.execQscale f s
  | .cvtov f => Sys2Proof.Machine.execCvtov f s
  | .scan f => Sys2Proof.Machine.execScan f s
  | .intsc f => Sys2Proof.Machine.execIntsc f s
  | .union f => Sys2Proof.Machine.execUnion f s
  | .join f => Sys2Proof.Machine.execJoin f s
  | .rept f => Sys2Proof.Machine.execRept f s
  | .reds f => Sys2Proof.Machine.execReds f s
  | .crddrop f => Sys2Proof.Machine.execCrddrop f s
  | .stoplvLower f => Sys2Proof.Machine.execStoplvLower f s
  | .stoplvWrap f => Sys2Proof.Machine.execStoplvWrap f s
  | .zip f => Sys2Proof.Machine.execZip f s
  | .gchk f => Sys2Proof.Machine.execGchk f s
  | .gchkArm f => Sys2Proof.Machine.execGchkArm f s
  | .selk f => Sys2Proof.Machine.execSelk f s
  | .selo f => Sys2Proof.Machine.execSelo f s
  | .seloClr f => Sys2Proof.Machine.execSeloClr f s
  | .sort8 f => Sys2Proof.Machine.execSort8 f s
  | .decomp f => Sys2Proof.Machine.execDecomp f s
  | .comp f => Sys2Proof.Machine.execComp f s
  | .transp f => Sys2Proof.Machine.execTransp f s
  | .mrg f => Sys2Proof.Machine.execMrg f s
  | .steer f => Sys2Proof.Machine.execSteer f s
  | .fanout f => Sys2Proof.Machine.execFanout f s
  | .gsel f => Sys2Proof.Machine.execGsel f s
  | .mmodeOn f => Sys2Proof.Machine.execMmodeOn f s
  | .mmodeOff f => Sys2Proof.Machine.execMmodeOff f s
  | .wload f => Sys2Proof.Machine.execWload f s
  | .wrow f => Sys2Proof.Machine.execWrow f s
  | .accz f => Sys2Proof.Machine.execAccz f s
  | .accrd f => Sys2Proof.Machine.execAccrd f s
  | .idxset f => Sys2Proof.Machine.execIdxset f s
  | .tconK64n32 f => Sys2Proof.Machine.execTconK64n32 f s
  | .tconK32n64 f => Sys2Proof.Machine.execTconK32n64 f s
  | .tconK128n16 f => Sys2Proof.Machine.execTconK128n16 f s
  | .tconK16n128 f => Sys2Proof.Machine.execTconK16n128 f s
  | .tconK256n8 f => Sys2Proof.Machine.execTconK256n8 f s
  | .tconK8n256 f => Sys2Proof.Machine.execTconK8n256 f s
  | .tconK64n16x f => Sys2Proof.Machine.execTconK64n16x f s
  | .tconK32n32x f => Sys2Proof.Machine.execTconK32n32x f s
  | .ld f => Sys2Proof.Machine.execLd f s
  | .st f => Sys2Proof.Machine.execSt f s
  | .lds f => Sys2Proof.Machine.execLds f s
  | .stf f => Sys2Proof.Machine.execStf f s
  | .sete f => Sys2Proof.Machine.execSete f s
  | .agsrc f => Sys2Proof.Machine.execAgsrc f s
  | .agsnk f => Sys2Proof.Machine.execAgsnk f s
  | .gath f => Sys2Proof.Machine.execGath f s
  | .scat f => Sys2Proof.Machine.execScat f s
  | .waita f => Sys2Proof.Machine.execWaita f s
  | .atom f => Sys2Proof.Machine.execAtom f s
  | .vradd f => Sys2Proof.Machine.execVradd f s
  | .vrmax f => Sys2Proof.Machine.execVrmax f s
  | .ldrow f => Sys2Proof.Machine.execLdrow f s
  | .fence f => Sys2Proof.Machine.execFence f s
  | .bxstart f => Sys2Proof.Machine.execBxstart f s
  | .wsrd f => Sys2Proof.Machine.execWsrd f s
  | .wsph f => Sys2Proof.Machine.execWsph f s
  | .rowact f => Sys2Proof.Machine.execRowact f s
  | .rowconSt f => Sys2Proof.Machine.execRowconSt f s
  | .rowconStr f => Sys2Proof.Machine.execRowconStr f s
  | .rowconWs f => Sys2Proof.Machine.execRowconWs f s
  | .rowwr f => Sys2Proof.Machine.execRowwr f s
  | .rowpre f => Sys2Proof.Machine.execRowpre f s
  | .rowstat f => Sys2Proof.Machine.execRowstat f s
  | .phase f => Sys2Proof.Machine.execPhase f s
  | .tend f => Sys2Proof.Machine.execTend f s
  | .trig f => Sys2Proof.Machine.execTrig f s
  | .launch f => Sys2Proof.Machine.execLaunch f s
  | .trap f => Sys2Proof.Machine.execTrap f s
  | .brk f => Sys2Proof.Machine.execBrk f s
  | .prept f => Sys2Proof.Machine.execPrept f s
  | .sysrd f => Sys2Proof.Machine.execSysrd f s
  | .syswr f => Sys2Proof.Machine.execSyswr f s
  | .wdenter f => Sys2Proof.Machine.execWdenter f s
  | .halt f => Sys2Proof.Machine.execHalt f s
  | .cntrd f => Sys2Proof.Machine.execCntrd f s
  | .cfgld f => Sys2Proof.Machine.execCfgld f s
  | .pgbegin v => Sys2Proof.Machine.execPgbegin v s
  | .patbegin v => Sys2Proof.Machine.execPatbegin v s
  | .patend v => Sys2Proof.Machine.execPatend v s
  | .crc v => Sys2Proof.Machine.execCrc v s
  | .succlo v => Sys2Proof.Machine.execSucclo v s
  | .succhi v => Sys2Proof.Machine.execSucchi v s
  | .pgend v => Sys2Proof.Machine.execPgend v s
  | .rect k v => Sys2Proof.Machine.execRect k v s
  | .elementFieldWrite e fld v => Sys2Proof.Machine.execElementFieldWrite e fld v s
  | .wsel e v => Sys2Proof.Machine.execWsel e v s
  | .wlo e v => Sys2Proof.Machine.execWlo e v s
  | .whi e v => Sys2Proof.Machine.execWhi e v s
  | .wctlNone e v => Sys2Proof.Machine.execWctlNone e v s
  | .wctlWrite e v => Sys2Proof.Machine.execWctlWrite e v s
  | .wctlRead e v => Sys2Proof.Machine.execWctlRead e v s
  | .tokenDepart r e c => Sys2Proof.Machine.execTokenDepart r e c s
  | .tokenArrival r e k => Sys2Proof.Machine.execTokenArrival r e k s
  | .sidePortCtrl r e => Sys2Proof.Machine.execSidePortCtrl r e s
  | .reqAbsorb r e k => Sys2Proof.Machine.execReqAbsorb r e k s
  | .loadPlacement ld => Sys2Proof.Machine.execLoadPlacement ld s
  | .loadActivation ld => Sys2Proof.Machine.execLoadActivation ld s
  | .preloadCopy ld n => Sys2Proof.Machine.execPreloadCopy ld n s
  | .tileStart ld => Sys2Proof.Machine.execTileStart ld s
  | .loadComplete ld => Sys2Proof.Machine.execLoadComplete ld s
  | .packetStart q k => Sys2Proof.Machine.execPacketStart q k s
  | .packetFinish q k => Sys2Proof.Machine.execPacketFinish q k s
  | .trigRelease q k => Sys2Proof.Machine.execTrigRelease q k s
  | .launchAppend n => Sys2Proof.Machine.execLaunchAppend n s
  | .commitPublish ld => Sys2Proof.Machine.execCommitPublish ld s
  | .accessComplete r e id => Sys2Proof.Machine.execAccessComplete r e id s
  | .parkedWake r e id => Sys2Proof.Machine.execParkedWake r e id s
  | .translationWalk r e id => Sys2Proof.Machine.execTranslationWalk r e id s
  | .homeAtomic r e id => Sys2Proof.Machine.execHomeAtomic r e id s
  | .agsrcPush r e => Sys2Proof.Machine.execAgsrcPush r e s
  | .agsnkTake r e => Sys2Proof.Machine.execAgsnkTake r e s
  | .streamCmpl r e => Sys2Proof.Machine.execStreamCmpl r e s
  | .gathStep r e => Sys2Proof.Machine.execGathStep r e s
  | .scatStep r e => Sys2Proof.Machine.execScatStep r e s
  | .rowBodyTake r e => Sys2Proof.Machine.execRowBodyTake r e s
  | .rowUpdateApply n => Sys2Proof.Machine.execRowUpdateApply n s
  | .ldrowPerform r e id => Sys2Proof.Machine.execLdrowPerform r e id s
  | .wsrdPush r e => Sys2Proof.Machine.execWsrdPush r e s
  | .rowOpIssue r => Sys2Proof.Machine.execRowOpIssue r s
  | .rowBankAct r => Sys2Proof.Machine.execRowBankAct r s
  | .rowOpenExpiry r h => Sys2Proof.Machine.execRowOpenExpiry r h s
  | .rowconStrPush r h => Sys2Proof.Machine.execRowconStrPush r h s
  | .rowwrBodyTake r => Sys2Proof.Machine.execRowwrBodyTake r s
  | .tconStepTake r => Sys2Proof.Machine.execTconStepTake r s
  | .tconStepWrite r => Sys2Proof.Machine.execTconStepWrite r s
  | .wloadGroupTake r => Sys2Proof.Machine.execWloadGroupTake r s
  | .accrdPush r => Sys2Proof.Machine.execAccrdPush r s
  | .copyAccept x ch => Sys2Proof.Machine.execCopyAccept x ch s
  | .copyElement x ch => Sys2Proof.Machine.execCopyElement x ch s
  | .dfabPush x ch => Sys2Proof.Machine.execDfabPush x ch s
  | .copyCompletion x ch => Sys2Proof.Machine.execCopyCompletion x ch s
  | .pralineFetch r => Sys2Proof.Machine.execPralineFetch r s
  | .loads h => Sys2Proof.Machine.execLoads h s
  | .setscale h => Sys2Proof.Machine.execSetscale h s
  | .stream h => Sys2Proof.Machine.execStream h s
  | .streamBlockPush r => Sys2Proof.Machine.execStreamBlockPush r s
  | .contract h => Sys2Proof.Machine.execContract h s
  | .zero h => Sys2Proof.Machine.execZero h s
  | .drain h => Sys2Proof.Machine.execDrain h s
  | .sync h => Sys2Proof.Machine.execSync h s
  | .jump h => Sys2Proof.Machine.execJump h s
  | .jumpif h => Sys2Proof.Machine.execJumpif h s
  | .callt h => Sys2Proof.Machine.execCallt h s
  | .rett h => Sys2Proof.Machine.execRett h s
  | .endBlk h => Sys2Proof.Machine.execEndBlk h s
  | .taskStop ld => Sys2Proof.Machine.execTaskStop ld s
  | .preemptRequest ld => Sys2Proof.Machine.execPreemptRequest ld s
  | .regionStop r => Sys2Proof.Machine.execRegionStop r s
  | .preptFallback r => Sys2Proof.Machine.execPreptFallback r s
  | .scanOut r => Sys2Proof.Machine.execScanOut r s
  | .loadResume ld => Sys2Proof.Machine.execLoadResume ld s
  | .budgetExhaust q => Sys2Proof.Machine.execBudgetExhaust q s
  | .npIntervalEnd ld => Sys2Proof.Machine.execNpIntervalEnd ld s
  | .bridgeFlitReceive e fl => Sys2Proof.Machine.execBridgeFlitReceive e fl s
  | .creditFlit k => Sys2Proof.Machine.execCreditFlit k s
  | .remoteRequestPerform dev stream tag => Sys2Proof.Machine.execRemoteRequestPerform dev stream tag s
  | .remoteResponse tag status data => Sys2Proof.Machine.execRemoteResponse tag status data s
  | .remoteTimeout tag => Sys2Proof.Machine.execRemoteTimeout tag s
  | .lotteryDraw => Sys2Proof.Machine.execLotteryDraw s
  | .weightStoreRefresh => Sys2Proof.Machine.execWeightStoreRefresh s
  | .rowRefreshSlot g => Sys2Proof.Machine.execRowRefreshSlot g s
  | .actBudgetPeriod => Sys2Proof.Machine.execActBudgetPeriod s
  | .budgetPeriodStart => Sys2Proof.Machine.execBudgetPeriodStart s
  | .qtailWrite q v => Sys2Proof.Machine.execQtailWrite q v s
  | .qcmdStop q => Sys2Proof.Machine.execQcmdStop q s
  | .qcmdResume q => Sys2Proof.Machine.execQcmdResume q s
  | .qfcmdRestart q => Sys2Proof.Machine.execQfcmdRestart q s
  | .qfcmdAbandon q => Sys2Proof.Machine.execQfcmdAbandon q s
  | .qfcmdResume q => Sys2Proof.Machine.execQfcmdResume q s
  | .schedSeedWrite v => Sys2Proof.Machine.execSchedSeedWrite v s
  | .mmuInvGo v => Sys2Proof.Machine.execMmuInvGo v s
  | .mmuInvComplete => Sys2Proof.Machine.execMmuInvComplete s
  | .mmuSvcMapped v => Sys2Proof.Machine.execMmuSvcMapped v s
  | .mmuSvcUnmappable v => Sys2Proof.Machine.execMmuSvcUnmappable v s
  | .hcwCmd v => Sys2Proof.Machine.execHcwCmd v s
  | .hcwRd => Sys2Proof.Machine.execHcwRd s
  | .hcwGo => Sys2Proof.Machine.execHcwGo s
  | .tplDataWrite v => Sys2Proof.Machine.execTplDataWrite v s
  | .tplDataRead => Sys2Proof.Machine.execTplDataRead s
  | .fwInstall len => Sys2Proof.Machine.execFwInstall len s
  | .fwAttest => Sys2Proof.Machine.execFwAttest s
  | .rbSelWrite v => Sys2Proof.Machine.execRbSelWrite v s
  | .rbDataRead => Sys2Proof.Machine.execRbDataRead s
  | .staleClear p k => Sys2Proof.Machine.execStaleClear p k s
  | .brgStatClear e => Sys2Proof.Machine.execBrgStatClear e s
  | .glStatWrite k v => Sys2Proof.Machine.execGlStatWrite k v s
  | .msixUnmask n => Sys2Proof.Machine.execMsixUnmask n s
  | .registerWrite off bytes => Sys2Proof.Machine.execRegisterWrite off bytes s
  | .hostBar2Read x => Sys2Proof.Machine.execHostBar2Read x s
  | .hostBar2Write x bytes => Sys2Proof.Machine.execHostBar2Write x bytes s
  | .deviceReset => Sys2Proof.Machine.execDeviceReset s
  | .supplySag => Sys2Proof.Machine.execSupplySag s
  | .sagRecovery => Sys2Proof.Machine.execSagRecovery s
  | .powerCapWindow watts => Sys2Proof.Machine.execPowerCapWindow watts s
  | .thermalLevelChange st temp => Sys2Proof.Machine.execThermalLevelChange st temp s
  | .thermalTrip st => Sys2Proof.Machine.execThermalTrip st s
  | .bridgeRetry e seq => Sys2Proof.Machine.execBridgeRetry e seq s
  | .bridgeRetrain e ok => Sys2Proof.Machine.execBridgeRetrain e ok s
  | .allowancePeriod => Sys2Proof.Machine.execAllowancePeriod s
  | .glFlitReceive k bytes => Sys2Proof.Machine.execGlFlitReceive k bytes s
  | .glRetrain k ok => Sys2Proof.Machine.execGlRetrain k ok s
  | .linkTrained k => Sys2Proof.Machine.execLinkTrained k s
  | .eccInScrubbing pa => Sys2Proof.Machine.execEccInScrubbing pa s

end Sys2Proof.Machine
end

