-- ==== Sys2Proof/Machine/Cycle.lean ====
section
/-!
DEFINITION. A cycle of the fabric: what is fetched for an act, the acts that a cycle performs, judged on the state at its start (R17,
R19), the clock (R409, R410, R411), and the charge of budgets (R339).
-/
namespace Sys2Proof.Machine

/- Acts. -/

/-- The instruction of the slot that a firing runs (R15, R61). -/
def State.fetchSlot (s : State) (r e n : Nat) : Except DecodeError Instr := decodeSlot ((s.elem r e).slot n)

/-- A command at a region (R60): its instruction runs there; a reserved one is a violation of the page, or a refused command. -/
def runCommand (w : Word) (s : State) : Host.Outcome State Fault Refusal :=
  match decodeCmd w with
  | .ok i => exec i s
  | .error b => .next (s.badCommand b w)

/-- An outcome whose next state is changed further. -/
def andThen (o : Host.Outcome State Fault Refusal) (f : State → State) : Host.Outcome State Fault Refusal :=
  match o with
  | .next t => .next (f t)
  | .fault r => .fault r
  | .refused r => .refused r

/-- Performs one act. -/
def runAct (a : Act) (s : State) : Host.Outcome State Fault Refusal :=
  match a with
  | .fire r e n =>
    match s.fetchSlot r e n with
    | .ok i => exec i { s with cur := ⟨r, e, n, false⟩ }
    | .error _ => .refused .undecodable
  | .cmd r host w => andThen (runCommand w { s with cur := ⟨r, 0, 0, host⟩ }) fun t => if host then t.pump else t
  | .loader ld p =>
    match s.loaderFetch ld p with
    | .stop t => .next t
    | .word t r w => andThen (runCommand w { t with cur := ⟨r, 0, 0, false⟩ }) fun t => t.loaderAfter ld p w
  | .block r =>
    match (s.region r).seq.hdr with
    | some i => exec i { s with cur := ⟨r, 0, 0, false⟩ }
    | none => .next s
  | .timeout tag => execRemoteTimeout tag s
  | .install len => execFwInstall len s
  | .event i => exec i s

/-- What follows an act that has changed a word of memory or its full bit (R228): the accesses that wait are woken at once.
(DEDUCED, log entry 57) -/
def State.woken (s t : State) : State :=
  if t.mem.bytes = s.mem.bytes ∧ t.mem.full = s.mem.full ∧ t.mem.host = s.mem.host then t else { t with agenda := t.wakes ++ t.agenda }

/- What a cycle performs. -/

/-- Whether an event changes the state now. -/
def State.does (s : State) (i : Instr) : Bool :=
  match exec i s with
  | .next t => t != s
  | _ => true

/-- Whether slot `n` of an element is ready, and so fires or faults if it is the lowest (R17, R19, R25). (DEDUCED, log entry 13) -/
def State.firesAt (s : State) (r e n : Nat) : Bool :=
  let x := s.elem r e
  match s.fetchSlot r e n with
  | .error _ => false
  | .ok i =>
    match exec i { (s.setElem r e { x with fvalid := false }) with cur := ⟨r, e, n, false⟩ } with
    | .next t => (t.elem r e).fvalid || ((t.elem r e).faulted && !x.faulted)
    | _ => false

/-- The slot that the picker of an element fires (R19): the lowest-numbered ready one. -/
def State.picked (s : State) (r e : Nat) : Option Nat :=
  let m := (s.elem r e).field 160
  if s.picks r e then (List.range 16).find? fun n => m.getLsbD n && s.firesAt r e n else none

/-- The firings of a cycle, each with its opcode. -/
def State.firings (s : State) : List (Byte × Act) :=
  s.regions.flatMap fun g => g.2.elems.filterMap fun e =>
    (s.picked g.1 e.1).map fun n => (slotOpc (e.2.slot n), .fire g.1 e.1 n)

/-- The place of a firing among those of its cycle: counters are read first, the boundaries come before the stores of the cycle, which
belong to the next phase (R263), and the lead comes last, since it may change what its region's elements do. -/
def firingRank (f : Byte × Act) : Nat :=
  if f.1 = 0xF3 then 0
  else if 0xE8 ≤ f.1.toNat ∧ f.1.toNat ≤ 0xEB then 1
  else match f.2 with
    | .fire _ 0 _ => 3
    | _ => 2

/-- The firings in the order in which the model performs them, with the tiles that start in the cycle behind the reads of counters: a
firing of that cycle belongs to the task that begins in it (R150, R306). (DEDUCED, log entry 2) -/
def State.orderedFirings (s : State) : List Act :=
  let fs := s.firings
  let rank := fun k => (fs.filter fun f => firingRank f == k).map (·.2)
  let tiles := (s.loads.map fun l => Instr.tileStart l.1).filter s.does
  rank 0 ++ tiles.map Act.event ++ [1, 2, 3].flatMap rank

/-- The events of an element's channels in a cycle (R47, R146). -/
def channelEvents (r e : Nat) : List Instr := [.sidePortCtrl r e] ++ (List.range 4).map fun k => .reqAbsorb r e k

/-- Inserts a departure, with the cycle in which its route was last served, into a list that rises by that cycle. -/
def insertByTurn (a : Nat × Instr) : List (Nat × Instr) → List (Nat × Instr)
  | [] => [a]
  | b :: r => if a.1 < b.1 then a :: b :: r else b :: insertByTurn a r

/-- The departures of tokens: the route that the region links have served longest ago comes first, which serves the routes of every link
in turn (R142). (DESIGN CHOICE, log entry 135) -/
def State.departEvents (s : State) : List Instr :=
  let outs := s.regions.flatMap fun g => g.2.elems.flatMap fun e => (List.range 4).filterMap fun c =>
    if (e.2.outQ c).isEmpty then none else some (SMap.get (fun _ => 0) g.2.link.last (4 * e.1 + c), Instr.tokenDepart g.1 e.1 c)
  (outs.foldl (fun l a => insertByTurn a l) []).map (·.2)

/-- The tokens in transit that may arrive in this cycle (R142): those in the routers, and those that depart in it. -/
def State.arrivals (s : State) (leave : List Instr) : List Instr :=
  let held := s.regions.flatMap fun g => g.2.elems.flatMap fun e => e.2.rbuf.filterMap fun p =>
    if p.2.isEmpty then none else some (g.1, e.1, p.1)
  let sent := leave.flatMap fun i => match i with
    | .tokenDepart r e c => ((s.elem r e).route c).filterMap fun d => (s.destRegion r d).map fun q => (q, d.elem, d.chan)
    | _ => []
  (held ++ sent).eraseDups.map fun p => .tokenArrival p.1 p.2.1 p.2.2

/-- The events of a region's array, row unit and sequencer (R196, R204, R207, R245, R251, R252, R361, R367). -/
def regionEvents (r : Nat) : List Instr :=
  [.pralineFetch r, .tconStepWrite r, .tconStepTake r, .wloadGroupTake r, .accrdPush r]
  ++ (List.range 16).map (fun h => .rowOpenExpiry r h)
  ++ [.rowBankAct r, .rowOpIssue r, .rowwrBodyTake r, .streamBlockPush r, .rowconStrPush r 0, .rowconStrPush r 1]

/-- The events of a port's stream engine (R229, R230, R234, R238). -/
def engineEvents (r e : Nat) : List Instr :=
  [.agsrcPush r e, .agsnkTake r e, .gathStep r e, .scatStep r e, .rowBodyTake r e, .wsrdPush r e, .streamCmpl r e]

/-- The events that one cycle performs wherever they change something. (DEDUCED, log entries 2, 15) -/
def State.promptEvents (s : State) : List Instr :=
  let chans := (s.regions.flatMap fun g => g.2.elems.flatMap fun e => channelEvents g.1 e.1).filter s.does
  let leave := s.departEvents.filter s.does
  let regs := (s.regions.flatMap fun g => regionEvents g.1).filter s.does
  let engs := (s.regions.flatMap fun g => g.2.elems.flatMap fun e =>
    if decide (128 ≤ e.1) && e.2.port.eng.isSome then engineEvents g.1 e.1 else []).filter s.does
  let loads := (s.loads.flatMap fun l => [Instr.preemptRequest l.1, .npIntervalEnd l.1, .loadComplete l.1]).filter s.does
  let queues := (s.queues.map fun q => Instr.budgetExhaust q.1).filter s.does
  let empty := (s.loads.filterMap fun l => if l.2.emptyBound then some (Instr.commitPublish l.1) else none).filter s.does
  chans ++ leave ++ s.arrivals leave ++ regs ++ engs ++ empty ++ queues ++ loads

/-- The events that begin or end with the clock: the refresh phases of the weight store, and the periods of allowances and of the
activation budget (R238, R248, R380). -/
def State.clockEvents (s : State) : List Instr :=
  (if s.wsref != decide (s.cyc % 4096 < 64) then [.weightStoreRefresh] else [])
  ++ (if s.cyc % 2100 = 0 then [.actBudgetPeriod, .allowancePeriod] else [])

/-- The events of an access under way (R221, R228, R232, R235, R315): one that waits for a word of another device asks for it again at a
time that is open. -/
def accessEvents (r e : Nat) (a : Access) : List Instr :=
  [.translationWalk r e a.id, .accessComplete r e a.id, .homeAtomic r e a.id, .ldrowPerform r e a.id]
    ++ if a.ph == .parked && a.remote then [.parkedWake r e a.id] else []

/-- The firmware command under way may end (R418, R419). -/
def State.fwActs (s : State) : List Act :=
  match s.pwr.fwjob with
  | some (cmd, len) => [if cmd = 1 then .install len else .event .fwAttest]
  | none => []

/-- The acts whose cycle the spec does not fix: the ways of accesses, copies, links, loads and packets.
(DEDUCED, log entry 34; DESIGN CHOICE, log entry 116) -/
def State.laterActs (s : State) : List Act :=
  let accs := s.regions.flatMap fun g => g.2.elems.flatMap fun e => e.2.port.accs.flatMap fun a => accessEvents g.1 e.1 a
  let rows := s.mem.rowq.map fun u => Instr.rowUpdateApply u.n
  let copies := s.eng.chans.flatMap fun k =>
    let x := k.1 / 64
    let ch := k.1 % 64
    [Instr.copyAccept x ch, .copyElement x ch, .dfabPush x ch, .copyCompletion x ch]
  let edges := s.links.edges.flatMap fun e => (e.2.retryBuf.head?).toList.map fun f => Instr.bridgeFlitReceive e.1 { f with crcOk := true }
  let remote := s.links.ready.map (fun b => Instr.remoteRequestPerform b.dev.toNat b.stream.toNat b.tag.toNat)
    ++ s.links.gl.map fun k => Instr.creditFlit k.1
  let loads := s.loads.flatMap fun l =>
    [Instr.loadPlacement l.1, .loadActivation l.1] ++ l.2.pre.map (fun i => .preloadCopy l.1 i)
      ++ [.commitPublish l.1, .taskStop l.1, .loadResume l.1]
  let packets := s.queues.flatMap fun q =>
    (List.range (q.2.pkts.length + 17)).map (fun k => Instr.packetStart q.1 ((q.2.prog.toNat + k) % 2 ^ 32))
      ++ q.2.pkts.flatMap fun p => [.trigRelease q.1 p.1, .packetFinish q.1 p.1]
  let stops := s.regions.flatMap fun g => [Instr.regionStop g.1, .preptFallback g.1, .scanOut g.1]
  let others := (List.range 64).map (fun n => Instr.launchAppend n) ++ [.lotteryDraw, .mmuInvComplete]
  let events := (accs ++ rows ++ copies ++ edges ++ remote ++ loads ++ packets ++ stops ++ others).filter s.does
  let pages := s.loads.filterMap fun l =>
    if l.2.ph = .loading then (l.2.pages.findIdx? fun p => !p.done).map fun p => Act.loader l.1 p else none
  let blocks := s.regions.filterMap fun g => if s.seqRuns g.1 && g.2.seq.phase == .ready then some (Act.block g.1) else none
  let late := s.links.remote.filterMap fun p => if p.due ≤ s.rt then some (Act.timeout p.tag.toNat) else none
  events.map Act.event ++ pages ++ blocks ++ late ++ s.fwActs

/- The access cycles of the memory tiles (R297). -/

/-- A memory tile, by region and number, that a place lies in. -/
def tileOf (p : Phys) : Option Nat := if p.kind = 1 then some ((p.addr - spadBase) / 0x10000) else none

/-- The memory tiles whose access cycle an event uses, each with the requester that R297 numbers: a scratchpad port or its stream engine at its
own tile, a copy or its completion at the tile it reads or writes, and an access of a global port through the aperture. -/
def State.tileUses (s : State) (i : Instr) : List (Nat × Nat) :=
  let own := fun (r e : Nat) => if isSpad e then [(8 * r + (e - 128) / 2, 1 + (e - 128) % 2)] else []
  let engine := fun (x : Nat) (c : Copy) (va : BitVec 64) => match (s.translate (x / 192) c.by_.part va .nothing).1 with
    | .ok p => ((tileOf (c.moved p)).map fun t => (t, 3)).toList
    | .error _ => []
  match i with
  | .accessComplete r e id =>
    match (s.elem r e).acc id with
    | some a =>
      if a.ph = .done then []
      else if isSpad e then own r e
      else ((a.slots.head?.bind fun p => SMap.find a.tr p.1).bind tileOf).toList.map fun t => (t, 4)
    | none => []
  | .agsrcPush r e | .agsnkTake r e | .gathStep r e | .scatStep r e => own r e
  | .copyElement x ch =>
    match (s.chan x ch).run with
    | some c => (engine x c (c.source c.pos) ++ if tplDfab c.tpl then [] else engine x c (c.target c.pos)).eraseDups
    | none => []
  | .copyCompletion x ch =>
    match (s.chan x ch).run with
    | some c => engine x c (c.tpl.getD 11 0)
    | none => []
  | _ => []

/-- The requester that a tile serves in this cycle, of those that have an access waiting (R297): the one of the cycle's entry or of the first
later entry, or else one that no entry names. -/
def State.serves (s : State) (tile : Nat) (waiting : List Nat) : Option Nat :=
  let v := s.bxslot (tile / 8) (tile % 8)
  let entry := fun (k : Nat) => v.toNat / 16 ^ ((s.cyc + k) % 16) % 16
  ((((List.range 16).map entry).find? fun q => waiting.contains q)).or waiting.head?

/-- The acts of a cycle without those that a memory tile does not serve in it: one access in a cycle, of the requester whose turn it is (R297).
An access that is passed over waits. `used` are the tiles that have served one. -/
def State.inTurn (s : State) (all : List (Nat × Nat)) : List Act → List Nat → List Act
  | [], _ => []
  | a :: l, used =>
    let us := match a with
      | .event i => s.tileUses i
      | _ => []
    let waiting := fun (t : Nat) => (all.filter fun u => u.1 == t).map (·.2)
    if us.all fun u => !used.contains u.1 && s.serves u.1 (waiting u.1) == some u.2 then
      a :: s.inTurn all l (us.map (·.1) ++ used)
    else s.inTurn all l used

/-- The acts of a cycle that the memory tiles serve in it (R297). -/
def State.served (s : State) (l : List Act) : List Act :=
  let all := l.flatMap fun a => match a with
    | .event i => s.tileUses i
    | _ => []
  s.inTurn all l []

/-- Whether an act can wait no longer: a region stops within 64 cycles of the request where its mode lets it (R342), a load goes on in place
within 64 cycles (R345), and a token crosses to another stack within the bounds of R142. (DEDUCED, log entry 87) -/
def State.overdue (s : State) (a : Act) : Bool :=
  match a with
  | .event (.regionStop r) => match (s.region r).req with | some q => decide (q.cyc + 64 ≤ s.cyc) | none => false
  | .event (.preptFallback _) => true
  | .event (.bridgeFlitReceive e _) => ((s.edge e).due.head?.map fun n => decide (n ≤ s.cyc)).getD false
  | .event (.loadResume ld) => match (s.load ld).bind (·.back) with | some c => decide (c + 63 ≤ s.cyc) | none => false
  | _ => false

/-- The acts of this cycle among those whose cycle is open: a free value says which. (DESIGN CHOICE, log entry 6) -/
def State.chosen (s : State) (l : List Act) : List Act :=
  (l.zipIdx).filterMap fun p => if s.overdue p.1 || Config.choice (s.tick + p.2) % 2 == 1 then some p.1 else none

/- The clock. -/

/-- The length of the next cycle in units of 1/21 ns (R3, R409, R410, R411): a cap or a sag stretches it by a free value.
(DESIGN CHOICE, log entry 7) -/
def State.period (s : State) : Nat :=
  let half := (List.range 4).any fun st => decide (2 ≤ s.level st)
  let base := if half then 20 else 10
  let capped := if s.pwr.capped then base + Config.choice s.tick else base
  if s.pwr.sagEnd.isSome then capped + Config.choice (s.tick + 1) % (capped + 1) else capped

/-- The regions that a queue is charged for (R339): those that its loads occupy and that are not stopped, and those kept for its KEEP
pages. (DEDUCED, log entry 86) -/
def State.charged (s : State) (q : Nat) : Nat :=
  ((s.loadsOf q).foldl (fun n p => n + (p.2.regions.filter fun r =>
      let st := (s.region r).rstate.toNat
      decide (st ≠ 4 ∧ st ≠ 5)).length) 0)
    + ((s.queue q).pkts.foldl (fun n p => n + (p.2.keepOf.filter fun e => (s.region e.2).owner.isNone).length) 0)

/-- The charges of a stretch of `n` units. -/
def State.charge (s : State) (n : Nat) : State :=
  { s with queues := s.queues.map fun q => (q.1, { q.2 with usedNs := q.2.usedNs + n * s.charged q.1 }) }

/-- Whether a budget period begins between two readings of the reference timer (R339). -/
def periodBegins (old new : Nat) : Bool := old / hundredMicros != new / hundredMicros

/-- The device in its next cycle: the clocks advance, and the cycle's acts are set. A stack reported at 110 °C trips it (R413), after which
only the reference timer runs, and a firmware command may end. (DEDUCED, log entries 2, 108, 109; DESIGN CHOICE, log entry 8) -/
def State.nextCycle (s : State) : State :=
  let hot := (List.range 4).find? fun st => decide (110 ≤ SMap.get (fun _ => 0) s.pwr.temp st)
  match s.pwr.trip, hot with
  | true, _ => { s with rt := s.rt + 10, tick := s.tick + 1, agenda := s.chosen s.fwActs }
  | false, some st => s.took (execThermalTrip st)
  | false, none =>
    let n := s.period
    let begins := periodBegins s.rt (s.rt + n)
    let after := if begins then (s.rt + n) % hundredMicros else 0
    let s0 := s.charge (s.sched.carry + n - after)
    let s1 := { s0 with
      cyc := s.cyc + 1, rt := s.rt + n, tick := s.tick + 2, pwr := s0.pwr.heal (s.cyc + 1)
      sched := { s0.sched with carry := after, stale0 := s0.sched.stale } }
    let clock := s1.clockEvents ++ (if begins then [.budgetPeriodStart] else [])
    let later := s1.laterActs
    { s1 with
      agenda := s1.orderedFirings ++ s1.served ((clock ++ s1.promptEvents).map Act.event ++ s1.chosen later)
      tick := s1.tick + later.length }

/-- Whether the oldest act of the world outside lands now, between two cycles, or later: a free value. (DESIGN CHOICE, log entry 5) -/
def State.inputNow (s : State) : Bool := Config.choice s.tick % 2 == 1

/-- What the machine does once the acts of a cycle are done: what ends with it, and then an act of the world outside comes next, or the next cycle.
(DESIGN CHOICE, log entry 5) -/
def State.turn (s0 : State) : State :=
  let s := s0.endCycle
  match s.inbox with
  | a :: rest => if s.inputNow then { s with inbox := rest, agenda := [a], tick := s.tick + 1 } else { s with tick := s.tick + 1 }.nextCycle
  | [] => s.nextCycle

/- Placing an instruction where the next step fetches it. -/

/-- An element on which a slot with a word is legal (R28), or 0. -/
def elementFor (w : BitVec 128) : Nat :=
  ([0, 128, 144, 146, 147].find? fun e =>
    match entryOf (slotOpc w) (fieldsOf w) (isSpad e) with
    | some x => x.place.ok e
    | none => false).getD 0

/-- An element whose slot 0 holds a word and is enabled. -/
def elemWithSlot (w : BitVec 128) : Elem :=
  Elem.fresh ((List.range 8).map (fun h => (h, w.extractLsb' (16 * h) 16)) ++ [(160, 1)])

/-- Region 0 running, with a word in slot 0 of an element, and that slot about to be run. (DESIGN CHOICE, log entry 4) -/
def State.placeSlot (s : State) (w : BitVec 128) : State :=
  let e := elementFor w
  { (s.onRegion 0 fun g => { g.setElem e (elemWithSlot w) with rstate := 2 }) with agenda := [.fire 0 e 0] }

/-- A command about to be run at region 0, as the host's window sends it. (DESIGN CHOICE, log entry 4) -/
def State.placeCommand (s : State) (w : Word) : State := { s with agenda := [.cmd 0 true w] }

/-- A block fetched by the sequencer of region 0 and about to be begun: the bits above its header are its payload (R358).
(DESIGN CHOICE, log entry 4) -/
def State.placeBlock (s : State) (w : Nat) : State :=
  let h : BitVec 128 := BitVec.ofNat 128 w
  let pay := (List.range (16 * (blockOf h).len.toNat)).map fun n => BitVec.ofNat 8 (w / 2 ^ (128 + 8 * n))
  let q : Sequencer := { Sequencer.idle with active := true, phase := .ready, hdr := (decodeBlock h).toOption, pay := pay, lines := 1 }
  { (s.onRegion 0 fun g => { g with rstate := 2, mode := 2, seq := q }) with agenda := [.block 0] }

end Sys2Proof.Machine
end

