-- ==== Sys2Proof/Machine/Step.lean ====
section
/-!
DEFINITION. One step of the machine: the oldest act that the current cycle has still to perform, with the accesses that it wakes (R228);
or, when none is left, an act of the world outside or the next cycle.
-/
namespace Sys2Proof.Machine

/-- One step. -/
def step (s : State) : Host.Outcome State Fault Refusal :=
  match s.agenda with
  | [] => .next s.turn
  | a :: rest => andThen (runAct a { s with agenda := rest }) s.woken

/-- The state with an instruction placed where the next step fetches it: a command of 32 bits, a slot of 128, or a praline block.
(DESIGN CHOICE, log entry 4) -/
def State.withFetchWord (s : State) (nbits w : Nat) : State :=
  if nbits ≤ 32 then s.placeCommand (BitVec.ofNat 32 w)
  else if nbits ≤ 128 then s.placeSlot (BitVec.ofNat 128 w)
  else s.placeBlock w

end Sys2Proof.Machine
end

