-- ==== Sys2Proof/Safety.lean ====
section
/-!
DEFINITION. What counts as a safe run, in the terms the claims use: canonical memory, acts that the machine can perform, and what the
firing of a slot needs, gives and leaves.
-/
namespace Sys2Proof.Machine

/-- Memory is in its canonical form. -/
def State.Canonical (s : State) : Prop := Memory.wf s.mem = true

/-- Whether the machine can perform an act: a slot decodes, and a sequencer holds the block that it is about to begin. -/
def State.Performable (s : State) : Act → Prop
  | .fire r e n => ∃ i, s.fetchSlot r e n = .ok i
  | .cmd _ _ _ => True
  | .loader _ _ => True
  | .block r => ∃ i, (s.region r).seq.hdr = some i
  | .timeout _ => True
  | .install _ => True
  | .event _ => True

/-- A state is safe if its memory is canonical and the machine can perform the oldest act of its cycle. -/
def State.Safe (s : State) : Prop := s.Canonical ∧ ∀ a rest, s.agenda = a :: rest → s.Performable a

/-- Whether the slot in hand is ready with the fields `f` (R16, R17), under what its instruction looks at. -/
def State.Ready (s : State) (f : Fields) (k : Look) : Prop := s.slotReady s.cur.reg s.cur.elem s.cur.slot f k = true

/-- Whether the firing of a lane instruction takes effect: the slot is ready, a DATA push has its credit (R145), and no fault stands in
the way (R14, R71, R184). -/
def LaneReady (f : Fields) (s : State) : Prop :=
  s.Ready f (Look.lane f) ∧ owesCredit s.here f = false ∧ laneFault s s.here f = none

/-- The result of a firing lands where its destination says (R21, R22): the lanes of `m` of a register take `val`, and a token on an
output holds `val` in the lanes of `m` and zero elsewhere, with the mask `m`, the format `fmt` and the kind and level of the slot. -/
structure Lands (f : Fields) (fmt : BitVec 3) (m : Byte) (val : Nat → Word) (x y : Elem) : Prop where
  reg : ∀ k, regOf f.dst = some k → ∀ l, l < 8 → (y.reg k).get l = if m.getLsbD l then val l else (x.reg k).get l
  out : ∀ c, outOf f.dst = some c →
    y.outQ c = x.outQ c ++ [⟨seqFor x f c, m, fmt, f.okind, f.olvl, Oct.ofFn fun l => if m.getLsbD l then val l else 0⟩]

/-- What a firing of a slot leaves of its element (R21): every register but its destination, every output but its destination, the
channels that DEQ does not name, every predicate but the one it updates, every sticky flag that was set, and the whole rest of the element. -/
structure Kept (f : Fields) (x y : Elem) : Prop where
  regs : ∀ k, regOf f.dst ≠ some k → y.reg k = x.reg k
  outs : ∀ c, outOf f.dst ≠ some c → y.outQ c = x.outQ c ∧ y.seqOut c = x.seqOut c ∧ y.credit c = x.credit c
  ins : ∀ k, y.inQ k = if k < 4 ∧ f.deq.getLsbD k = true then (x.inQ k).drop 1 else x.inQ k
  preds : ∀ l k, l < 8 → k < 8 → (f.pue = 0 ∨ k ≠ f.pidx.toNat) → predAt y l k = predAt x l k
  flags : y.sflags ||| x.sflags = y.sflags
  conf : y.conf = x.conf
  rest : y.resv = x.resv ∧ y.sel = x.sel ∧ y.halted = x.halted ∧ y.faulted = x.faulted ∧ y.fcyc = x.fcyc ∧ y.wsel = x.wsel
    ∧ y.wlo = x.wlo ∧ y.whi = x.whi ∧ y.trk = x.trk ∧ y.su = x.su ∧ y.port = x.port ∧ y.rbuf = x.rbuf ∧ y.away = x.away
    ∧ y.spare = x.spare ∧ y.spareSel = x.spareSel

end Sys2Proof.Machine
end

