-- ==== Sys2Proof/Certificates/Slice0/Obligations.lean ====
section
/-!
DEFINITION. The statements for the provers, each from rules of the spec, and the words that they are written in.
-/

namespace Sys2Proof.Claims
end Sys2Proof.Claims

open Sys2Proof Sys2Proof.Machine Sys2Proof.Claims
/- The lane instructions (R72 to R116, R179, R238, R404). -/

namespace Sys2Proof.Claims

/-- The integer, predicate and lane instructions whose results R72 to R94 and R404 define. -/
def intMakers : List (Fields → Instr) :=
  [.add, .sub, .mul, .mulh, .mulhu, .mad, .abs, .neg, .min, .max, .minu, .maxu, .and, .or, .xor, .andn, .shl, .shr, .sar, .rot, .clz,
    .popc, .brev, .bfx, .bfi, .sel, .cmp, .test, .mov, .movi, .movh, .addr, .idx2]

/-- The predicate and lane instructions whose result goes to the destination, with EMIT, SEQGET, SORT8, GSEL and WSPH. -/
def laneMakers : List (Fields → Instr) :=
  [.emit, .seqget, .pand, .por, .pxor, .pnot, .pmov, .preg, .bcast, .perm, .shuf, .lred, .lscan, .pcount, .first, .sort8, .gsel, .wsph]

/-- The floating-point and conversion instructions whose result goes to the destination. -/
def floatMakers : List (Fields → Instr) :=
  [.fadd, .fsub, .fmul, .fma, .fnma, .fma3, .fmin, .fmax, .fabs, .fneg, .frint, .fexpins, .fexpext, .fcmp, .fclass, .ftoi, .itof, .frcp,
    .frsq, .fexpf, .flogf, .fmant, .fdot2, .fdot4, .ftri, .cvt, .pack, .unpk, .gscale]

end Sys2Proof.Claims

/-- A lane instruction whose slot is ready fires as one step: its DEQ channels lose their heads, the slot becomes the element's last,
and of the element only its destination, the predicate it updates and sticky flags change; every other element, every byte of memory
and every other part of the device stay as they were (R19, R21). -/
def Obligations.LaneFiringFrame : Prop :=
  ∀ mk ∈ intMakers ++ laneMakers ++ floatMakers, ∀ f s, LaneReady f s →
    ∃ y, exec (mk f) s = .next (s.fired y) ∧ Kept f s.here y
      ∧ (∀ a, (s.fired y).mem.read a = s.mem.read a)
      ∧ (s.fired y).here.fvalid = true ∧ (s.fired y).here.last = BitVec.ofNat 4 s.cur.slot

namespace Sys2Proof.Claims

/-- The lane of a result of an integer instruction (R72, R73): the operation in every element of the lane, elements of 8 and 16 bits from
the least significant upward, or, under W64, in the pair of lanes. -/
def intLane (f : Fields) (op : (w : Nat) → BitVec w → BitVec w → BitVec w → BitVec w) (x : Elem) (l : Nat) : Word :=
  if f.w64 = 1 then
    let r := op 64 (srcPair x f f.sa (l / 2)) (srcPair x f f.sb (l / 2)) (srcPair x f f.sc (l / 2))
    if l % 2 = 0 then r.extractLsb' 0 32 else r.extractLsb' 32 32
  else
    let a := srcLane x f f.sa l
    let b := srcLane x f f.sb l
    let c := srcLane x f f.sc l
    let e8 := fun k => op 8 (a.extractLsb' k 8) (b.extractLsb' k 8) (c.extractLsb' k 8)
    let e16 := fun k => op 16 (a.extractLsb' k 16) (b.extractLsb' k 16) (c.extractLsb' k 16)
    match f.efmt.toNat with
    | 5 => e8 24 ++ e8 16 ++ e8 8 ++ e8 0
    | 6 => e16 16 ++ e16 0
    | _ => op 32 a b c

/-- The lanes that an integer instruction writes (R20, R72): E, or its whole pairs. -/
def intMask (f : Fields) (x : Elem) : Byte := if f.w64 = 1 then pairMask (execLanes x f) else execLanes x f

/-- A source element as R83 reads it: unsigned under `.sat.u`, else signed. -/
def num (f : Fields) {w : Nat} (v : BitVec w) : Int := if f.sat = 1 ∧ f.uns = 1 then v.toNat else v.toInt

/-- Fit of R73: modulo 2^w, or clamped to the range of the width under SAT. -/
def fitTo (f : Fields) (w : Nat) (v : Int) : BitVec w :=
  if f.sat = 0 then BitVec.ofInt w v
  else if f.uns = 1 then BitVec.ofInt w (max 0 (min v (2 ^ w - 1)))
  else BitVec.ofInt w (max (-2 ^ (w - 1)) (min v (2 ^ (w - 1) - 1)))

/-- Whether a ? b holds under a condition code of CMP (R58). -/
def holds {w : Nat} (cc : BitVec 4) (a b : BitVec w) : Bool :=
  match cc.toNat with
  | 0 => a == b
  | 1 => a != b
  | 2 => a.slt b
  | 3 => a.sle b
  | 4 => b.slt a
  | 5 => b.sle a
  | 6 => a.ult b
  | 7 => a.ule b
  | 8 => b.ult a
  | 9 => b.ule a
  | _ => false

/-- The exact results of R83, R84 and R87, element by element. -/
def intTable : List ((Fields → Instr) × (Fields → (w : Nat) → BitVec w → BitVec w → BitVec w → BitVec w)) :=
  [(.add, fun f w a b _ => fitTo f w (num f a + num f b)),
   (.sub, fun f w a b _ => fitTo f w (num f a - num f b)),
   (.mul, fun f w a b _ => fitTo f w (num f a * num f b)),
   (.mad, fun f w a b c => fitTo f w (num f a * num f b + num f c)),
   (.mulh, fun _ w a b _ => BitVec.ofInt w (a.toInt * b.toInt / 2 ^ w)),
   (.mulhu, fun _ w a b _ => BitVec.ofNat w (a.toNat * b.toNat / 2 ^ w)),
   (.abs, fun f w a _ _ => fitTo f w a.toInt.natAbs),
   (.neg, fun f w a _ _ => fitTo f w (-a.toInt)),
   (.min, fun _ _ a b _ => if a.sle b then a else b),
   (.max, fun _ _ a b _ => if a.sle b then b else a),
   (.minu, fun _ _ a b _ => if a ≤ b then a else b),
   (.maxu, fun _ _ a b _ => if a ≤ b then b else a),
   (.and, fun _ _ a b _ => a &&& b),
   (.or, fun _ _ a b _ => a ||| b),
   (.xor, fun _ _ a b _ => a ^^^ b),
   (.andn, fun _ _ a b _ => a &&& ~~~b),
   (.shl, fun _ w a b _ => if w ≤ b.toNat then 0 else a <<< b.toNat),
   (.shr, fun _ w a b _ => if w ≤ b.toNat then 0 else a >>> b.toNat),
   (.sar, fun _ w a b _ => a.sshiftRight (min b.toNat (w - 1))),
   (.rot, fun _ w a b _ => a.rotateLeft (b.toNat % w)),
   (.clz, fun _ _ a _ _ => a.clz),
   (.popc, fun _ _ a _ _ => a.cpop),
   (.brev, fun _ _ a _ _ => a.reverse),
   (.sel, fun _ _ a b c => if c = 0 then b else a),
   (.cmp, fun f _ a b _ => if holds f.cc a b then 1 else 0),
   (.test, fun f _ a b _ => if (if f.cc = 0 then a &&& b = 0 else a &&& b ≠ 0) then 1 else 0),
   (.mov, fun _ _ a _ _ => a),
   (.addr, fun f w a b _ => a + b <<< f.var.toNat + f.imm.signExtend w)]

/-- The relations that CMP and TEST decide of two elements (R84). -/
def relationTable : List ((Fields → Instr) × (Fields → (w : Nat) → BitVec w → BitVec w → Bool)) :=
  [(.cmp, fun f _ a b => holds f.cc a b), (.test, fun f _ a b => decide (a &&& b = 0) == decide (f.cc = 0))]

/-- The compare outcome of a lane (R72, R84): the relation in every element of the lane, with `.anyel` in one of them, or under W64 in the pair. -/
def laneHolds (f : Fields) (t : (w : Nat) → BitVec w → BitVec w → Bool) (x : Elem) (l : Nat) : Bool :=
  if f.w64 = 1 then t 64 (srcPair x f f.sa (l / 2)) (srcPair x f f.sb (l / 2))
  else
    let a := srcLane x f f.sa l
    let b := srcLane x f f.sb l
    let hits := match f.efmt.toNat with
      | 5 => [0, 8, 16, 24].map fun k => t 8 (a.extractLsb' k 8) (b.extractLsb' k 8)
      | 6 => [0, 16].map fun k => t 16 (a.extractLsb' k 16) (b.extractLsb' k 16)
      | _ => [t 32 a b]
    if f.var.getLsbD 0 then hits.any id else hits.all id

/-- The lanes of a mask, ascending. -/
def lanesIn (m : Byte) : List Nat := (List.range 8).filter fun l => m.getLsbD l

/-- A set-from-compare update (R23) writes the outcome `out` in the lanes of `m`. -/
def Compares (f : Fields) (m : Byte) (out : Nat → Bool) (y : Elem) : Prop :=
  f.pue = 1 → f.pmode = 1 → ∀ l, l < 8 → m.getLsbD l = true → predAt y l f.pidx.toNat = out l

end Sys2Proof.Claims

/-- The integer instructions of R83, with CMP, TEST and ADDR, give in every lane that they write the exact result of their rule, narrowed
where the rule says so, in every format and at both widths, and CMP and TEST update a predicate with their outcome (R23, R72, R73, R83, R84, R87). -/
def Obligations.IntegerResults : Prop :=
  (∀ p ∈ intTable, ∀ f s, LaneReady f s →
    ∃ y, exec (p.1 f) s = .next (s.fired y) ∧ Lands f f.efmt (intMask f s.here) (intLane f (p.2 f) s.here) s.here y)
  ∧ ∀ p ∈ relationTable, ∀ f s, LaneReady f s →
    ∃ y, exec (p.1 f) s = .next (s.fired y) ∧ Compares f (intMask f s.here) (laneHolds f (p.2 f) s.here) y

namespace Sys2Proof.Claims

/-- The position of a bit field (R82). -/
def fieldPos (f : Fields) : Nat := (f.imm.extractLsb' 0 5).toNat
/-- The length of a bit field (R82). -/
def fieldLen (f : Fields) : Nat := (f.imm.extractLsb' 5 5).toNat + 1

end Sys2Proof.Claims

/-- BFX extracts bits [pos+len−1:pos] of a, extended from the top bit or, with `.u`, by zeros, and BFI replaces those bits of b by the low bits
of a (R85). -/
def Obligations.BitFieldsExtractAndInsert : Prop :=
  ∀ f s, LaneReady f s → f.efmt = 0 → f.w64 = 0 → fieldPos f + fieldLen f ≤ 32 →
    (∃ y v, exec (.bfx f) s = .next (s.fired y) ∧ Lands f 0 (execLanes s.here f) v s.here y
      ∧ ∀ l j, l < 8 → j < 32 → (v l).getLsbD j =
        if j < fieldLen f then (srcLane s.here f f.sa l).getLsbD (fieldPos f + j)
        else f.uns == 0 && (srcLane s.here f f.sa l).getLsbD (fieldPos f + fieldLen f - 1))
    ∧ ∃ y v, exec (.bfi f) s = .next (s.fired y) ∧ Lands f 0 (execLanes s.here f) v s.here y
      ∧ ∀ l j, l < 8 → j < 32 → (v l).getLsbD j =
        if fieldPos f ≤ j ∧ j < fieldPos f + fieldLen f then (srcLane s.here f f.sa l).getLsbD (j - fieldPos f)
        else (srcLane s.here f f.sb l).getLsbD j

/-- MOVI writes IMM16, sign-extended or, with `.u`, zero-extended, and MOVH writes IMM16 over the low half of a (R86). -/
def Obligations.ImmediateMovesGiveIMM16 : Prop :=
  ∀ f s, LaneReady f s → f.efmt = 0 ∨ f.efmt = 7 → f.w64 = 0 →
    (∃ y, exec (.movi f) s = .next (s.fired y)
      ∧ Lands f f.efmt (execLanes s.here f) (fun _ => if f.uns = 1 then f.imm.zeroExtend 32 else f.imm.signExtend 32) s.here y)
    ∧ ∃ y, exec (.movh f) s = .next (s.fired y)
      ∧ Lands f f.efmt (execLanes s.here f) (fun l => f.imm ++ (srcLane s.here f f.sa l).extractLsb' 0 16) s.here y

/-- IDX2 gives U(a)·n + U(b) modulo 2^32; with `.chk` a lane whose b is not below n gives 0xFFFF_FFFF and a false outcome, and every other
lane of E a true one (R88). -/
def Obligations.Idx2IndexesAndChecks : Prop :=
  ∀ f s, LaneReady f s →
    ∃ y, exec (.idx2 f) s = .next (s.fired y)
      ∧ Lands f f.efmt (execLanes s.here f) (fun l =>
          if f.var.getLsbD 0 = true ∧ f.imm.toNat ≤ (srcLane s.here f f.sb l).toNat then 0xFFFFFFFF
          else BitVec.ofNat 32 ((srcLane s.here f f.sa l).toNat * f.imm.toNat + (srcLane s.here f f.sb l).toNat)) s.here y
      ∧ (f.var.getLsbD 0 = true →
          Compares f (execLanes s.here f) (fun l => decide ((srcLane s.here f f.sb l).toNat < f.imm.toNat)) y)

namespace Sys2Proof.Claims

/-- The predicate instructions with the function that each computes of its two operands (R90). -/
def predTable : List ((Fields → Instr) × (Bool → Bool → Bool)) :=
  [(.pand, fun x y => x && y), (.por, fun x y => x || y), (.pxor, fun x y => x != y), (.pnot, fun x _ => !x), (.pmov, fun x _ => x)]

end Sys2Proof.Claims

/-- PAND, POR, PXOR, PNOT and PMOV write their one-bit result of the predicates, as they stood at the start of the cycle, to pm in the lanes
of E and leave pm in every other lane (R90). -/
def Obligations.PredicateInstructionsWriteOneBit : Prop :=
  ∀ p ∈ predTable, ∀ f s, LaneReady f s → f.pue = 1 → f.pmode = 1 →
    ∃ y, exec (p.1 f) s = .next (s.fired y) ∧ ∀ l, l < 8 →
      predAt y l f.pidx.toNat =
        if (execLanes s.here f).getLsbD l then
          p.2 (predAt s.here l (f.imm.extractLsb' 0 3).toNat != f.imm.getLsbD 6)
            (predAt s.here l (f.imm.extractLsb' 3 3).toNat != f.imm.getLsbD 7)
        else predAt s.here l f.pidx.toNat

/-- PREG gives the eight predicates of each lane, and PREG with `.set` replaces them all, in the lanes of E (R91). -/
def Obligations.PregReadsAndWritesPredicates : Prop :=
  ∀ f s, LaneReady f s →
    (∃ y, exec (.preg f) s = .next (s.fired y)
      ∧ Lands f 0 (execLanes s.here f) (fun l => (s.here.preds.get l).zeroExtend 32) s.here y)
    ∧ (f.pue = 0 → ∃ y, exec (.pregSet f) s = .next (s.fired y)
      ∧ (∀ l, l < 8 → y.preds.get l =
          if (execLanes s.here f).getLsbD l then (srcLane s.here f f.sa l).extractLsb' 0 8 else s.here.preds.get l)
      ∧ y.regs = s.here.regs ∧ y.outq = s.here.outq ∧ y.conf = s.here.conf ∧ y.sflags = s.here.sflags)

namespace Sys2Proof.Claims

/-- The lane that each form of SHUF takes (R92). -/
def shuffled (form n : Nat) (a b : Nat → Word) (l : Nat) : Word :=
  if form = 0 then a ((l + n) % 8)
  else if form = 1 then (if n ≤ l then a (l - n) else 0)
  else if form = 2 then (if l + n ≤ 7 then a (l + n) else 0)
  else if form = 3 then a (l ^^^ n)
  else if form = 4 then (if l % 2 = 0 then a (l / 2) else b (l / 2))
  else if form = 5 then (if l % 2 = 0 then a (4 + l / 2) else b (4 + l / 2))
  else if form = 6 then (if l ≤ 3 then a (2 * l) else b (2 * (l - 4)))
  else (if l ≤ 3 then a (2 * l + 1) else b (2 * (l - 4) + 1))

end Sys2Proof.Claims

/-- BCAST, PERM and SHUF read the lanes that their rule names, in E or not, and write the lanes of E (R92). -/
def Obligations.LaneMovesPermuteLanes : Prop :=
  ∀ f s, LaneReady f s →
    let a := srcLane s.here f f.sa
    let b := srcLane s.here f f.sb
    let n := (f.imm.extractLsb' 0 3).toNat
    let e := execLanes s.here f
    (∃ y, exec (.bcast f) s = .next (s.fired y) ∧ Lands f f.efmt e (fun _ => a n) s.here y)
    ∧ (∃ y, exec (.perm f) s = .next (s.fired y) ∧ Lands f f.efmt e (fun l => a ((b l).toNat % 8)) s.here y)
    ∧ ∃ y, exec (.shuf f) s = .next (s.fired y) ∧ Lands f f.efmt e (shuffled f.var.toNat n a b) s.here y

namespace Sys2Proof.Claims

/-- The combination of values under an operator of R93: an exact sum, wrapped or clamped once, or a fold from the identity. -/
def combined (op : Nat) (sat : Bool) (vs : List Word) : Word :=
  if op = 0 then
    let t := (vs.map BitVec.toInt).sum
    BitVec.ofInt 32 (if sat then max (-2 ^ 31) (min t (2 ^ 31 - 1)) else t)
  else if op = 1 then vs.foldl (fun x y => if y.slt x then y else x) 0x7FFFFFFF
  else if op = 2 then vs.foldl (fun x y => if x.slt y then y else x) 0x80000000
  else if op = 3 then vs.foldl (fun x y => if y.ult x then y else x) 0xFFFFFFFF
  else if op = 4 then vs.foldl (fun x y => if x.ult y then y else x) 0
  else if op = 5 then vs.foldl (· &&& ·) 0xFFFFFFFF
  else if op = 6 then vs.foldl (· ||| ·) 0
  else vs.foldl (· ^^^ ·) 0

end Sys2Proof.Claims

/-- LRED gives every lane of E the combination of a over the lanes of E, and LSCAN that over the lanes of E up to it, or with `.ex` below it
(R93). -/
def Obligations.ReductionsCombineLanesOfE : Prop :=
  ∀ f s, LaneReady f s →
    let a := srcLane s.here f f.sa
    let e := execLanes s.here f
    (∃ y, exec (.lred f) s = .next (s.fired y)
      ∧ Lands f f.efmt e (fun _ => combined f.var.toNat (f.sat == 1) ((lanesIn e).map a)) s.here y)
    ∧ ∃ y, exec (.lscan f) s = .next (s.fired y)
      ∧ Lands f f.efmt e (fun l => combined f.var.toNat (f.sat == 1)
          (((lanesIn e).filter fun j => if f.imm.getLsbD 0 then decide (j < l) else decide (j ≤ l)).map a)) s.here y

/-- PCOUNT counts the lanes of E in which pk is set, all of them or with `.rank` those below the lane, and FIRST gives the lowest, or 8, with a
true outcome in that lane alone (R94). -/
def Obligations.CountsOfPredicateLanes : Prop :=
  ∀ f s, LaneReady f s →
    let e := execLanes s.here f
    let hits := (lanesIn e).filter fun l => predAt s.here l (f.imm.extractLsb' 0 3).toNat
    (∃ y, exec (.pcount f) s = .next (s.fired y)
      ∧ Lands f 0 e (fun l => BitVec.ofNat 32 (if f.var.getLsbD 0 then (hits.filter (· < l)).length else hits.length)) s.here y)
    ∧ ∃ y, exec (.first f) s = .next (s.fired y)
      ∧ Lands f 0 e (fun _ => BitVec.ofNat 32 (hits.headD 8)) s.here y ∧ Compares f e (fun l => hits.head? == some l) y

/-- EMIT forms its token from source a in the lanes of E with the kind and level of its slot, and SEQGET and WSPH give the counter that
they read; the phase counter of the weight store is the cycle modulo 4096 (R76, R78, R238; log entry 23, the model's reading). -/
def Obligations.EmitAndCounterReads : Prop :=
  ∀ f s, LaneReady f s →
    let e := execLanes s.here f
    (∃ y, exec (.emit f) s = .next (s.fired y) ∧ Lands f f.efmt e (srcLane s.here f f.sa) s.here y)
    ∧ (∃ y, exec (.seqget f) s = .next (s.fired y)
      ∧ Lands f 0 e (fun _ => (s.here.seqOut (f.var.extractLsb' 0 2).toNat).zeroExtend 32) s.here y)
    ∧ ∃ y, exec (.wsph f) s = .next (s.fired y) ∧ Lands f 0 e (fun _ => BitVec.ofNat 32 (s.cyc % 4096)) s.here y

/-- SORT8 gives the j-th lane of E the j-th key in sorted order, or with the lane form the lane it came from: the order is a rearrangement of the
lanes of E, rising or falling by key, with equal keys in their lane order (R179). -/
def Obligations.Sort8OrdersLanesStably : Prop :=
  ∀ f s, LaneReady f s →
    let key := fun l => sortKey f.efmt.toNat (srcLane s.here f f.sa l)
    let e := execLanes s.here f
    ∃ (y : Elem) (v : Nat → Word) (ord : List Nat), exec (.sort8 f) s = .next (s.fired y) ∧ Lands f f.efmt e v s.here y
      ∧ ord.Perm (lanesIn e)
      ∧ ord.Pairwise (fun p q => (if f.var.getLsbD 0 then key q < key p else key p < key q) ∨ (key p = key q ∧ p < q))
      ∧ ∀ j l p : Nat, (lanesIn e)[j]? = some l → ord[j]? = some p →
          v l = if f.var.getLsbD 1 then BitVec.ofNat 32 p else srcLane s.here f f.sa p

/-- GSEL writes 1 in the lanes of E of the groups that fewer than k groups are ahead of, by a better score or by an equal one and a lower
number, and 0 in the others, with that as its outcome (R404). -/
def Obligations.GselSelectsBestGroups : Prop :=
  ∀ f s, LaneReady f s →
    let e := execLanes s.here f
    let n := 2 ^ (f.imm.extractLsb' 0 2).toNat
    let k := (f.imm.extractLsb' 2 4).toNat
    let score := fun g => groupScore (f.efmt == 1) (f.var.getLsbD 0) (srcAll s.here f f.sa) ((lanesIn e).filter fun l => l / n == g)
    let ahead := fun g h => match score g, score h with
      | some p, some q => betterScore (f.efmt == 1) (f.var.getLsbD 0) p q || (tieScore (f.efmt == 1) p q && decide (g < h))
      | _, _ => false
    let wins := fun g => (score g).isSome && decide (((List.range (8 / n)).filter fun h => ahead h g).length < k)
    ∃ y, exec (.gsel f) s = .next (s.fired y)
      ∧ Lands f 0 e (fun l => if wins (l / n) then 1 else 0) s.here y ∧ Compares f e (fun l => wins (l / n)) y

/- Events, predicate updates, and the faults of a firing (R14, R23, R24, R25, R83). -/

/-- A predicate update writes pk in the lanes of E alone: from the nonzero lanes of the result, from the compare outcome, clear or set; shown for
MOV and CMP of 32-bit elements (R23, R84). -/
def Obligations.PredicateUpdateModes : Prop :=
  ∀ f s, LaneReady f s → f.efmt = 0 → f.w64 = 0 → f.pue = 1 →
    let e := execLanes s.here f
    let pk := f.pidx.toNat
    (f.pmode ≠ 1 → ∃ y, exec (.mov f) s = .next (s.fired y) ∧ ∀ l, l < 8 → predAt y l pk =
      if e.getLsbD l then (if f.pmode = 0 then srcLane s.here f f.sa l != 0 else f.pmode == 3) else predAt s.here l pk)
    ∧ (f.pmode = 1 → ∃ y, exec (.cmp f) s = .next (s.fired y) ∧ ∀ l, l < 8 → predAt y l pk =
      if e.getLsbD l then holds f.cc (srcLane s.here f f.sa l) (srcLane s.here f f.sb l) else predAt s.here l pk)

/-- ADD, SUB and MUL of 32-bit elements set SAT exactly when SAT is asked for and the exact result of some lane of E lies outside the range, and no
other flag (R24, R73, R83). -/
def Obligations.SaturationSetsSAT : Prop :=
  ∀ f s, LaneReady f s → f.efmt = 0 → f.w64 = 0 →
    ∀ p ∈ [(Instr.add, fun a b : Int => a + b), (Instr.sub, fun a b => a - b), (Instr.mul, fun a b => a * b)],
    ∃ y, exec (p.1 f) s = .next (s.fired y) ∧ y.sflags = s.here.sflags |||
      (if f.sat = 1 ∧ ∃ l, l < 8 ∧ (execLanes s.here f).getLsbD l = true ∧
          (let v := p.2 (num f (srcLane s.here f f.sa l)) (num f (srcLane s.here f f.sb l))
           if f.uns = 1 then v < 0 ∨ 2 ^ 32 - 1 < v else v < -2 ^ 31 ∨ 2 ^ 31 - 1 < v)
        then 0x20 else 0)

/-- A lane instruction whose slot is ready and that reads or dequeues a POISON head raises STREAM 0x06 with the channel and the seq of that
token instead of taking effect. Taking a fault sets the fault-pending bit of the element, with the cycle, and begins the stop of the load that
owns the region: the first fault of a load is its record, with the cycle, page, region, unit, slot and opcode, and a later one is added flagged
SECONDARY, also one of the same element; a load without a current task is stopped alike, and the POISON head comes before an accumulator that
the lead may not name (log entries 77, 75 and 117, the model's readings). Registers, channels and every byte of memory stay as they were (R14,
R25, R307, R320). -/
def Obligations.FaultsBeginTheStopOfTheLoad : Prop :=
  (∀ mk ∈ intMakers ++ laneMakers ++ floatMakers, ∀ f s, s.Ready f (Look.lane f) → owesCredit s.here f = false →
    (∃ k ∈ srcChans f ++ chansIn f.deq, ∃ t, s.here.head k = some t ∧ t.kind = kPoison) →
    ∃ opc k t, k ∈ srcChans f ++ chansIn f.deq ∧ s.here.head k = some t ∧ t.kind = kPoison
      ∧ exec (mk f) s = .next (s.raise s.cur.reg s.cur.elem s.cur.slot opc ((FaultRec.of 0x03 0x06).token k t.seq)))
  ∧ ∀ (s : State) (r e n : Nat) (opc : Byte) (g : FaultRec) (k : Nat) (l : Load),
    (s.region r).owner = some k → s.load k = some l → l.ph ≠ .faulted →
    let t := s.raise r e n opc g
    let g1 := { g with page := (s.region r).page, reg := r, unit := e, slot := n, opc := opc }
    (t.elem r e).faulted = true ∧ ((s.elem r e).faulted = false → (t.elem r e).fcyc = s.cyc)
      ∧ (t.elem r e).regs = (s.elem r e).regs ∧ (t.elem r e).inq = (s.elem r e).inq ∧ (t.elem r e).outq = (s.elem r e).outq
      ∧ (∀ a, t.mem.read a = s.mem.read a)
      ∧ ∃ l1, t.load k = some l1 ∧ l1.ph = l.ph ∧ l1.task = l.task
        ∧ (l.frecs = [] → l1.frecs = [{ g1 with time := some s.cyc }] ∧ l1.fcyc = s.cyc)
        ∧ (l.frecs ≠ [] → l1.frecs = l.frecs ++ [{ g1 with second := true, time := some s.cyc }])

namespace Sys2Proof.Claims

/-- The matrix instructions that fault in stream mode, with their opcodes (R202). -/
def matrixOps : List ((Fields → Instr) × Byte) :=
  [(.wload, 0xB1), (.wrow, 0xB2), (.accz, 0xB3), (.accrd, 0xB4), (.tconK64n32, 0xB8), (.tconK32n64, 0xB9), (.tconK128n16, 0xBA),
    (.tconK16n128, 0xBB), (.tconK256n8, 0xBC), (.tconK8n256, 0xBD), (.tconK64n16x, 0xBE), (.tconK32n32x, 0xBF)]

/-- The instructions that look at the channels of their sources and of DEQ and write the output of their destination. -/
def plainMakers : List (Fields → Instr) :=
  intMakers ++ laneMakers ++ floatMakers ++ [.nop, .pass, .tagset, .seqset, .demand, .drop, .pregSet, .idxset]

/-- An input channel that the array or the stream engine of the element takes for itself (R184, R222). -/
def TakenIn (s : State) (k : Nat) : Prop :=
  (s.cur.elem = 0 ∧ (s.region s.cur.reg).mode ≠ 0 ∧ k ∈ (s.region s.cur.reg).arr.leadChans)
    ∨ (128 ≤ s.cur.elem ∧ ∃ g, s.here.port.eng = some g ∧ k ∈ g.ins)

/-- An output on which the stream engine of the port pushes its stream (R222). -/
def TakenOut (s : State) (c : Nat) : Prop := 128 ≤ s.cur.elem ∧ ∃ g, s.here.port.eng = some g ∧ c ∈ g.outs

end Sys2Proof.Claims

/-- No slot fires on an element whose picker does not run, that does not enable the slot, whose guard does not hold, whose explicit channel conditions
are not met or that lacks the room named by ROOM: the meaning of every slot instruction then changes nothing (log entry 12, the model's reading).
Neither does one whose source or DEQ names a channel without a DATA or POISON head that no condition names, or that touches a channel or
output which a running array or stream engine owns, a stream operation while its port's engine is busy, or a matrix instruction while the
array is (R16, R17, R25, R183, R184, R222, R354, R355). -/
def Obligations.UnreadySlotChangesNothing : Prop :=
  (∀ i opc f s, slotParts i = some (opc, f) →
    (s.picks s.cur.reg s.cur.elem = false ∨ (s.here.field 160).getLsbD s.cur.slot = false ∨ guardOk s.here f = false
      ∨ explicitOk s.here f = false ∨ roomOk s.here f = false) →
    exec i s = .next s)
  ∧ (∀ mk ∈ plainMakers, ∀ f s,
    ((∃ k ∈ srcChans f ++ chansIn f.deq, k ∉ condChans f ∧ ∀ t, s.here.head k = some t → t.kind ≠ kData ∧ t.kind ≠ kPoison)
      ∨ (∃ k ∈ srcChans f ++ chansIn f.deq ++ condChans f, TakenIn s k)
      ∨ (∃ c, outOf f.dst = some c ∧ TakenOut s c)) →
    exec (mk f) s = .next s)
  ∧ (∀ mk ∈ [Instr.agsrc, .agsnk, .gath, .scat, .vradd, .vrmax], ∀ f s, s.here.port.eng ≠ none → exec (mk f) s = .next s)
  ∧ ∀ p ∈ matrixOps, ∀ f s, (s.region s.cur.reg).mode ≠ 0 → (s.region s.cur.reg).arr.op ≠ 0 → exec (p.1 f) s = .next s

/- The token and channel instructions (R74 to R81). -/

namespace Sys2Proof.Claims

/-- What a firing that the instruction's own rule forms needs: the slot ready, and no fault in the way (R14, R71, R184). -/
def OwnReady (f : Fields) (s : State) : Prop := s.Ready f (Look.lane f) ∧ laneFault s s.here f = none

/-- The one push of a firing: the token behind the tokens of its output, whose counter is incremented; every other output as it was (R11). -/
def PushesOne (c : Nat) (t : Token) (x y : Elem) : Prop :=
  y.outQ c = x.outQ c ++ [t] ∧ y.seqOut c = x.seqOut c + 1 ∧ ∀ d, d ≠ c → y.outQ d = x.outQ d ∧ y.seqOut d = x.seqOut d

/-- The channels of DEQ lose their heads, and no other channel changes (R21). -/
def Dequeues (f : Fields) (x y : Elem) : Prop :=
  ∀ k, y.inQ k = if k < 4 ∧ f.deq.getLsbD k = true then (x.inQ k).drop 1 else x.inQ k

end Sys2Proof.Claims

/-- PASS and TAGSET push the head of Ik on the output that their rule names, changed only as the rule says (R75, R77). The
firing uses up a free value where a predicate update asks which lanes are nonzero (log entry 25, the model's choice). -/
def Obligations.TokenForwarding : Prop :=
  ∀ f s k h c, OwnReady f s → chanOf f.sa = some k → s.here.head k = some h → outOf f.dst = some c →
    let sq := seqFor s.here f c
    let e := execLanes s.here f
    (let t : Token := { h with
        seq := sq
        vmask := if f.var.getLsbD 0 then e else h.vmask
        lanes := if f.var.getLsbD 0 then Oct.ofFn fun l => if e.getLsbD l then h.lanes.get l else 0 else h.lanes
        kind := if f.var.getLsbD 1 then f.okind else h.kind
        lvl := if f.var.getLsbD 1 then f.olvl else h.lvl }
     s.here.mayPush c t.kind = true →
      ∃ y, exec (.pass f) s = .next (usedRes f (s.fired y)) ∧ PushesOne c t s.here y ∧ Dequeues f s.here y ∧ y.regs = s.here.regs)
    ∧ (s.here.mayPush c h.kind = true →
      ∃ y, exec (.tagset f) s = .next (usedRes f (s.fired y)) ∧ PushesOne c { h with fmt := f.efmt, seq := sq } s.here y
        ∧ Dequeues f s.here y ∧ y.regs = s.here.regs)

/-- NOP makes its dequeues and its predicate update and does nothing else. DEMAND pushes a REQ token whose lane 0 holds lane 0 of source a
and whose other lanes are zero, valid in lane 0 alone, as I32 of level 0; SEQSET writes the counter that VAR names from bits 11 to 0 of source
a in the lowest lane of E, leaves it where E is empty, and pushes no token (R74, R78, R79). -/
def Obligations.NopDemandAndSeqset : Prop :=
  (∀ f s, OwnReady f s → ∃ y, exec (.nop f) s = .next (s.fired y)
    ∧ Dequeues f s.here y ∧ y.regs = s.here.regs ∧ y.outq = s.here.outq ∧ y.seqo = s.here.seqo ∧ y.sflags = s.here.sflags
    ∧ y.conf = s.here.conf ∧ (f.pue = 0 → y.preds = s.here.preds))
  ∧ (∀ f s c, OwnReady f s → outOf f.dst = some c → f.okind = kReq →
    ∃ y, exec (.demand f) s = .next (usedRes f (s.fired y))
      ∧ PushesOne c ⟨seqFor s.here f c, 1, 0, kReq, 0, ⟨srcLane s.here f f.sa 0, 0, 0, 0, 0, 0, 0, 0⟩⟩ s.here y
      ∧ Dequeues f s.here y ∧ y.regs = s.here.regs)
  ∧ ∀ f s, OwnReady f s →
    let c := (f.var.extractLsb' 0 2).toNat
    ∃ y, exec (.seqset f) s = .next (usedRes f (s.fired y))
      ∧ (∀ l, lowestLane (execLanes s.here f) = some l → y.seqOut c = (srcLane s.here f f.sa l).extractLsb' 0 12)
      ∧ (lowestLane (execLanes s.here f) = none → y.seqOut c = s.here.seqOut c)
      ∧ (∀ d, d ≠ c → y.seqOut d = s.here.seqOut d) ∧ y.outq = s.here.outq ∧ y.regs = s.here.regs ∧ Dequeues f s.here y

/-- DROP writes the header of the head of Ik, seq in the top 12 bits, then vmask, fmt, kind and lvl over three zero bits, to the lanes that the
guard and the lane-enable mask leave: the mask of that token does not narrow them. FWDSEL pushes the head of Ik unchanged on its first output
where pk is set in a lane of E, else on its second, and the counter of the other output is not incremented (R8, R80, R81). -/
def Obligations.DropAndFwdsel : Prop :=
  (∀ f s k h, OwnReady f s → owesCredit s.here f = false → chanOf f.sa = some k → s.here.head k = some h →
    ∃ y, exec (.drop f) s = .next (s.fired y)
      ∧ Lands f 0 (guardMask s.here f &&& s.here.laneEn)
          (fun _ => h.seq ++ h.vmask ++ h.fmt ++ h.kind ++ h.lvl ++ (0 : BitVec 3)) s.here y
      ∧ Kept f s.here y)
  ∧ ∀ f s k h a, s.Ready f { Look.lane f with outs := (outOf f.dst).toList ++ [(f.imm.extractLsb' 0 2).toNat] } →
    laneFault s s.here f = none → chanOf f.sa = some k → s.here.head k = some h → outOf f.dst = some a →
    let c := if (List.range 8).any fun l => (execLanes s.here f).getLsbD l && predAt s.here l f.var.toNat then a
      else (f.imm.extractLsb' 0 2).toNat
    s.here.mayPush c h.kind = true →
      ∃ y, exec (.fwdsel f) s = .next (usedRes f (s.fired y)) ∧ PushesOne c { h with seq := seqFor s.here f c } s.here y
        ∧ Dequeues f s.here y ∧ y.regs = s.here.regs

/- The stream, routing and selection instructions (R157 to R182, R398 to R404). -/

namespace Sys2Proof.Claims

/-- One row of the table of a stream instruction: the inputs that the step reads, the outputs that it can write, when it applies, the inputs that
it dequeues with the level of their streams, the tokens that it pushes, whether those keep their own seq (R163, R398), and what the step makes
of the stream unit (R165) and of the registers, with the sticky flags that it sets. -/
structure StepRow where
  instr : Fields → Instr
  reads : Fields → Elem → List Nat
  outs : Fields → List Nat
  applies : Fields → Elem → Prop
  deq : Fields → Elem → List (Nat × Nat)
  out : Fields → Elem → List (Nat × Token)
  keep : Bool
  unit : Fields → Elem → StreamUnit
  regs : Fields → Elem → Nat → Oct Word
  ev : Fields → Elem → Byte

/-- The stream unit stays as it is. -/
def sameUnit (_ : Fields) (x : Elem) : StreamUnit := x.su
/-- The registers stay as they are. -/
def sameRegs (_ : Fields) (x : Elem) : Nat → Oct Word := x.reg
/-- No flag is set. -/
def noFlag (_ : Fields) (_ : Elem) : Byte := 0

/-- When a step is taken: the slot is ready, no head that it reads is refused (R14, R160), every token it dequeues passes CheckToken (R160),
and every DATA push has its credit (R145). -/
def StepReady (p : StepRow) (f : Fields) (s : State) : Prop :=
  s.Ready f ⟨chansIn f.deq, p.reads f s.here, p.outs f⟩
    ∧ laneFault s s.here { f with sa := 30, sb := if 16 ≤ f.sb.toNat ∧ f.sb.toNat ≤ 19 then 30 else f.sb, sc := 30 } = none
    ∧ headFault s.here (p.reads f s.here) = none
    ∧ (∀ q ∈ p.deq f s.here, ∀ t, s.here.head q.1 = some t → trackFault (s.here.tracker q.1) t q.2 = none)
    ∧ ∀ q ∈ p.out f s.here, s.here.mayPush q.1 q.2.kind = true

/-- What a step leaves (R163): each dequeued input without its head and with its tracker advanced, the other inputs that DEQ does not name as they
were, each token behind those of its output with the seq of the output's counter or its own, no other output changed, the stream unit, the
registers and the flags as its row says, and the rest of the element as it was. -/
structure Stepped (p : StepRow) (f : Fields) (x y : Elem) : Prop where
  taken : ∀ q ∈ p.deq f x, f.deq.getLsbD q.1 = false → y.inQ q.1 = (x.inQ q.1).drop 1
  tracked : ∀ q ∈ p.deq f x, ∀ t, x.head q.1 = some t → y.tracker q.1 = trackNext (x.tracker q.1) t
  left : ∀ k, k < 4 → k ∉ (p.deq f x).map (·.1) → f.deq.getLsbD k = false → y.inQ k = x.inQ k
  pushed : ∀ q ∈ p.out f x, y.outQ q.1 = x.outQ q.1 ++ [if p.keep then q.2 else { q.2 with seq := x.seqOut q.1 }]
  quiet : ∀ c, c ∉ (p.out f x).map (·.1) → y.outQ c = x.outQ c
  unit : y.su = p.unit f x
  regs : ∀ k, y.reg k = p.regs f x k
  flags : y.sflags = x.sflags ||| p.ev f x
  preds : f.pue = 0 → y.preds = x.preds
  rest : y.conf = x.conf ∧ y.sel = x.sel ∧ y.resv = x.resv ∧ y.port = x.port ∧ y.rbuf = x.rbuf ∧ y.away = x.away ∧ y.halted = x.halted
    ∧ y.faulted = x.faulted

/-- Kinds of the heads of two channels. -/
def bothAre (x : Elem) (j k : Nat) (kind : BitVec 3) : Prop := (headOf x j).kind = kind ∧ (headOf x k).kind = kind

/-- A coordinate head. -/
def coordOf (x : Elem) (k : Nat) : Nat := ((headOf x k).lanes.get 0).toNat

/-- The level of the stream that IMM16[2:0] gives. -/
def lvl0 (f : Fields) : Nat := (f.imm.extractLsb' 0 3).toNat

/-- The inputs and outputs of a merge (R170): the coordinate channels 0 and 2 and the value channels that VAR names. -/
def mergeReads (f : Fields) : List Nat :=
  [0] ++ (if f.var.getLsbD 0 then [1] else []) ++ [2] ++ (if f.var.getLsbD 1 then [3] else [])
/-- The outputs of a merge (R170). -/
def mergeOuts (f : Fields) : List Nat :=
  (if f.var.getLsbD 2 then [0] else []) ++ (if f.var.getLsbD 0 then [1] else []) ++ (if f.var.getLsbD 1 then [2] else [])
/-- The side of a merge that takes channels k and, with its values, k + 1. -/
def mergeSide (f : Fields) (k : Nat) : List (Nat × Nat) :=
  (k, lvl0 f) :: (if f.var.getLsbD (k / 2) then [(k + 1, lvl0 f)] else [])
/-- The value heads of a merge are of the kind and level of their coordinate heads (R170). -/
def mergeVals (f : Fields) (x : Elem) (k : Nat) : Prop := f.var.getLsbD (k / 2) = true → sameMark (headOf x (k + 1)) (headOf x k) = true
/-- The tokens that a merge pushes: a coordinate, a's value and b's value, on the outputs that VAR names (R170). -/
def mergePush (f : Fields) (c v w : Token) : List (Nat × Token) :=
  (if f.var.getLsbD 2 then [(0, c)] else []) ++ (if f.var.getLsbD 0 then [(1, v)] else []) ++ (if f.var.getLsbD 1 then [(2, w)] else [])

/-- A row of a merge. -/
def mergeRow (mk : Fields → Instr) (when_ : Fields → Elem → Prop) (a b : Bool) (out : Fields → Elem → List (Nat × Token)) : StepRow :=
  ⟨mk, fun f _ => mergeReads f, mergeOuts,
    fun f x => when_ f x ∧ (a = true → mergeVals f x 0) ∧ (b = true → mergeVals f x 2),
    fun f _ => (if a then mergeSide f 0 else []) ++ (if b then mergeSide f 2 else []), out, false, sameUnit, sameRegs, noFlag⟩

/-- Only the coordinate of a is there: it is the smaller, or b's fiber has ended (R170). -/
def onlyA (x : Elem) : Prop :=
  (headOf x 0).kind = kData ∧ ((headOf x 2).kind = kData ∧ coordOf x 0 < coordOf x 2 ∨ (headOf x 2).kind = kStop ∧ (headOf x 2).lvl = 0)
/-- Only the coordinate of b is there (R170). -/
def onlyB (x : Elem) : Prop :=
  (headOf x 2).kind = kData ∧ ((headOf x 0).kind = kData ∧ coordOf x 2 < coordOf x 0 ∨ (headOf x 0).kind = kStop ∧ (headOf x 0).lvl = 0)
/-- The two coordinates are equal (R170). -/
def bothMatch (x : Elem) : Prop := bothAre x 0 2 kData ∧ coordOf x 0 = coordOf x 2
/-- The two fibers end together (R170). -/
def bothStop (x : Elem) : Prop := bothAre x 0 2 kStop ∧ (headOf x 0).lvl = (headOf x 2).lvl

/-- The rows of INTSC, UNION and JOIN (R170). -/
def mergeTable : List StepRow :=
  let co := fun (x : Elem) k => coordTok ((headOf x k).lanes.get 0)
  let st := fun (x : Elem) => stopTok (headOf x 0).lvl.toNat
  [mergeRow .intsc (fun _ x => bothMatch x) true true (fun f x => mergePush f (co x 0) (headOf x 1) (headOf x 3)),
   mergeRow .union (fun _ x => bothMatch x) true true (fun f x => mergePush f (co x 0) (headOf x 1) (headOf x 3)),
   mergeRow .join (fun _ x => bothMatch x) true true (fun f x => mergePush f (co x 0) (headOf x 1) (headOf x 3)),
   mergeRow .intsc (fun _ x => onlyA x) true false (fun _ _ => []),
   mergeRow .union (fun _ x => onlyA x) true false (fun f x => mergePush f (co x 0) (headOf x 1) (zeroTok f.efmt)),
   mergeRow .join (fun _ x => onlyA x) true false (fun f x => mergePush f (co x 0) (headOf x 1) (zeroTok f.efmt)),
   mergeRow .intsc (fun _ x => onlyB x) false true (fun _ _ => []),
   mergeRow .union (fun _ x => onlyB x) false true (fun f x => mergePush f (co x 2) (zeroTok f.efmt) (headOf x 3)),
   mergeRow .join (fun _ x => onlyB x) false true (fun _ _ => []),
   mergeRow .intsc (fun _ x => bothStop x) true true (fun f x => mergePush f (st x) (st x) (st x)),
   mergeRow .union (fun _ x => bothStop x) true true (fun f x => mergePush f (st x) (st x) (st x)),
   mergeRow .join (fun _ x => bothStop x) true true (fun f x => mergePush f (st x) (st x) (st x)),
   mergeRow .intsc (fun _ x => bothAre x 0 2 kDone) true true (fun f _ => mergePush f doneTok doneTok doneTok),
   mergeRow .union (fun _ x => bothAre x 0 2 kDone) true true (fun f _ => mergePush f doneTok doneTok doneTok),
   mergeRow .join (fun _ x => bothAre x 0 2 kDone) true true (fun f _ => mergePush f doneTok doneTok doneTok)]

/-- The tokens of a SCAN from position `p` with `n` still to give (R169): up to eight coordinates, or one with `.one`. -/
def scanTok (f : Fields) (p st n : Word) : Token :=
  let k := min n.toNat (if f.var.getLsbD 0 then 1 else 8)
  dataTok f.efmt (maskOf fun l => decide (l < k)) (Oct.ofFn fun l => if l < k then p + BitVec.ofNat 32 l * st else 0)

/-- The position and remainder of a SCAN (R169): of its head token at first, then of the stream unit. -/
def scanAt (x : Elem) (k : Nat) : Word × Word :=
  if x.su.phase = 0 then ((headOf x k).lanes.get 0, (headOf x k).lanes.get 1) else (x.su.spos, x.su.srem)

/-- The stream unit after a SCAN has given `n` coordinates (R169). -/
def scanUnit (f : Fields) (x : Elem) (k : Nat) : StreamUnit :=
  let n := min (scanAt x k).2.toNat (if f.var.getLsbD 0 then 1 else 8)
  let left := (scanAt x k).2 - BitVec.ofNat 32 n
  { x.su with
    spos := (scanAt x k).1 + BitVec.ofNat 32 n * (headOf x k).lanes.get 2
    srem := left
    flag := left == 0 && f.var.getLsbD 1
    phase := if left = 0 ∧ f.var.getLsbD 1 = false then 0 else if x.su.phase = 0 then 1 else x.su.phase }

/-- The lanes in which REDS acts, E without the mask of the head (R163, R172). -/
def redsLanes (f : Fields) (x : Elem) : Byte := guardMask x f &&& x.laneEn

/-- One step of REDS in a lane (R172): for integers the exact sum, narrowed once; for floats the rule of the operator, element by element. -/
def redsWant (f : Fields) (x : Elem) (a h : Word) : Word :=
  if f.var = 0 then
    BitVec.ofInt 32 (if f.sat = 1 then max (-2 ^ 31) (min (a.toInt + h.toInt) (2 ^ 31 - 1)) else a.toInt + h.toInt)
  else (redsOp x f a h).1

/-- The flags of a REDS step on DATA: those of its lanes (R24, R172). -/
def redsFlags (f : Fields) (x : Elem) (k : Nat) : Byte :=
  ((lanesIn (redsLanes f x &&& (headOf x k).vmask)).map fun l => (redsOp x f ((x.reg f.sb.toNat).get l) ((headOf x k).lanes.get l)).2).foldl
    (· ||| ·) 0

/-- A register file with lanes of one register replaced. -/
def setLanes (x : Elem) (r : Nat) (m : Byte) (v : Nat → Word) (k : Nat) : Oct Word :=
  if k = r then Oct.ofFn fun l => if m.getLsbD l then v l else (x.reg r).get l else x.reg k

/-- The rows of the instructions of one and two streams (R169, R171 to R176). -/
def fiberTable : List StepRow :=
  let a := fun (f : Fields) => chanIx f.sa
  let b := fun (f : Fields) => chanIx f.sb
  let one := fun (f : Fields) (_ : Elem) => [a f]
  let two := fun (f : Fields) (_ : Elem) => [a f, b f]
  let dst := fun (f : Fields) => [outIx f]
  let is := fun (x : Elem) (k : Nat) (kd : BitVec 3) => (headOf x k).kind = kd
  let stop := fun (f : Fields) => f.var.getLsbD 1
  [⟨.scan, one, dst, fun f x => is x (a f) kData ∧ x.su.flag = false ∧ (scanAt x (a f)).2 ≠ 0,
      fun f x => if (scanAt x (a f)).2.toNat ≤ (if f.var.getLsbD 0 then 1 else 8) ∧ stop f = false then [(a f, lvl0 f)] else [],
      fun f x => [(outIx f, scanTok f (scanAt x (a f)).1 ((headOf x (a f)).lanes.get 2) (scanAt x (a f)).2)], false,
      fun f x => scanUnit f x (a f), sameRegs, noFlag⟩,
   ⟨.scan, one, dst, fun f x => is x (a f) kData ∧ x.su.flag = false ∧ (scanAt x (a f)).2 = 0,
      fun f _ => [(a f, lvl0 f)], fun f _ => if stop f then [(outIx f, stopTok 0)] else [], false,
      fun f x => { x.su with phase := 0, spos := (scanAt x (a f)).1, srem := 0 }, sameRegs, noFlag⟩,
   ⟨.scan, one, dst, fun f x => is x (a f) kData ∧ x.su.flag = true, fun f _ => [(a f, lvl0 f)], fun f _ => [(outIx f, stopTok 0)], false,
      fun _ x => { x.su with flag := false, phase := 0 }, sameRegs, noFlag⟩,
   ⟨.scan, one, dst, fun f x => is x (a f) kStop, fun f _ => [(a f, lvl0 f)],
      fun f x => [(outIx f, stopTok ((headOf x (a f)).lvl.toNat + if stop f then 1 else 0))], false, sameUnit, sameRegs, noFlag⟩,
   ⟨.scan, one, dst, fun f x => is x (a f) kDone, fun f _ => [(a f, lvl0 f)], fun f _ => [(outIx f, doneTok)], false, sameUnit, sameRegs, noFlag⟩,
   ⟨.rept, two, dst, fun f x => is x (b f) kData ∧ is x (a f) kData, fun f _ => [(b f, lvl0 f)],
      fun f x => [(outIx f, headOf x (a f))], false, sameUnit, sameRegs, noFlag⟩,
   ⟨.rept, two, dst, fun f x => is x (b f) kStop ∧ (headOf x (b f)).lvl = 0 ∧ is x (a f) kData,
      fun f _ => [(b f, lvl0 f), (a f, lvl0 f - 1)], fun f _ => [(outIx f, stopTok 0)], false, sameUnit, sameRegs, noFlag⟩,
   ⟨.rept, two, dst, fun f x => is x (b f) kStop ∧ (headOf x (b f)).lvl ≠ 0 ∧ is x (a f) kStop
        ∧ (headOf x (a f)).lvl = (headOf x (b f)).lvl - 1,
      fun f _ => [(b f, lvl0 f), (a f, lvl0 f - 1)], fun f x => [(outIx f, stopTok (headOf x (b f)).lvl.toNat)], false, sameUnit, sameRegs, noFlag⟩,
   ⟨.rept, two, dst, fun f x => is x (b f) kDone ∧ is x (a f) kDone, fun f _ => [(b f, lvl0 f), (a f, lvl0 f - 1)],
      fun f _ => [(outIx f, doneTok)], false, sameUnit, sameRegs, noFlag⟩,
   ⟨.reds, one, dst, fun f x => is x (a f) kData, fun f _ => [(a f, (f.imm.extractLsb' 3 3).toNat)], fun _ _ => [], false, sameUnit,
      fun f x => setLanes x f.sb.toNat (redsLanes f x &&& (headOf x (a f)).vmask)
        fun l => redsWant f x ((x.reg f.sb.toNat).get l) ((headOf x (a f)).lanes.get l), fun f x => redsFlags f x (a f)⟩,
   ⟨.reds, one, dst, fun f x => is x (a f) kStop ∧ (headOf x (a f)).lvl.toNat = lvl0 f, fun f _ => [(a f, (f.imm.extractLsb' 3 3).toNat)],
      fun f x => [(outIx f, dataTok f.efmt (redsLanes f x) (Oct.ofFn fun l => if (redsLanes f x).getLsbD l then (x.reg f.sb.toNat).get l else 0))],
      false, sameUnit, fun f x => setLanes x f.sb.toNat (redsLanes f x) fun _ =>
        if f.var = 2 then (if f.efmt = 2 then 0xFF80FF80 else 0xFF800000) else if f.var = 3 then (if f.efmt = 2 then 0x7F807F80 else 0x7F800000)
        else 0, noFlag⟩,
   ⟨.reds, one, dst, fun f x => is x (a f) kStop ∧ lvl0 f < (headOf x (a f)).lvl.toNat, fun f _ => [(a f, (f.imm.extractLsb' 3 3).toNat)],
      fun f x => [(outIx f, stopTok ((headOf x (a f)).lvl.toNat - lvl0 f - 1))], false, sameUnit, sameRegs, noFlag⟩,
   ⟨.reds, one, dst, fun f x => is x (a f) kStop ∧ (headOf x (a f)).lvl.toNat < lvl0 f, fun f _ => [(a f, (f.imm.extractLsb' 3 3).toNat)],
      fun _ _ => [], false, sameUnit, sameRegs, noFlag⟩,
   ⟨.reds, one, dst, fun f x => is x (a f) kDone, fun f _ => [(a f, (f.imm.extractLsb' 3 3).toNat)], fun f _ => [(outIx f, doneTok)], false, sameUnit, sameRegs, noFlag⟩,
   ⟨.stoplvLower, one, dst, fun f x => is x (a f) kStop ∧ (f.imm.extractLsb' 3 3).toNat ≤ (headOf x (a f)).lvl.toNat,
      fun f _ => [(a f, lvl0 f)], fun f x => [(outIx f, stopTok ((headOf x (a f)).lvl.toNat - (f.imm.extractLsb' 3 3).toNat))], false, sameUnit, sameRegs, noFlag⟩,
   ⟨.stoplvLower, one, dst, fun f x => is x (a f) kStop ∧ (headOf x (a f)).lvl.toNat < (f.imm.extractLsb' 3 3).toNat,
      fun f _ => [(a f, lvl0 f)], fun _ _ => [], false, sameUnit, sameRegs, noFlag⟩,
   ⟨.stoplvLower, one, dst, fun f x => is x (a f) kData ∨ is x (a f) kDone, fun f _ => [(a f, lvl0 f)], fun f x => [(outIx f, headOf x (a f))], false, sameUnit, sameRegs, noFlag⟩,
   ⟨.stoplvWrap, one, dst, fun f x => is x (a f) kData ∧ x.su.flag = false, fun _ _ => [], fun f x => [(outIx f, headOf x (a f))], false,
      fun _ x => { x.su with flag := true }, sameRegs, noFlag⟩,
   ⟨.stoplvWrap, one, dst, fun f x => is x (a f) kData ∧ x.su.flag = true, fun f _ => [(a f, lvl0 f)],
      fun f _ => [(outIx f, stopTok 0)], false, fun _ x => { x.su with flag := false }, sameRegs, noFlag⟩,
   ⟨.stoplvWrap, one, dst, fun f x => is x (a f) kStop, fun f _ => [(a f, lvl0 f)],
      fun f x => [(outIx f, stopTok ((headOf x (a f)).lvl.toNat + 1))], false, sameUnit, sameRegs, noFlag⟩,
   ⟨.stoplvWrap, one, dst, fun f x => is x (a f) kDone, fun f _ => [(a f, lvl0 f)], fun f _ => [(outIx f, doneTok)], false, sameUnit, sameRegs, noFlag⟩,
   ⟨.gchk, one, dst, fun _ _ => True, fun f _ => [(a f, lvl0 f)], fun f x => [(outIx f, headOf x (a f))], false, sameUnit, sameRegs, noFlag⟩,
   ⟨.zip, fun f _ => if f.var.getLsbD 0 then [0, 1, 2] else [0, 1], fun f => if f.var.getLsbD 0 then [0, 1, 2] else [0, 1],
      fun f x => ∀ k ∈ (if f.var.getLsbD 0 then [0, 1, 2] else [0, 1]), sameMark (headOf x k) (headOf x 0) = true,
      fun f _ => (if f.var.getLsbD 0 then [0, 1, 2] else [0, 1]).map fun k => (k, lvl0 f),
      fun f x => (if f.var.getLsbD 0 then [0, 1, 2] else [0, 1]).map fun k => (k, headOf x k), false, sameUnit, sameRegs, noFlag⟩]

/-- The rows of CRDDROP, whose outputs differ (R173). -/
def dropTable : List StepRow :=
  let o := fun (f : Fields) => chanIx f.sa
  let i := fun (f : Fields) => chanIx f.sb
  let b := fun (f : Fields) => (f.imm.extractLsb' 3 2).toNat
  let reads := fun (f : Fields) (_ : Elem) => [o f, i f]
  let outs := fun (f : Fields) => [outIx f, b f]
  let both := fun (f : Fields) (_ : Elem) => [(o f, lvl0 f), (i f, lvl0 f + 1)]
  let is := fun (x : Elem) (k : Nat) (kd : BitVec 3) => (headOf x k).kind = kd
  [⟨.crddrop, reads, outs, fun f x => is x (o f) kData ∧ is x (i f) kData, fun f _ => [(i f, lvl0 f + 1)],
      fun f x => (if x.su.flag then [] else [(outIx f, coordTok ((headOf x (o f)).lanes.get 0))]) ++ [(b f, headOf x (i f))], false,
      fun _ x => { x.su with flag := true }, sameRegs, noFlag⟩,
   ⟨.crddrop, reads, outs, fun f x => is x (o f) kData ∧ is x (i f) kStop ∧ (headOf x (i f)).lvl = 0, both,
      fun f x => if x.su.flag then [(b f, stopTok 0)] else [], false,
      fun _ x => { x.su with flag := false }, sameRegs, noFlag⟩,
   ⟨.crddrop, reads, outs, fun f x => is x (o f) kStop ∧ is x (i f) kStop ∧ (headOf x (i f)).lvl.toNat = (headOf x (o f)).lvl.toNat + 1, both,
      fun f x => [(outIx f, stopTok (headOf x (o f)).lvl.toNat), (b f, stopTok (headOf x (i f)).lvl.toNat)], false,
      fun _ x => { x.su with flag := false }, sameRegs, noFlag⟩,
   ⟨.crddrop, reads, outs, fun f x => is x (o f) kDone ∧ is x (i f) kDone, both, fun f _ => [(outIx f, doneTok), (b f, doneTok)], false,
      fun _ x => { x.su with flag := false }, sameRegs, noFlag⟩]

/-- The data heads of MRG that are nearest to the seq last forwarded, ascending (R402). -/
def mrgNearest (f : Fields) (x : Elem) : List Nat :=
  let data := [0, 1, 2, 3].filter fun k => f.imm.getLsbD k && (headOf x k).kind == kData
  data.filter fun k => data.all fun j => decide (mrgDist x (headOf x k) ≤ mrgDist x (headOf x j))

/-- MRG's place in its sequence moves to that of the heads that it forwards (R402). -/
def mrgUnit (f : Fields) (x : Elem) : StreamUnit :=
  { x.su with spos := (headOf x ((mrgNearest f x).headD 0)).seq.zeroExtend 32 }

/-- The rows of STEER, FANOUT and MRG (R400 to R403). -/
def routeTable : List StepRow :=
  let chans := fun (f : Fields) => [0, 1, 2, 3].filter fun k => f.imm.getLsbD k
  let lv := fun (f : Fields) => (f.imm.extractLsb' 4 3).toNat
  let lvS := fun (f : Fields) => (f.imm.extractLsb' 5 3).toNat
  let nk := fun (f : Fields) => f.var.getLsbD 0
  let side := fun (f : Fields) (x : Elem) => if ((headOf x 1).lanes.get 0).getLsbD (f.imm.extractLsb' 0 5).toNat then 1 else 0
  let mark := fun (x : Elem) => (headOf x 0).kind ≠ kData ∧ sameMark (headOf x 0) (headOf x 1) = true
  let data := fun (f : Fields) (x : Elem) => (chans f).filter fun k => (headOf x k).kind == kData
  [⟨.steer, fun _ _ => [0, 1], fun f => if nk f then [0, 1] else [0, 1, 2, 3], fun _ x => bothAre x 0 1 kData,
      fun f _ => [(0, lvS f), (1, lvS f)],
      fun f x => (side f x, headOf x 0) :: (if nk f then [] else [(2 + side f x, headOf x 1)]), true, sameUnit, sameRegs, noFlag⟩,
   ⟨.steer, fun _ _ => [0, 1], fun f => if nk f then [0, 1] else [0, 1, 2, 3], fun _ x => mark x,
      fun f _ => [(0, lvS f), (1, lvS f)],
      fun f x => [(0, headOf x 0), (1, headOf x 0)] ++ (if nk f then [] else [(2, headOf x 1), (3, headOf x 1)]), true, sameUnit, sameRegs, noFlag⟩,
   ⟨.fanout, fun _ _ => [0, 1], chans, fun _ x => bothAre x 0 1 kData, fun f _ => [(0, lv f), (1, lv f)],
      fun f x => ((chans f).filter fun o => ((headOf x 1).lanes.get 1).getLsbD o).map fun o => (o, headOf x 0), true, sameUnit, sameRegs, noFlag⟩,
   ⟨.fanout, fun _ _ => [0, 1], chans, fun _ x => mark x, fun f _ => [(0, lv f), (1, lv f)],
      fun f x => (chans f).map fun o => (o, headOf x 0), true, sameUnit, sameRegs, noFlag⟩,
   ⟨.mrg, fun f _ => chans f, fun f => [outIx f],
      fun f x => nk f = false ∧ data f x ≠ [] ∧ ∀ j ∈ data f x, mrgDist x (headOf x j) < 2048,
      fun f x => ((mrgNearest f x).take 1).map fun k => (k, lv f),
      fun f x => [(outIx f, headOf x ((mrgNearest f x).headD 0))], true, mrgUnit, sameRegs, noFlag⟩,
   ⟨.mrg, fun f _ => chans f, fun f => [outIx f],
      fun f x => nk f = true ∧ data f x ≠ [] ∧ ∀ j ∈ data f x, mrgDist x (headOf x j) < 2048,
      fun f x => (mrgNearest f x).map fun k => (k, lv f),
      fun f x => [(outIx f, ⟨(headOf x ((mrgNearest f x).headD 0)).seq, (mrgNearest f x).foldl (fun m k => m ||| (headOf x k).vmask) 0, f.efmt,
        kData, 0, Oct.ofFn fun l => (mrgLane x f ((mrgNearest f x).map (headOf x)) l).1⟩)], true, mrgUnit, sameRegs,
      fun f x => (List.range 8).foldl (fun e l => e ||| (mrgLane x f ((mrgNearest f x).map (headOf x)) l).2) 0⟩,
   ⟨.mrg, fun f _ => chans f, fun f => [outIx f],
      fun f x => data f x = [] ∧ ∀ k ∈ chans f, sameMark (headOf x k) (headOf x ((chans f).headD 0)) = true,
      fun f _ => (chans f).map fun k => (k, lv f), fun f x => [(outIx f, headOf x ((chans f).headD 0))], true, sameUnit, sameRegs, noFlag⟩]

/-- The stream unit in a phase. -/
def inPhase (n : Nat) (u : StreamUnit) : StreamUnit := { u with phase := BitVec.ofNat 5 n }

/-- The stream unit with a row of the block buffer stored, in the next phase (R165, R180 to R182). -/
def rowStored (n : Nat) (v : Oct Word) (u : StreamUnit) : StreamUnit :=
  { u with block := SMap.set u.block n v, phase := BitVec.ofNat 5 (n + 1) }

/-- The stream unit with its auxiliary words replaced. -/
def withAux (v : BitVec 64) (u : StreamUnit) : StreamUnit := { u with aux0 := v.extractLsb' 0 32, aux1 := v.extractLsb' 32 32 }

/-- The rows of DECOMP, COMP and TRANSP (R180 to R182). -/
def blockTable : List StepRow :=
  let a := fun (f : Fields) => chanIx f.sa
  let b := fun (f : Fields) => chanIx f.sb
  let sc := fun (f : Fields) => (f.imm.extractLsb' 0 2).toNat
  let lvD := fun (f : Fields) => (f.imm.extractLsb' 2 3).toNat
  let ph := fun (x : Elem) => x.su.phase.toNat
  let is := fun (x : Elem) (k : Nat) (kd : BitVec 3) => (headOf x k).kind = kd
  let scales := fun (f : Fields) (x : Elem) =>
    putBits (auxOf x) (16 * ph x) 16 (((headOf x (b f)).lanes.get 0).toNat % 256 + 256 * (((headOf x (b f)).lanes.get 4).toNat % 256))
  let masks := fun (f : Fields) (x : Elem) => putBits (auxOf x) (8 * ph x) 8 (headOf x (a f)).vmask.toNat
  let rows := fun (f : Fields) (x : Elem) (r : Nat) => if r = ph x then (headOf x (a f)).lanes else blockRow x r
  [⟨.decomp, fun f _ => [a f], fun f => [outIx f, sc f], fun f x => ph x = 0 ∧ is x (a f) kData
        ∧ lineOk (octByte (headOf x (a f)).lanes 7) (octByte (headOf x (a f)).lanes 8) = true,
      fun f _ => [(a f, lvD f)], fun _ _ => [], false, fun f x => rowStored 0 (headOf x (a f)).lanes x.su, sameRegs, noFlag⟩,
   ⟨.decomp, fun f _ => [a f], fun f => [outIx f, sc f], fun f x => ph x = 0 ∧ ¬ is x (a f) kData, fun f _ => [(a f, lvD f)],
      fun f x => [(outIx f, headOf x (a f)), (sc f, headOf x (a f))], false, sameUnit, sameRegs, noFlag⟩,
   ⟨.decomp, fun f _ => [a f], fun f => [outIx f, sc f], fun f x => 1 ≤ ph x ∧ ph x ≤ 3 ∧ is x (a f) kData, fun f _ => [(a f, lvD f)],
      fun f x => let p := linePair (rows f x) (ph x - 1)
        [(outIx f, p.1), (sc f, p.2)], false, fun f x => rowStored (ph x) (headOf x (a f)).lanes x.su, sameRegs, noFlag⟩,
   ⟨.decomp, fun _ _ => [], fun f => [outIx f, sc f], fun _ x => ph x = 4, fun _ _ => [],
      fun f x => [(outIx f, (linePair (blockRow x) 3).1), (sc f, (linePair (blockRow x) 3).2)], false, fun _ x => inPhase 0 x.su, sameRegs, noFlag⟩,
   ⟨.comp, fun f _ => [a f, b f], fun f => [outIx f], fun f x => ph x ≤ 3 ∧ is x (a f) kData ∧ is x (b f) kData,
      fun f _ => [(a f, lvl0 f), (b f, lvl0 f)],
      fun f x => if ph x = 3 then [(outIx f, compTok (f.var.getLsbD 0) (rows f x) (scales f x) 0)] else [], false,
      fun f x => withAux (scales f x) (rowStored (ph x) (headOf x (a f)).lanes x.su), sameRegs, noFlag⟩,
   ⟨.comp, fun f _ => [a f, b f], fun f => [outIx f], fun f x => ph x = 0 ∧ ¬ is x (a f) kData ∧ sameMark (headOf x (a f)) (headOf x (b f)) = true,
      fun f _ => [(a f, lvl0 f), (b f, lvl0 f)], fun f x => [(outIx f, headOf x (a f))], false, sameUnit, sameRegs, noFlag⟩,
   ⟨.comp, fun _ _ => [], fun f => [outIx f], fun _ x => 4 ≤ ph x, fun _ _ => [],
      fun f x => [(outIx f, compTok (f.var.getLsbD 0) (blockRow x) (auxOf x) (ph x - 3))], false,
      fun _ x => inPhase (if 6 ≤ ph x then 0 else ph x + 1) x.su, sameRegs, noFlag⟩,
   ⟨.transp, fun f _ => [a f], fun f => [outIx f], fun f x => ph x ≤ 7 ∧ is x (a f) kData, fun f _ => [(a f, lvl0 f)],
      fun f x => if ph x = 7 then [(outIx f, columnTok f.efmt (rows f x) (masks f x) 0)] else [], false,
      fun f x => withAux (masks f x) (rowStored (ph x) (headOf x (a f)).lanes x.su), sameRegs, noFlag⟩,
   ⟨.transp, fun f _ => [a f], fun f => [outIx f], fun f x => ph x = 0 ∧ ¬ is x (a f) kData, fun f _ => [(a f, lvl0 f)],
      fun f x => [(outIx f, headOf x (a f))], false, sameUnit, sameRegs, noFlag⟩,
   ⟨.transp, fun _ _ => [], fun f => [outIx f], fun _ x => 8 ≤ ph x, fun _ _ => [],
      fun f x => [(outIx f, columnTok f.efmt (blockRow x) (auxOf x) (ph x - 7))], false,
      fun _ x => inPhase (if 14 ≤ ph x then 0 else ph x + 1) x.su, sameRegs, noFlag⟩]

/-- What each row of a table says of the instruction. -/
def RowsHold (rows : List StepRow) : Prop :=
  ∀ p ∈ rows, ∀ f s, StepReady p f s → p.applies f s.here → ((p.deq f s.here).map (·.1)).Nodup → ((p.out f s.here).map (·.1)).Nodup →
    ∃ y, exec (p.instr f) s = .next (s.fired y) ∧ Stepped p f s.here y

end Sys2Proof.Claims

/-- SCAN, REPT, REDS, STOPLV, ZIP and GCHK take the step that their tables give for their heads: what they dequeue and push, and what becomes of
the stream unit, of the register that REDS accumulates in, and of the flags (R163, R165, R169, R171, R172, R174 to R176). -/
def Obligations.FiberInstructionsTakeTheirSteps : Prop := RowsHold fiberTable

/-- CRDDROP drops the coordinates of empty fibers, STEER and FANOUT send each row where its key says and marks everywhere, and MRG forwards the data
heads nearest in sequence, one or with `.sum` their sum, and then its marks (R173, R400 to R403). The mark is that of the lowest enabled input,
and `.sum` of one head alone takes EFMT and level 0 too (log entries 32 and 33, the model's readings). -/
def Obligations.RoutingTakesItsSteps : Prop := RowsHold (dropTable ++ routeTable)

/-- DECOMP, COMP and TRANSP take the step of their phase: they store rows, push the line, the pairs or the columns, and forward marks between
blocks (R165, R180 to R182). -/
def Obligations.BlockInstructionsTakeTheirSteps : Prop := RowsHold blockTable

/-- INTSC, UNION and JOIN take the step that their table gives for the two heads. An unmatched pair of heads is no step: with a coordinate of a
beside a STOP of level 1 or more, or a DONE, of b they raise STREAM 0x04 on the channel that has no partner (R163, R170). -/
def Obligations.MergesTakeTheirSteps : Prop :=
  RowsHold mergeTable
  ∧ ∀ p ∈ [(Instr.intsc, (0x91 : Byte)), (.union, 0x92), (.join, 0x93)], ∀ f s,
    s.Ready f ⟨chansIn f.deq, mergeReads f, mergeOuts f⟩ →
    laneFault s s.here { f with sa := 30, sb := if 16 ≤ f.sb.toNat ∧ f.sb.toNat ≤ 19 then 30 else f.sb, sc := 30 } = none →
    headFault s.here (mergeReads f) = none → (headOf s.here 0).kind = kData →
    ((headOf s.here 2).kind = kDone ∨ (headOf s.here 2).kind = kStop ∧ (headOf s.here 2).lvl ≠ 0) →
    exec (p.1 f) s = .next (s.raise s.cur.reg s.cur.elem s.cur.slot p.2 (streamFault s.here 0x04 2))

/-- `gchk.arm` starts the tracker of the channel that IMM16[4:3] names, SELK puts a candidate into the list of each lane of E and keeps the best k,
SELO gives the best score and its index and removes them, and `selo.clr` empties the lists of E (R161, R176 to R178); it uses up a free value
where a predicate update asks which lanes are nonzero (log entry 25, the model's choice). -/
def Obligations.SelectionListsAndTrackers : Prop :=
  ∀ f s,
    (s.Ready f ⟨chansIn f.deq, [], []⟩ → laneFault s s.here f = none →
      ∃ y, exec (.gchkArm f) s = .next (s.fired y) ∧ y.tracker (f.imm.extractLsb' 3 2).toNat = Tracker.start
        ∧ y.regs = s.here.regs ∧ y.outq = s.here.outq)
    ∧ (OwnReady f s → ∃ y, exec (.selk f) s = .next (s.fired y) ∧ y.regs = s.here.regs ∧ y.outq = s.here.outq
        ∧ ∀ l, l < 8 → y.sel.get l =
          if (execLanes s.here f).getLsbD l then
            (insertScore (f.efmt == 1) (f.var.getLsbD 0) (srcLane s.here f f.sa l, srcLane s.here f f.sb l) (s.here.sel.get l)).take
              (f.imm.extractLsb' 0 7).toNat
          else s.here.sel.get l)
    ∧ (OwnReady f s → ∃ y, exec (.seloClr f) s = .next (usedRes f (s.fired y)) ∧ y.regs = s.here.regs ∧ y.outq = s.here.outq
        ∧ ∀ l, l < 8 → y.sel.get l = if (execLanes s.here f).getLsbD l then [] else s.here.sel.get l)
    ∧ ∀ a, outOf f.dst = some a →
      let b := (f.imm.extractLsb' 0 2).toNat
      a ≠ b → s.Ready f { Look.lane f with outs := [a, b] } → laneFault s s.here f = none →
      s.here.mayPush a kData = true → s.here.mayPush b kData = true →
      ∃ y ta tb, exec (.selo f) s = .next (s.fired y) ∧ y.outQ a = s.here.outQ a ++ [ta] ∧ y.outQ b = s.here.outQ b ++ [tb]
        ∧ ta.fmt = f.efmt ∧ tb.fmt = 0 ∧ ta.vmask = tb.vmask
        ∧ ∀ l, l < 8 → (ta.vmask.getLsbD l = ((execLanes s.here f).getLsbD l && !(s.here.sel.get l).isEmpty))
          ∧ ∀ v i r, ta.vmask.getLsbD l = true → s.here.sel.get l = (v, i) :: r →
            ta.lanes.get l = v ∧ tb.lanes.get l = i ∧ y.sel.get l = r
/- The floating-point and conversion instructions (R32 to R53, R95 to R116). -/

namespace Sys2Proof.Claims

/-- The magnitude of a finite value that is at most another, as fractions. -/
def leFrac (n d k e : Nat) : Prop := n * e ≤ k * d

/-- The distance of two fractions over the product of their denominators. -/
def gapFrac (n d k e : Nat) : Nat := ((n * e : Int) - k * d).natAbs

/-- A finite magnitude that rounds within the range of a format: at most its largest finite one (R32, R33, R36, R38). -/
def inRange (t : FFmt) (n d : Nat) : Prop :=
  match decodeF t (maxBits t false) with
  | .fin _ k e => leFrac n d k e
  | _ => False

/-- Whether the bits of a result are the even candidate of a tie (R37, R43). -/
def isEven (t : FFmt) (bits : Word) : Bool :=
  match t with
  | .rn8 => rankRn8 (bits &&& 0x7F).toNat % 2 == 0
  | _ => !bits.getLsbD 0

/-- Lane `l` of the result of a floating instruction (R95): the operation on the elements of the lane, from the least significant upward. -/
def floatLane (f : Fields) (op : (Word → Word → Word → Word → Word)) (x : Elem) (l : Nat) : Word :=
  let a := srcLane x f f.sa l
  let b := srcLane x f f.sb l
  let c := srcLane x f f.sc l
  let d := srcLane x f f.dst l
  let e8 := fun k => (op ((a.extractLsb' k 8).zeroExtend 32) ((b.extractLsb' k 8).zeroExtend 32) ((c.extractLsb' k 8).zeroExtend 32)
    ((d.extractLsb' k 8).zeroExtend 32)).extractLsb' 0 8
  let e16 := fun k => (op ((a.extractLsb' k 16).zeroExtend 32) ((b.extractLsb' k 16).zeroExtend 32)
    ((c.extractLsb' k 16).zeroExtend 32) ((d.extractLsb' k 16).zeroExtend 32)).extractLsb' 0 16
  match f.efmt.toNat with
  | 2 => e16 16 ++ e16 0
  | 3 => e8 24 ++ e8 16 ++ e8 8 ++ e8 0
  | _ => op a b c d

/-- The formats of the floating instructions: FP32, BF16 and Ralnum-8 (R95). -/
def IsFloat (f : Fields) : Prop := f.efmt = 1 ∨ f.efmt = 2 ∨ f.efmt = 3

/-- The exact results of R98, with the operands whose NaNs come first: a sum, a difference, a product, and the fused forms. -/
def arithTable : List ((Fields → Instr) × Nat × (RMode → FVal → FVal → FVal → FVal → Option FVal)) :=
  [(.fadd, 2, fun m a b _ _ => addE m a b),
   (.fsub, 2, fun m a b _ _ => addE m a b.negate),
   (.fmul, 2, fun _ a b _ _ => mulE a b),
   (.fma, 3, fun m a b c _ => (mulE a b).bind (addE m · c)),
   (.fnma, 3, fun m a b c _ => (mulE a b).bind (addE m c ·.negate)),
   (.fma3, 4, fun m a b c d => (triple a b c).bind (addE m · d))]

/-- Element-wise instructions on one or two operands, with the bits of their result (R100, R101, R105 to R107). -/
def elementTable : List ((Fields → Instr) × (FFmt → RMode → Bool → Word → Word → Word)) :=
  [(.fmin, fun t _ _ a b => (nanFirst t [decodeF t a, decodeF t b] ⟨if pickVal false (decodeF t a) (decodeF t b) then a else b, 0⟩).bits),
   (.fmax, fun t _ _ a b => (nanFirst t [decodeF t a, decodeF t b] ⟨if pickVal true (decodeF t a) (decodeF t b) then a else b, 0⟩).bits),
   (.fabs, fun t _ _ a _ => if t = .rn8 then (if a = 0x80 then a else a &&& 0x7F)
      else (nanFirst t [decodeF t a] ⟨a &&& ~~~signBit t true, 0⟩).bits),
   (.fneg, fun t _ _ a _ => if t = .rn8 then (if a = 0 ∨ a = 0x80 then a else a ^^^ 0x80)
      else (nanFirst t [decodeF t a] ⟨a ^^^ signBit t true, 0⟩).bits)]

/-- FRINT of an element (R105): the integer that the mode names, with the sign of the operand on a zero; an infinity stays. -/
def integralOf (t : FFmt) (m : RMode) (a : Word) : Rounded :=
  nanFirst t [decodeF t a] (match decodeF t a with
    | .fin s n d => ⟨(roundFin t .rne false s (roundToInt m s n d).natAbs 1).bits, if n % d = 0 then 0 else evNX⟩
    | _ => ⟨a, 0⟩)

/-- FEXPINS of two FP32 operands (R107), its cases in the order of the table. -/
def scaledByPower (m : RMode) (sat : Bool) (a b : Word) : Rounded :=
  nanFirst .fp32 [decodeFp32 a, decodeFp32 b] (match decodeFp32 a, decodeFp32 b with
    | y, .inf false => if y.isZero then ⟨defaultNaN, evNV⟩ else ⟨infBits .fp32 y.sign, 0⟩
    | .inf _, .inf true => ⟨defaultNaN, evNV⟩
    | y, .inf true => ⟨zeroBits .fp32 y.sign, 0⟩
    | .fin s k e, .fin t n d =>
      if n % d ≠ 0 then ⟨defaultNaN, evNV⟩
      else if k = 0 then ⟨a, 0⟩
      else if t then roundFin .fp32 m sat s k (e * 2 ^ (n / d))
      else roundFin .fp32 m sat s (k * 2 ^ (n / d)) e
    | _, .fin _ n d => if n % d ≠ 0 then ⟨defaultNaN, evNV⟩ else ⟨a, 0⟩
    | _, _ => ⟨defaultNaN, evNV⟩)

/-- That `e` is the exponent of n/d (R107): 2^e ≤ n/d < 2^(e+1). -/
def IsExponent (e : Int) (n d : Nat) : Prop :=
  d * 2 ^ e.toNat ≤ n * 2 ^ (-e).toNat ∧ n * 2 ^ (-e).toNat < 2 * (d * 2 ^ e.toNat)

/-- The sticky flags after a firing take the events `ev` of the lanes of `e` and of no other lane (R24). -/
def Raises (e : Byte) (ev : Nat → Byte) (x y : Elem) : Prop :=
  y.sflags = x.sflags ||| (lanesIn e).foldl (fun v l => v ||| ev l) 0

/-- The FP32 functions of R106 and R107 on a finite operand ±n/d that is no zero, whether they can overflow, and the exact value
that is rounded, or nothing outside their domain. -/
def functionTable : List ((Fields → Instr) × Bool × (Bool → Nat → Nat → Option FVal)) :=
  [(.frcp, true, fun s n d => some (.fin s d n)),
   (.frsq, false, fun s n d => if s then none else some (rsqrtVal n d)),
   (.fexpf, false, fun s n d => if d < n then none else some (exp2Val s n d)),
   (.flogf, false, fun s n d => if s ∨ 2 * n < d ∨ 2 * d < n then none else some (log2Val n d))]

end Sys2Proof.Claims

/-- RoundToFormat is right: a positive or negative magnitude within range rounds, toward zero, to the greatest magnitude of the format that does not
exceed it, away from zero to the least that is not below it, and, to nearest, to one than which no value of the format is nearer, on a tie to the
even or to the greater one, with the sign kept on a nonzero result; up and down go away from zero or toward it by the sign (R42, R43, R44). -/
def Obligations.RoundingGivesTheNeighbour : Prop :=
  ∀ (t : FFmt) (sat neg : Bool) (n d : Nat), 0 < n → 0 < d → inRange t n d →
    (∀ m, m = .rtz ∨ m = .rup ∧ neg = true ∨ m = .rdn ∧ neg = false →
      ∃ s k e, decodeF t (roundFin t m sat neg n d).bits = .fin s k e ∧ leFrac k e n d ∧ (k ≠ 0 → s = neg)
        ∧ ∀ w s' k' e', decodeF t w = .fin s' k' e' → leFrac k' e' n d → leFrac k' e' k e)
    ∧ (∀ m, m = .rup ∧ neg = false ∨ m = .rdn ∧ neg = true →
      ∃ k e, decodeF t (roundFin t m sat neg n d).bits = .fin neg k e ∧ leFrac n d k e
        ∧ ∀ w s' k' e', decodeF t w = .fin s' k' e' → leFrac n d k' e' → leFrac k e k' e')
    ∧ ∀ m, m = .rne ∨ m = .rna →
      ∃ s k e, decodeF t (roundFin t m sat neg n d).bits = .fin s k e ∧ (k ≠ 0 → s = neg)
        ∧ (∀ w s' k' e', decodeF t w = .fin s' k' e' → gapFrac n d k e * e' ≤ gapFrac n d k' e' * e)
        ∧ ∀ w s' k' e', decodeF t w = .fin s' k' e' → gapFrac n d k e * e' = gapFrac n d k' e' * e → k * e' ≠ k' * e →
            if m = .rne then isEven t (roundFin t m sat neg n d).bits = true else leFrac k' e' k e

/-- FADD, FSUB, FMUL, FMA, FNMA and FMA3 give, in every element of the lanes of E and in each of FP32, BF16 and Ralnum-8, the NaN that their
operands propagate, or the exact result rounded once (R34, R95, R98, R99). -/
def Obligations.FloatingResultsRoundOnce : Prop :=
  ∀ p ∈ arithTable, ∀ f s, LaneReady f s → IsFloat f →
    let t := floatFmt f.efmt
    let v := decodeF t
    let op := fun a b c d : Word => (nanFirst t (([a, b, c, d].take p.2.1).map v)
      (roundOpt t (resolveMode s.here f.rnd) (satFloat s.here f) (p.2.2 (resolveMode s.here f.rnd) (v a) (v b) (v c) (v d)))).bits
    ∃ y, exec (p.1 f) s = .next (s.fired y) ∧ Lands f f.efmt (execLanes s.here f) (floatLane f op s.here) s.here y

/-- FMIN and FMAX give one operand unchanged, FABS and FNEG clear and invert the sign, the functions of R106 round their exact value once
or are invalid outside their domain, FEXPINS scales by a power of two, and FEXPEXT and FMANT give the exponent and the significand of their operand
(R100, R101, R106, R107). -/
def Obligations.FloatingElementFunctions : Prop :=
  (∀ p ∈ elementTable, ∀ f s, LaneReady f s → IsFloat f →
    ∃ y, exec (p.1 f) s = .next (s.fired y) ∧ Lands f f.efmt (execLanes s.here f)
      (floatLane f (fun a b _ _ => p.2 (floatFmt f.efmt) (resolveMode s.here f.rnd) (satFloat s.here f) a b) s.here) s.here y)
  ∧ (∀ p ∈ functionTable, ∀ f s, LaneReady f s → f.efmt = 1 →
    ∃ y val, exec (p.1 f) s = .next (s.fired y) ∧ Lands f 1 (execLanes s.here f) val s.here y
      ∧ ∀ l g n d, decodeFp32 (srcLane s.here f f.sa l) = .fin g n d → n ≠ 0 →
        val l = match p.2.2 g n d with
          | some v => (roundArith .fp32 (resolveMode s.here f.rnd) (p.2.1 && satFloat s.here f) v).bits
          | none => defaultNaN)
  ∧ ∀ f s, LaneReady f s →
    let x := s.here
    let e := execLanes x f
    let m := resolveMode x f.rnd
    let a := srcLane x f f.sa
    (f.efmt = 1 → ∃ y, exec (.fexpins f) s = .next (s.fired y)
      ∧ Lands f 1 e (fun l => (scaledByPower m (satFloat x f) (a l) (srcLane x f f.sb l)).bits) x y
      ∧ Raises e (fun l => (scaledByPower m (satFloat x f) (a l) (srcLane x f f.sb l)).ev) x y)
    ∧ (f.efmt = 1 → ∃ y z exps mants, exec (.fexpext f) s = .next (s.fired y) ∧ Lands f 0 e exps x y
      ∧ exec (.fmant f) s = .next (s.fired z) ∧ Lands f 1 e mants x z
      ∧ Raises e (fun l => match decodeFp32 (a l) with | .fin _ (_ + 1) _ => 0 | _ => evNV) x y
      ∧ Raises e (fun l => if isSigBits (a l) then evNV else 0) x z
      ∧ ∀ l, match decodeFp32 (a l) with
        | .fin g (n + 1) d => ∃ (p : Int) (k q : Nat), IsExponent p (n + 1) d ∧ exps l = BitVec.ofInt 32 p
            ∧ decodeFp32 (mants l) = .fin g k q ∧ (n + 1) * 2 ^ (-p).toNat * q = k * (d * 2 ^ p.toNat)
        | .nan b => exps l = 0x80000000 ∧ mants l = quietBits b
        | _ => exps l = 0x80000000 ∧ mants l = a l)

/-- A signalling NaN in a lane of source a makes FADD, FSUB, FMUL, FMA, FMIN and FMAX of FP32 give that NaN made quiet, and sets NV (R24, R34,
R98, R100). -/
def Obligations.SignallingNaNsAreQuieted : Prop :=
  ∀ mk ∈ [Instr.fadd, .fsub, .fmul, .fma, .fnma, .fma3, .fmin, .fmax], ∀ f s l k, LaneReady f s → f.efmt = 1 → l < 8 →
    (execLanes s.here f).getLsbD l = true → isSigBits (srcLane s.here f f.sa l) = true → regOf f.dst = some k →
    ∃ y, exec (mk f) s = .next (s.fired y) ∧ (y.reg k).get l = srcLane s.here f f.sa l ||| 0x00400000 ∧ y.sflags.getLsbD 0 = true

namespace Sys2Proof.Claims

/-- Element `k` of `w` bits of a lane. -/
def part (w : Nat) (v : Word) (k : Nat) : Word := (v >>> (w * k)) &&& BitVec.ofNat 32 (2 ^ w - 1)

/-- Elements of `w` bits from the least significant upward. -/
def packed (w : Nat) (rs : List Rounded) : Word := rs.foldr (fun r v => v <<< w ||| (r.bits &&& BitVec.ofNat 32 (2 ^ w - 1))) 0

/-- Bit i set where element i overflowed (R115). -/
def overflows (rs : List Rounded) : Word := rs.foldr (fun r v => v <<< 1 ||| (if r.ev.getLsbD 2 then 1 else 0)) 0

/-- The events of several roundings. -/
def raised (rs : List Rounded) : Byte := rs.foldl (fun e r => e ||| r.ev) 0

/-- A firing that gives the elements `g l k` of `w` bits in the lanes of E, and the sticky flags their events (R24, R95). -/
def Gives (f : Fields) (fmt : BitVec 3) (w : Nat) (g : Nat → Nat → Rounded) (x y : Elem) : Prop :=
  let r := fun l => (List.range (32 / w)).map (g l)
  Lands f fmt (execLanes x f) (fun l => packed w (r l)) x y ∧ Raises (execLanes x f) (fun l => raised (r l)) x y

/-- The width of the elements of a format code (R9). -/
def bitsOf (fmt : Nat) : Nat := [32, 32, 16, 8, 4, 8, 16, 32].getD fmt 32

/-- An integer element, read unsigned under `.u` and for COORD (R105, R110). -/
def intOf (f : Fields) (fmt : Nat) (v : Word) : Int :=
  if f.uns = 1 ∨ fmt = 7 then v.toNat else (BitVec.ofNat (bitsOf fmt) v.toNat).toInt

/-- The exact value of an element of a format (R32, R33, R36, R105). -/
def valueOf (f : Fields) (fmt : Nat) (v : Word) : FVal :=
  match fmt with
  | 1 => decodeFp32 v
  | 2 => decodeF .bf16 v
  | 3 => decodeRn8 v
  | _ => FVal.ofInt (intOf f fmt v)

/-- An exact value as an element of a format, by RoundToFormat and the table of R45. -/
def elementOf (f : Fields) (x : Elem) (fmt : Nat) (v : FVal) : Rounded :=
  let m := resolveMode x f.rnd
  match fmt with
  | 1 => roundConv .fp32 m (satFloat x f) v
  | 2 => roundConv .bf16 m (satFloat x f) v
  | 3 => roundConv .rn8 m (satFloat x f) v
  | _ => convToInt (bitsOf fmt) (f.uns == 1 || fmt == 7) m (satInt x f) v

/-- The pairs of formats of CVT (R110). -/
def convertPairs : List (Nat × Nat) := [(0, 1), (7, 1), (1, 0), (1, 7), (6, 2), (2, 6), (5, 3), (3, 5)]
/-- The pairs of formats of PACK (R111). -/
def packPairs : List (Nat × Nat) := [(1, 2), (1, 3), (2, 3), (0, 6), (0, 5), (6, 5)]
/-- The pairs of formats of UNPK (R112). -/
def unpackPairs : List (Nat × Nat) := [(2, 1), (3, 1), (3, 2), (4, 1), (4, 2), (6, 0), (5, 0), (5, 6)]

/-- An element that PACK narrows (R111): integers by Fit of R73 (log entry 145), floating values by RoundToFormat. -/
def narrowed (f : Fields) (x : Elem) (src tgt : Nat) (v : Word) : Rounded :=
  if src = 0 ∨ src = 6 then
    let r := fit (intOf f src v) (bitsOf tgt) (satInt x f) (f.uns == 1)
    ⟨BitVec.ofNat 32 r.1, r.2⟩
  else elementOf f x tgt (valueOf f src v)

/-- Element `k` of a lane that PACK writes (R111): a's elements and then b's in the part that IMM16 names, or in the whole lane; the rest as it was. -/
def packElem (f : Fields) (x : Elem) (src tgt : Nat) (l k : Nat) : Rounded :=
  let n := 32 / bitsOf src
  let base := if bitsOf src = 4 * bitsOf tgt then 2 * n * (f.imm.extractLsb' 0 1).toNat else 0
  if k < base ∨ base + 2 * n ≤ k then ⟨part (bitsOf tgt) (srcLane x f f.dst l) k, 0⟩
  else if k < base + n then narrowed f x src tgt (part (bitsOf src) (srcLane x f f.sa l) (k - base))
  else narrowed f x src tgt (part (bitsOf src) (srcLane x f f.sb l) (k - base - n))

/-- Element `k` of a lane that UNPK writes (R112): the element of a that the part names, F4 elements times the scale in b, in the wider format. -/
def unpackElem (f : Fields) (x : Elem) (src tgt : Nat) (l k : Nat) : Rounded :=
  let v := part (bitsOf src) (srcLane x f f.sa l) (32 / bitsOf tgt * (f.imm.extractLsb' 0 3).toNat + k)
  if src = 5 ∨ src = 6 then ⟨wordOfInt (bitsOf tgt) (intOf f src v), 0⟩
  else roundConv (floatFmt (BitVec.ofNat 3 tgt)) .rne (satFloat x f) (if src = 4 then decodeF4 v (srcLane x f f.sb l) else valueOf f src v)

/-- Whether a comparison of two elements sets NV (R102): `.eq`, `.ne`, `.un` and `.ord` for a signalling NaN, the others for any NaN but not for NaR. -/
def compareEvent (cc : BitVec 4) (a b : FVal) : Byte :=
  let nan := fun v : FVal => v.isNaN && v != .nar
  if (if cc = 0 ∨ cc = 1 ∨ cc = 10 ∨ cc = 11 then a.isSig || b.isSig else nan a || nan b) then evNV else 0

/-- A comparison writes 1 or 0 per element, raises its events, and its outcome is that of every element of the lane, or with `.anyel` of one (R102). -/
def Judges (f : Fields) (hit : Nat → Nat → Bool) (ev : Nat → Nat → Byte) (x y : Elem) : Prop :=
  let w := bitsOf f.efmt.toNat
  Gives f (cmpFmt f.efmt) w (fun l k => ⟨if hit l k then 1 else 0, ev l k⟩) x y
    ∧ Compares f (execLanes x f) (fun l =>
        if f.var.getLsbD 0 then (List.range (32 / w)).any (hit l) else (List.range (32 / w)).all (hit l)) y

end Sys2Proof.Claims

/-- FRINT, FTOI, ITOF and CVT convert each element once in every format or pair of formats, PACK narrows two sources into one destination and UNPK widens a part of
one; the dot products add exact products to the destination's old lane and round once; FCMP and FCLASS write 1 or 0 per element with their outcome;
each with the events it raises; and GSCALE gives every lane of E the scale of the group. The integer elements of PACK follow Fit, log entry 145
(R24, R45, R95, R102 to R105, R110 to R113). -/
def Obligations.ConversionsAndDotProducts : Prop :=
  ∀ f s, LaneReady f s →
    let x := s.here
    let e := execLanes x f
    let m := resolveMode x f.rnd
    let a := srcLane x f f.sa
    let t := floatFmt f.efmt
    let w := bitsOf f.efmt.toNat
    let byte := fun w : Word => fun k => (w.extractLsb' (8 * k) 8).zeroExtend 32
    let half := fun w : Word => fun k => (w.extractLsb' (16 * k) 16).zeroExtend 32
    let v := fun w : Word => (decodeF t w).narAsNaN
    let dot := fun (xs : List FVal) (ps : List (Option FVal)) (d : FVal) =>
      nanFirst .fp32 (xs ++ [d]) (roundOpt .fp32 m (satFloat x f) (sumE m (ps ++ [some d])))
    (f.efmt = 1 ∨ f.efmt = 2 → ∃ y, exec (.frint f) s = .next (s.fired y)
      ∧ Gives f f.efmt w (fun l k => integralOf t m (part w (a l) k)) x y)
    ∧ (∀ p ∈ [(1, 0), (2, 6)], f.efmt.toNat = p.1 → ∃ y, exec (.ftoi f) s = .next (s.fired y)
      ∧ Gives f (BitVec.ofNat 3 p.2) w (fun l k => elementOf f x p.2 (valueOf f p.1 (part w (a l) k))) x y)
    ∧ (∀ p ∈ [(0, 1), (6, 2)], f.efmt.toNat = p.1 → ∃ y, exec (.itof f) s = .next (s.fired y)
      ∧ Gives f (BitVec.ofNat 3 p.2) w (fun l k => elementOf f x p.2 (valueOf f p.1 (part w (a l) k))) x y)
    ∧ (∀ p ∈ convertPairs, f.efmt.toNat = p.1 → f.var.toNat = p.2 → ∃ y, exec (.cvt f) s = .next (s.fired y)
      ∧ Gives f f.var w (fun l k => elementOf f x p.2 (valueOf f p.1 (part w (a l) k))) x y)
    ∧ (∀ p ∈ packPairs, f.efmt.toNat = p.1 → f.var.toNat = p.2 → ∃ y, exec (.pack f) s = .next (s.fired y)
      ∧ Gives f f.var (bitsOf p.2) (packElem f x p.1 p.2) x y)
    ∧ (∀ p ∈ unpackPairs, f.efmt.toNat = p.1 → f.var.toNat = p.2 → ∃ y, exec (.unpk f) s = .next (s.fired y)
      ∧ Gives f f.var (bitsOf p.2) (unpackElem f x p.1 p.2) x y)
    ∧ (f.efmt = 3 → ∃ y, exec (.fdot4 f) s = .next (s.fired y) ∧ Gives f 1 32 (fun l _ =>
        let b := srcLane x f f.sb l
        let p := fun k => mulE (v (byte (a l) k)) (v (byte b k))
        dot [v (byte (a l) 0), v (byte (a l) 1), v (byte (a l) 2), v (byte (a l) 3), v (byte b 0), v (byte b 1), v (byte b 2), v (byte b 3)]
          [p 0, p 1, p 2, p 3] (decodeFp32 (srcLane x f f.dst l))) x y)
    ∧ (f.efmt = 2 → ∃ y, exec (.fdot2 f) s = .next (s.fired y) ∧ Gives f 1 32 (fun l _ =>
        let b := srcLane x f f.sb l
        dot [v (half (a l) 0), v (half (a l) 1), v (half b 0), v (half b 1)]
          [mulE (v (half (a l) 0)) (v (half b 0)), mulE (v (half (a l) 1)) (v (half b 1))] (decodeFp32 (srcLane x f f.dst l))) x y)
    ∧ (f.efmt = 2 → ∃ y, exec (.ftri f) s = .next (s.fired y) ∧ Gives f 1 32 (fun l _ =>
        let b := srcLane x f f.sb l
        let c := srcLane x f f.sc l
        dot [v (half (a l) 0), v (half (a l) 1), v (half b 0), v (half b 1), v (half c 0), v (half c 1)]
          [triple (v (half (a l) 0)) (v (half b 0)) (v (half c 0)), triple (v (half (a l) 1)) (v (half b 1)) (v (half c 1))]
          (decodeFp32 (srcLane x f f.dst l))) x y)
    ∧ (IsFloat f → ∃ y, exec (.fcmp f) s = .next (s.fired y)
      ∧ let l2 := fun l k => decodeF t (part w (a l) k)
        let r2 := fun l k => decodeF t (part w (srcLane x f f.sb l) k)
        Judges f (fun l k => floatCond f.cc.toNat (l2 l k) (r2 l k)) (fun l k => compareEvent f.cc (l2 l k) (r2 l k)) x y)
    ∧ (IsFloat f → ∃ y, exec (.fclass f) s = .next (s.fired y)
      ∧ Judges f (fun l k => f.imm.getLsbD (classOf t (part w (a l) k))) (fun _ _ => 0) x y)
    ∧ ∃ y, exec (.gscale f) s = .next (s.fired y)
      ∧ Lands f 3 e (fun _ => (groupScale ((lanesIn e).map fun l => decodeFp32 (a l))).1) x y
      ∧ (e ≠ 0 → Raises 1 (fun _ => (groupScale ((lanesIn e).map fun l => decodeFp32 (a l))).2) x y)

namespace Sys2Proof.Claims

/-- The F4 code of lane `i` of source a over the scale in the low byte of lane `p` of source b, with its events (R45, R114): the quotient rounded once;
for an infinity code 7 of its sign with OF, SAT and NX; for a NaN, and under a scale of zero or NaR, +0 with NV. -/
def scaledCode (f : Fields) (x : Elem) (p i : Nat) : Rounded :=
  match decodeRn8 (srcLane x f f.sb p &&& 0xFF), decodeFp32 (srcLane x f f.sa i) with
  | .fin st (n + 1) d, .fin t k e => roundFin .f4 (resolveMode x f.rnd) true (t != st) (k * d) (e * (n + 1))
  | .fin st (_ + 1) _, .inf t => ⟨if t = st then 0x7 else 0xF, 0x34⟩
  | _, _ => ⟨0, 0x01⟩

/-- The eight codes of a firing: +0 without an event outside E (R24, R114; log entry 26). -/
def scaledCodes (f : Fields) (x : Elem) (p : Nat) : List Rounded :=
  (List.range 8).map fun i => if (execLanes x f).getLsbD i then scaledCode f x p i else ⟨0, 0⟩

/-- The elements that forms 2 and 3 of CVTOV make of a lane, a's before b's (R111, R115). -/
def convertedParts (f : Fields) (x : Elem) (l : Nat) : List Rounded :=
  let m := resolveMode x f.rnd
  let a := srcLane x f f.sa l
  let b := srcLane x f f.sb l
  if f.var = 2 then [a, b].map fun w => roundConv .bf16 m true (decodeFp32 w)
  else [a.extractLsb' 0 16, a.extractLsb' 16 16, b.extractLsb' 0 16, b.extractLsb' 16 16].map fun h =>
    roundConv .rn8 m true (decodeF .bf16 (h.zeroExtend 32))

/-- A firing that packs codes into lane `p` of register `k` (R114): that lane takes them, in E or not, and every other lane and register keeps its
value; the flags take the events of the codes and `more`; the channels of DEQ lose their heads. -/
def PacksCodes (f : Fields) (p k : Nat) (more : Byte) (x y : Elem) : Prop :=
  (y.reg k).get p = packed 4 (scaledCodes f x p) ∧ (∀ l, l < 8 → l ≠ p → (y.reg k).get l = (x.reg k).get l) ∧ (∀ j, j ≠ k → y.reg j = x.reg j)
    ∧ y.sflags = x.sflags ||| raised (scaledCodes f x p) ||| more ∧ Dequeues f x y ∧ (f.pue = 0 → y.preds = x.preds) ∧ y.conf = x.conf

/-- Whether Ob is given to CVTOV (R115). -/
def ovfEn (f : Fields) : Bool := f.imm.getLsbD 2
/-- The notice output of CVTOV (R115). -/
def noticeOut (f : Fields) : Nat := (f.imm.extractLsb' 0 2).toNat

/-- What CVTOV does beside its result (R115): with an overflow and Ob given, a notice of kind OVF in I32 of level 0 behind the tokens of Ob, that
counter incremented; every output but that and the destination stays as it was. -/
def Notices (f : Fields) (seq : BitVec 12) (ovr : Nat → Word) (x y : Elem) : Prop :=
  ((∃ l, l < 8 ∧ ovr l ≠ 0) → ovfEn f = true →
      y.outQ (noticeOut f) = x.outQ (noticeOut f) ++ [⟨seq, maskOf fun l => ovr l != 0, 0, kOvf, 0, Oct.ofFn ovr⟩]
        ∧ y.seqOut (noticeOut f) = x.seqOut (noticeOut f) + 1)
    ∧ ∀ c, outOf f.dst ≠ some c → (c = noticeOut f → ovfEn f = true → ∀ l, l < 8 → ovr l = 0) → y.outQ c = x.outQ c ∧ y.seqOut c = x.seqOut c

/-- The flag of a dropped notice: OVFD where an overflow finds no Ob (R24, R115). -/
def dropped (f : Fields) (ovr : Nat → Word) : Byte := if !ovfEn f && (List.range 8).any (fun l => ovr l != 0) then 0x80 else 0

/-- What a slot of CVTOV looks at: with Ob given, that output too (R18, R115). -/
def noticeLook (f : Fields) : Look := { Look.lane f with outs := (outOf f.dst).toList ++ (if ovfEn f then [noticeOut f] else []) }

end Sys2Proof.Claims

/-- QSCALE and CVTOV with an F4 target write to one lane of their destination register the eight codes of the quotients of source a by the scale
in that lane of b, specials and zero scales included, with a zero code for each lane outside E, and to no other lane. The other forms of CVTOV
convert and pack, always saturating, in the lanes of E. CVTOV pushes a notice of the elements that overflowed, with the seq of its main token where
it has one, or drops it and sets OVFD, and without an overflow does neither; lanes outside E raise no event (log entry 26), and which of the lanes
that no code names count as nonzero is open (log entry 25) (R24, R38, R45, R111, R114, R115). -/
def Obligations.ScaledCodesGoToOneLane : Prop :=
  (∀ f s k, regOf f.dst = some k → s.Ready f (Look.lane f) → laneFault s s.here f = none →
    ∃ y, exec (.qscale f) s = .next (usedRes f (s.fired y)) ∧ PacksCodes f (f.imm.extractLsb' 0 3).toNat k 0 s.here y
      ∧ y.outq = s.here.outq ∧ y.seqo = s.here.seqo)
  ∧ (∀ f s k, f.var = 4 → regOf f.dst = some k → s.Ready f (noticeLook f) → laneFault s s.here f = none →
    let p := (f.imm.extractLsb' 3 3).toNat
    let ovr := fun l => if l = p then overflows (scaledCodes f s.here p) else 0
    ∃ y, exec (.cvtov f) s = .next (usedRes f (s.fired y)) ∧ PacksCodes f p k (dropped f ovr) s.here y
      ∧ Notices f (seqFor s.here f (noticeOut f)) ovr s.here y)
  ∧ ∀ f s, f.var = 2 ∧ f.efmt = 1 ∨ f.var = 3 ∧ f.efmt = 2 → s.Ready f (noticeLook f) → owesCredit s.here f = false →
    laneFault s s.here f = none → (ovfEn f = true → outOf f.dst ≠ some (noticeOut f)) →
    let e := execLanes s.here f
    let ovr := fun l => if e.getLsbD l then overflows (convertedParts f s.here l) else 0
    ∃ y, exec (.cvtov f) s = .next (s.fired y)
      ∧ Lands f f.var e (fun l => packed (if f.var = 2 then 16 else 8) (convertedParts f s.here l)) s.here y
      ∧ Notices f (seqFor s.here f ((outOf f.dst).getD (noticeOut f))) ovr s.here y
      ∧ y.sflags = s.here.sflags ||| ((lanesIn e).foldl (fun v l => v ||| raised (convertedParts f s.here l)) 0) ||| dropped f ovr
      ∧ (∀ j, regOf f.dst ≠ some j → y.reg j = s.here.reg j) ∧ Dequeues f s.here y ∧ y.conf = s.here.conf
/- Matrix mode (R183 to R211). -/

namespace Sys2Proof.Claims

/-- What a firing of the lead that the array performs needs: the slot ready and no POISON in the way (R14, R17). -/
def LeadReady (f : Fields) (s : State) : Prop :=
  s.Ready f (Look.lane f) ∧ poisonAt s.here (srcChans f ++ chansIn f.deq) = none

/-- The region in hand. -/
def hereRegion (s : State) : Region := s.region s.cur.reg

/-- A region in matrix mode with an idle array (R184). -/
def ArrayIdle (s : State) : Prop := (hereRegion s).mode ≠ 0 ∧ (hereRegion s).arr.op = 0

/-- A firing without a result (R21): the DEQ channels lose their heads; registers, outputs and configuration stay. -/
def Plain (f : Fields) (x y : Elem) : Prop := Dequeues f x y ∧ y.regs = x.regs ∧ y.outq = x.outq ∧ y.conf = x.conf ∧ y.sflags = x.sflags

/-- The instruction fires without a result and then changes the region in hand by `g` and nothing else. -/
def FiresOn (i : Instr) (f : Fields) (s : State) (g : Region → Region) : Prop :=
  ∃ y, exec i s = .next ((s.fired y).onRegion s.cur.reg g) ∧ Plain f s.here y

/-- The instruction fires without a result and changes nothing else. -/
def FiresPlain (i : Instr) (f : Fields) (s : State) : Prop := ∃ y, exec i s = .next (s.fired y) ∧ Plain f s.here y

/-- The eight words that a TCON captures from C24 to C31 of the lead (R190, R209). -/
def leadWords (s : State) : List Word := (List.range 8).map fun k => s.here.const (24 + k)

/-- The feeds of a step or a half (R195): X row, its scales, T row, its scales. -/
structure StepFeeds where
  x  : List Feed
  xs : List Feed
  t  : List Feed
  ts : List Feed

/-- The feeds from X token `c` on, of `n` X tokens and `w` T tokens, with scale tokens in F4 (R195, R196). -/
def stepFeeds (efmt : BitVec 3) (d : Desc) (c n w : Nat) : StepFeeds :=
  ⟨westFeeds c n 0 false, if efmt = 4 then westFeeds c n 2 true else [], if d.tbank then [] else northFeeds w 1 false,
    if !d.tbank && efmt == 4 then northFeeds w 3 true else []⟩

/-- Every feed of a step. -/
def StepFeeds.all (f : StepFeeds) : List Feed := f.x ++ f.xs ++ f.t ++ f.ts

/-- The rows at the heads of the feeds. -/
def StepFeeds.rows (f : StepFeeds) (g : Region) : Rows :=
  ⟨f.x.filterMap (·.head g), f.xs.filterMap (·.head g), f.t.filterMap (·.head g), f.ts.filterMap (·.head g)⟩

/-- The words that a step with these rows queues for 24 cycles after the cycle `cyc` (R193, R196): the chain of R50 from the word that the file
holds, for each column of the descriptor. -/
def stepWords (cyc : Nat) (g : Region) (w : Rows) : StepWrite :=
  let d : Desc := ⟨g.arr.desc, g.arr.imm.toNat % 512⟩
  let first := d.base * 256 + g.arr.prog * d.size 2
  let out := (List.range (d.size 2)).map fun n => stepWord g.arr d g.arr.efmt.toNat w n (g.acc (first + n))
  ⟨cyc + 24, first, out.map (·.bits), out.foldl (fun e r => e ||| r.ev) 0⟩

end Sys2Proof.Claims

/-- MMODE enters and leaves matrix mode with every quarter loaded and the queue empty, and changes nothing where the mode stands already; WLOAD
and ACCRD begin with what their slot asks for, and WROW arms its quarter and clears its LQ bit (R187, R188, R203, R204, R205, R207). -/
def Obligations.MatrixModeInstructions : Prop :=
  ∀ f s, LeadReady f s →
    ((hereRegion s).mode = 0 → FiresOn (.mmodeOn f) f s (fun g => { g with mode := 1, arr := { MArray.idle with thr := g.arr.thr } })
      ∧ FiresPlain (.mmodeOff f) f s)
    ∧ (ArrayIdle s → FiresPlain (.mmodeOn f) f s
      ∧ ((hereRegion s).arr.armed = [] → FiresOn (.mmodeOff f) f s (fun g => { g with mode := 0, arr := MArray.idle }))
      ∧ FiresOn (.wload f) f s (fun g => { g with arr := { g.arr with
          op := 1, opc := 0xB1, efmt := f.efmt, var0 := false, imm := f.imm, prog := 0, dur := s.cyc + 1, fib := false, half := none,
          cnt := [] } })
      ∧ (f.imm.extractLsb' 0 2 ∉ (hereRegion s).arr.armed → FiresOn (.wrow f) f s (fun g => { g with arr := { g.arr with
          armed := g.arr.armed ++ [f.imm.extractLsb' 0 2], lq := g.arr.lq &&& ~~~(1#4 <<< (f.imm.extractLsb' 0 2).toNat) } }))
      ∧ FiresOn (.accrd f) f s (fun g => { g with arr := { g.arr with
          op := 3, opc := 0xB4, efmt := 0, var0 := f.var.getLsbD 0, imm := f.imm, prog := 0, dur := s.cyc + 1, fib := false, half := none,
          cnt := [], done := f.var.getLsbD 1 } }))

/-- ACCZ writes +0 to every word of its tiles and to no other word of the accumulator file; IDXSET writes its constant whole from source a in the
lowest lane of E, or one half of it from IMM16, leaves it where E is empty, and leaves every other field of the configuration. A TCON of each
shape captures the descriptor, M and the format and begins the contraction when the descriptor is legal and its block lies in the accumulator
file, and otherwise raises OPND 0x11 or 0x12; in stream mode it and the other matrix instructions raise OPND 0x13 (R185, R186, R191, R202, R206,
R208, R209). -/
def Obligations.TilesIndicesAndContractions : Prop :=
  (∀ f s, LeadReady f s → ArrayIdle s →
    ∃ u, exec (.accz f) s = .next u ∧ (∀ w, w < 4096 →
        (u.region s.cur.reg).acc w =
          if (f.imm.extractLsb' 0 4).toNat ≤ w / 256 ∧ w / 256 ≤ (f.imm.extractLsb' 0 4).toNat + (f.imm.extractLsb' 4 4).toNat then 0
          else (s.region s.cur.reg).acc w)
      ∧ (∀ r, r ≠ s.cur.reg → u.region r = s.region r) ∧ u.mem = s.mem ∧ (u.region s.cur.reg).arr = (s.region s.cur.reg).arr)
  ∧ (∀ f s, LeadReady f s → 56 ≤ f.dst.toNat →
    let k := f.dst.toNat - 32
    ∃ y, exec (.idxset f) s = .next (s.fired y)
      ∧ y.const k = (if f.var = 1 then (s.here.const k).extractLsb' 16 16 ++ f.imm
          else if f.var = 2 then f.imm ++ (s.here.const k).extractLsb' 0 16
          else match lowestLane (execLanes s.here f) with
            | some l => srcLane s.here f f.sa l
            | none => s.here.const k)
      ∧ (∀ j, j ≠ 176 + 2 * k → j ≠ 177 + 2 * k → y.field j = s.here.field j)
      ∧ Dequeues f s.here y ∧ y.regs = s.here.regs ∧ y.outq = s.here.outq ∧ y.sflags = s.here.sflags)
  ∧ ∀ p ∈ matrixOps, ∀ f s, LeadReady f s →
    let d : Desc := ⟨leadWords s, (f.imm.extractLsb' 0 9).toNat⟩
    ((hereRegion s).mode = 0 →
      exec (p.1 f) s = .next (s.raise s.cur.reg s.cur.elem s.cur.slot p.2 (FaultRec.of 0x02 0x13)))
    ∧ (0xB8 ≤ p.2.toNat → ArrayIdle s → (hereRegion s).arr.lq = 0xF →
      (d.bad p.2.toNat f.efmt.toNat = true →
        exec (p.1 f) s = .next (s.raise s.cur.reg s.cur.elem s.cur.slot p.2 (FaultRec.of 0x02 0x11)))
      ∧ (d.bad p.2.toNat f.efmt.toNat = false → d.base * 256 + d.size 4 * d.m * d.size 2 > 4096 →
        exec (p.1 f) s = .next (s.raise s.cur.reg s.cur.elem s.cur.slot p.2 (FaultRec.of 0x02 0x12)))
      ∧ (d.bad p.2.toNat f.efmt.toNat = false → d.base * 256 + d.size 4 * d.m * d.size 2 ≤ 4096 →
        FiresOn (p.1 f) f s (fun g => { g with arr := { g.arr with
          op := 2, opc := p.2, efmt := f.efmt, var0 := f.var.getLsbD 0, imm := f.imm, desc := leadWords s, prog := 0, dur := s.cyc + 1,
          fib := false, half := none, cnt := [] } })))

/-- The events of the array: a step takes its rows, in K256N8 in two halves, computes its words from them and the accumulator file, queues them for
24 cycles later and waits its duration; the words of the oldest due step land in the accumulator file; a WLOAD group lands whole in the storage and, in
F4, in the scale store; and each south O3 with room takes its next token of a drain, which `.z` then clears, and with `.done` a DONE after the last,
of which log entry 22 says what is open (R187, R192 to R196, R204, R207). -/
def Obligations.ArrayEvents : Prop :=
  ∀ (r : Nat) (s : State),
    let g := s.region r
    let a := g.arr
    let d : Desc := ⟨a.desc, a.imm.toNat % 512⟩
    let f4 := a.efmt == 4
    (∀ w, a.op = 2 → s.arrayRuns r = true → a.dur ≤ s.cyc → a.prog < a.steps → a.half = none → g.holdsSteps s.cyc = false → (shapeOf a.opc.toNat).2.2.1 = w → w ≠ 16 →
      let fs := stepFeeds a.efmt d 0 w w
      (∀ q ∈ fs.all, ∃ t, q.head g = some t ∧ feedFault a.efmt q t = none) →
      ∃ u, exec (.tconStepTake r) s = .next u ∧ (u.region r).arr.prog = a.prog + 1
        ∧ (u.region r).arr.dur = s.cyc + (shapeOf a.opc.toNat).2.2.2 * (if s.gatedRows r then 2 else 1)
        ∧ (u.region r).arr.pend = a.pend ++ [stepWords s.cyc g (fs.rows g)]
        ∧ (∀ q ∈ fs.all, ((u.region r).elem q.elem).inQ q.chan = ((g.elem q.elem).inQ q.chan).drop 1)
        ∧ ∀ w, (u.region r).acc w = g.acc w)
    ∧ (a.op = 2 → s.arrayRuns r = true → a.dur ≤ s.cyc → a.prog < a.steps → a.half = none → g.holdsSteps s.cyc = false → (shapeOf a.opc.toNat).2.2.1 = 16 →
      let fs := stepFeeds a.efmt d 0 8 16
      (∀ q ∈ fs.all, ∃ t, q.head g = some t ∧ feedFault a.efmt q t = none) →
      ∃ u, exec (.tconStepTake r) s = .next u ∧ (u.region r).arr.prog = a.prog ∧ (u.region r).arr.pend = a.pend
        ∧ (u.region r).arr.half = some ((fs.rows g).x, (fs.rows g).xs ++ (fs.rows g).t ++ (fs.rows g).ts)
        ∧ (u.region r).arr.begun = s.cyc ∧ (u.region r).arr.thr = s.gatedRows r
        ∧ (∀ q ∈ fs.all, ((u.region r).elem q.elem).inQ q.chan = ((g.elem q.elem).inQ q.chan).drop 1)
        ∧ ∀ w, (u.region r).acc w = g.acc w)
    ∧ (∀ x0 xs0 t0 ts0, a.op = 2 → s.arrayRuns r = true → a.dur ≤ s.cyc → a.prog < a.steps → (shapeOf a.opc.toNat).2.2.1 = 16 →
      a.half = some (x0, xs0 ++ t0 ++ ts0) → xs0.length = (if f4 then 8 else 0) → t0.length = (if d.tbank then 0 else 16) →
      let fs : StepFeeds := ⟨westFeeds 8 8 0 false, if f4 then westFeeds 8 8 2 true else [], [], []⟩
      (∀ q ∈ fs.all, ∃ t, q.head g = some t ∧ feedFault a.efmt q t = none) →
      ∃ u, exec (.tconStepTake r) s = .next u ∧ (u.region r).arr.prog = a.prog + 1 ∧ (u.region r).arr.half = none
        ∧ (u.region r).arr.dur = max (s.cyc + 1) (a.begun + 2 * (if a.thr then 2 else 1))
        ∧ (u.region r).arr.pend = a.pend ++ [stepWords s.cyc g ⟨x0 ++ (fs.rows g).x, xs0 ++ (fs.rows g).xs, t0, ts0⟩]
        ∧ (∀ q ∈ fs.all, ((u.region r).elem q.elem).inQ q.chan = ((g.elem q.elem).inQ q.chan).drop 1)
        ∧ ∀ w, (u.region r).acc w = g.acc w)
    ∧ (∀ w rest, a.pend = w :: rest → w.due ≤ s.cyc → w.first + w.vals.length ≤ 4096 →
      ∃ u, exec (.tconStepWrite r) s = .next u ∧ (u.region r).arr.pend = rest
        ∧ ∀ i, i < 4096 → (u.region r).acc i =
          if w.first ≤ i ∧ i < w.first + w.vals.length then w.vals.getD (i - w.first) 0 else g.acc i)
    ∧ (∀ q n k, a.op = 1 → s.arrayRuns r = true → a.dur ≤ s.cyc → a.imm.toNat % 4 = q → a.imm.toNat / 4 % 128 + 1 = n →
      k = min 8 (n - a.prog) → (∀ p ∈ westFeeds a.prog k 0 false ++ (if f4 then westFeeds a.prog k 2 true else []),
        ∃ t, p.head g = some t ∧ feedFault a.efmt p t = none) →
      ∃ u, exec (.wloadGroupTake r) s = .next u ∧ (u.region r).arr.prog = a.prog + k
        ∧ (u.region r).arr.op = (if a.prog + k = n then 0 else 1) ∧ (u.region r).arr.lq = a.lq
        ∧ (∀ i, i < k → ∀ t, (⟨16 * ((a.prog + i) % 8), 0, false⟩ : Feed).head g = some t →
            (u.region r).arr.token (32 * q + a.prog + i) = t.lanes)
        ∧ (∀ i, i < k → f4 = true → ∀ t, (⟨16 * ((a.prog + i) % 8), 2, true⟩ : Feed).head g = some t →
            (u.region r).arr.scale (2 * (32 * q + a.prog + i)) = (t.lanes.get 0).extractLsb' 0 8
            ∧ (u.region r).arr.scale (2 * (32 * q + a.prog + i) + 1) = (t.lanes.get 4).extractLsb' 0 8)
        ∧ (f4 = false → (u.region r).arr.scales = a.scales)
        ∧ ∀ j, (∀ i, i < k → j ≠ 32 * q + a.prog + i) → (u.region r).arr.token j = a.token j)
    ∧ (a.op = 3 → s.arrayRuns r = true → a.dur ≤ s.cyc →
      ∃ u, exec (.accrdPush r) s = .next u ∧ ∀ c, c < 16 →
        let i := SMap.get (fun _ => 0) a.cnt c
        let x := g.elem (112 + c)
        let tile := a.imm.toNat % 16 + i / 2
        let n := a.imm.toNat / 16 % 16 + 1
        (i = 2 * n → a.done = true → x.room 3 = true → ∃ t : Token, t.kind = kDone ∧ t.lvl = 0 ∧ t.vmask = 0xFF
          ∧ ((u.region r).elem (112 + c)).outQ 3 = x.outQ 3 ++ [{ t with seq := x.seqOut 3 }])
        ∧ (i = 2 * n → a.done = false → ((u.region r).elem (112 + c)).outQ 3 = x.outQ 3)
        ∧ (i < 2 * n → tile < 16 → x.room 3 = true → x.mayPush 3 kData = true →
          (((u.region r).elem (112 + c)).outQ 3 =
            x.outQ 3 ++ [⟨x.seqOut 3, 0xFF, 1, kData, 0, (g.elem (16 * (2 * (tile % 4) + i % 2) + c)).reg (24 + tile / 4)⟩]
            ∧ (a.var0 = true → ((u.region r).elem (16 * (2 * (tile % 4) + i % 2) + c)).reg (24 + tile / 4) = Oct.all 0))))

/- The port operations (R217 to R240) and translation (R311 to R318). -/

namespace Sys2Proof.Claims

/-- What the firing of a port operation needs: a port that may issue (R228, R272), the slot ready with its fields `f`, the output of its CMPL
among those that it writes (R222), and no fault in the way of the sources that `g` reads. -/
def PortReady (opc : Byte) (f g : Fields) (k : Look) (s : State) : Prop :=
  s.here.mayIssue opc = true ∧ s.Ready f { k with outs := k.outs ++ cplOut s.here f } ∧ laneFault s s.here g = none

/-- The channel on which a firing announces its completion (R224): its destination, or CPLCH where CPLEN is set. -/
def announces (f : Fields) (x : Elem) : Option (BitVec 2) :=
  match outOf f.dst with
  | some c => some (BitVec.ofNat 2 c)
  | none => if (x.field 169).getLsbD 15 then some ((x.field 169).extractLsb' 13 2) else none

/-- A firing without a result that issues an access with the slots `ps` behind the accesses of the port, and leaves memory, registers, outputs
and the stream engine. -/
def Issues (i : Instr) (opc : Byte) (f : Fields) (s : State) (ps : List (Nat × BitVec 64)) (chan : Option (BitVec 2)) : Prop :=
  ∃ y a, exec i s = .next (s.fired y) ∧ y.port.accs = s.here.port.accs ++ [a] ∧ y.port.eng = s.here.port.eng ∧ a.id = s.here.port.nextId
    ∧ a.opc = opc ∧ a.f = f ∧ a.slots = ps ∧ a.slot = BitVec.ofNat 4 s.cur.slot ∧ a.chan = chan
    ∧ a.task = s.taskOf s.cur.reg ∧ a.phase = s.phaseOf s.cur.reg ∧ Plain f s.here y

/-- A fault of the slot in hand at a firing, with its address (R239). -/
def faultsAt (i : Instr) (opc : Byte) (s : State) (det : Byte) (va : BitVec 64) : Prop :=
  exec i s = .next (s.raise s.cur.reg s.cur.elem s.cur.slot opc ((FaultRec.of 0x04 det).at_ va))

/-- The port operations whose slots take their addresses from source a (R220). -/
def accessTable : List ((Fields → Instr) × Byte) :=
  [(.ld, 0xC0), (.st, 0xC1), (.lds, 0xC2), (.stf, 0xC3), (.sete, 0xC4), (.atom, 0xCA)]

/-- The address of a row or engine operation (R226): pair 0 of source a. -/
def rowVa (f : Fields) (s : State) : BitVec 64 := srcPair s.here f f.sa 0

end Sys2Proof.Claims

/-- LD, ST, LDS, STF, SETE, ATOM and WAITA compute the address of every slot that takes part and issue one access, or fault on the first bad
address; LDROW, FENCE and BXSTART issue theirs, the last without a slot where pair 0 is not wholly in E. A global address is pair k of a plus the
displacement, which ATOM and WAITA do not have, and must be aligned; a scratchpad offset must be aligned and inside the bound window. That the first
bad slot is the one named is log entry 40, and the alignment of BXSTART log entry 70 (R220, R221, R223, R224, R231, R235, R236, R237, R239). -/
def Obligations.PortFiringsIssueAccesses : Prop :=
  (∀ p ∈ accessTable, ∀ f s, PortReady p.2 f f (Look.lane f) s → (∀ c, outOf f.dst = some c → s.here.mayPush c kData = true) →
    let spad := isSpad s.cur.elem
    match slotAddrs spad s.here (if p.2 = 0xCA then { f with imm := 0 } else f) (accWidth p.2 f) (srcLane s.here f f.sa) (srcPair s.here f f.sa)
        (partSlots spad p.2 f (execLanes s.here f)) with
    | .error b => faultsAt (p.1 f) p.2 s b.1 b.2
    | .ok ps => Issues (p.1 f) p.2 f s ps (announces f s.here))
  ∧ (∀ f s, PortReady 0xC9 f f (Look.lane f) s → (∀ c, outOf f.dst = some c → s.here.mayPush c kData = true) →
    match slotAddr (isSpad s.cur.elem) s.here { f with imm := 0 } (accWidth 0xC9 f) (srcLane s.here f f.sa) (srcPair s.here f f.sa) 0 with
    | .error b => faultsAt (.waita f) 0xC9 s b.1 b.2
    | .ok p => Issues (.waita f) 0xC9 f s [p] (announces f s.here))
  ∧ (∀ f s c, PortReady 0xCD f f (Look.lane f) s → outOf f.dst = some c →
    (rowLen f = 32 → f.var.getLsbD 0 = false → s.here.mayPush c kData = true) →
    if (rowVa f s).toNat % rowLen f ≠ 0 then faultsAt (.ldrow f) 0xCD s 0x20 (rowVa f s)
    else Issues (.ldrow f) 0xCD f s [(0, rowVa f s)] (some (BitVec.ofNat 2 c)))
  ∧ (∀ f s, PortReady 0xCE f f (Look.lane f) s → Issues (.fence f) 0xCE f s [] (announces f s.here))
  ∧ (∀ f s, PortReady 0xCF f f (Look.lane f) s →
    let part := (execLanes s.here f).getLsbD 0 && (execLanes s.here f).getLsbD 1
    if part = true ∧ (rowVa f s).toNat % 4 ≠ 0 then faultsAt (.bxstart f) 0xCF s 0x20 (rowVa f s)
    else Issues (.bxstart f) 0xCF f s (if part then [(0, rowVa f s)] else []) (announces f s.here))
  ∧ ∀ (x : Elem) (f : Fields) (w k : Nat) (lane : Nat → Word) (pair : Nat → BitVec 64),
    (slotAddr false x f w lane pair k =
      if (pair k + f.imm.signExtend 64).toNat % w ≠ 0 then .error (0x20, pair k + f.imm.signExtend 64)
      else .ok (k, pair k + f.imm.signExtend 64))
    ∧ (f.w64 = 0 → (lane k).toNat < 0x10000 →
      let off : Int := (lane k).toNat + f.imm.toInt
      slotAddr true x f w lane pair k =
        if off % w ≠ 0 then .error (0x20, BitVec.ofInt 64 off)
        else if off < 32 * (x.field 174).toNat ∨ (32 * ((x.field 175).toNat + 1) : Int) < off + w then .error (0x21, BitVec.ofInt 64 off)
        else .ok (k, BitVec.ofInt 64 off))

namespace Sys2Proof.Claims

/-- A firing without a result that sets the stream engine of the port, at its first token (R222); `seq` is the number that its tokens or its CMPL
take from an address token (R224). -/
def Starts (i : Instr) (opc : Byte) (kind : BitVec 3) (f : Fields) (s : State) (n : Word) (base : BitVec 64) (seq : Option (BitVec 12)) : Prop :=
  ∃ y g, exec i s = .next (s.fired y) ∧ y.port.eng = some g ∧ g.kind = kind ∧ g.opc = opc ∧ g.f = f ∧ g.slot = BitVec.ofNat 4 s.cur.slot
    ∧ g.i = 0 ∧ g.r = 0 ∧ g.n = n ∧ g.base = base ∧ g.ended = false ∧ g.seq = seq ∧ y.port.accs = s.here.port.accs ∧ Dequeues f s.here y
    ∧ y.regs = s.here.regs ∧ y.outq = s.here.outq ∧ y.conf = s.here.conf

/-- The seq of the address token where SA names a channel head (R224). -/
def addressSeq (f : Fields) (s : State) : Option (BitVec 12) := if 16 ≤ f.sa.toNat ∧ f.sa.toNat < 20 then (s.here.head (f.sa.toNat - 16)).map (·.seq) else none

/-- Where a stream engine has its base: lane 0 of a scratchpad port's source, a constant or an immediate sign-extended, pair 0 of a global port's
(R72, R226). -/
def baseOf (f : Fields) (s : State) (sp : BitVec 6) : BitVec 64 :=
  if isSpad s.cur.elem = false then srcPair s.here f sp 0
  else if sp = 28 ∨ 32 ≤ sp.toNat then (srcLane s.here f sp 0).signExtend 64
  else (srcLane s.here f sp 0).zeroExtend 64

end Sys2Proof.Claims

/-- AGSRC, AGSNK, GATH, SCAT, VRADD, VRMAX and WSRD start the idle stream engine of their port; a channel that one designates is not read; a row
address must be aligned to its row, and a weight-store stream to 32 bytes and inside its block (R222, R229, R230, R234, R238, R239). -/
def Obligations.StreamFiringsStartEngines : Prop :=
  ∀ f s, s.here.port.eng = none →
    (PortReady 0xC5 f f (Look.lane f) s → Starts (.agsrc f) 0xC5 1 f s (srcLane s.here f f.sa 0) (baseOf f s f.sb) none)
    ∧ (PortReady 0xC6 f { f with sa := 30 } (Look.lane { f with sa := 30 }) s → Starts (.agsnk f) 0xC6 2 f s 0 (baseOf f s f.sb) none)
    ∧ (PortReady 0xC7 f { f with sa := 30 } (Look.lane { f with sa := 30 }) s → Starts (.gath f) 0xC7 3 f s 0 0 none)
    ∧ (PortReady 0xC8 f { f with sa := 30, sb := 30 } (Look.lane { f with sa := 30, sb := 30 }) s → Starts (.scat f) 0xC8 4 f s 0 0 none)
    ∧ (∀ p ∈ [(Instr.vradd, (0xCB : Byte)), (.vrmax, 0xCC)], PortReady p.2 f { f with sb := 30 } (Look.lane { f with sb := 30 }) s →
      if (rowVa f s).toNat % rowLen f ≠ 0 then faultsAt (p.1 f) p.2 s 0x20 (rowVa f s)
      else Starts (p.1 f) p.2 5 f s (BitVec.ofNat 32 (rowLen f / 32)) (rowVa f s) (addressSeq f s))
    ∧ (PortReady 0xD0 f f { Look.lane f with outs := (Look.lane f).outs ++ (if f.imm.getLsbD 2 then [(f.imm.extractLsb' 0 2).toNat] else []) } s →
      let off := srcLane s.here f f.sa 0
      let n := srcLane s.here f f.sa 1
      if off.toNat % 32 ≠ 0 then faultsAt (.wsrd f) 0xD0 s 0x20 (off.zeroExtend 64)
      else if 0x100000 < off.toNat + 32 * n.toNat then faultsAt (.wsrd f) 0xD0 s 0x21 (off.zeroExtend 64)
      else Starts (.wsrd f) 0xD0 6 f s n (off.zeroExtend 64) (addressSeq f s))

namespace Sys2Proof.Claims

/-- An access of a port stands at a phase with its one slot still to perform. -/
def Stands (s : State) (r e id : Nat) (a : Access) (ph : AccPhase) (p : Nat × BitVec 64) : Prop :=
  (s.elem r e).acc id = some a ∧ a.ph = ph ∧ a.slots = [p]

/-- The access announces its result now: on its channel, in its reserved entry, with no earlier result due there (R224, R225). -/
def DueOn (s : State) (r e : Nat) (a : Access) (c : BitVec 2) : Prop :=
  a.chan = some c ∧ a.rsv = true ∧ a.toks = [] ∧ (s.elem r e).heldBack a.id c = false ∧ outOf a.f.dst ≠ none

/-- The token that the channel gains holds the word at `addr` in lane `k`, valid there beside the lanes that were valid (R220, R227). -/
def GivesWord (s u : State) (r e : Nat) (a : Access) (c : BitVec 2) (k addr : Nat) : Prop :=
  ∃ t, (u.elem r e).outQ c.toNat = (s.elem r e).outQ c.toNat ++ [t] ∧ t.kind = kData ∧ t.fmt = a.f.efmt
    ∧ t.seq = a.seq.getD ((s.elem r e).seqOut c.toNat) ∧ t.vmask = a.vm ||| (1#8 <<< k)
    ∧ t.lanes.get k = (s.mem.read (addr + 3) ++ s.mem.read (addr + 2) ++ s.mem.read (addr + 1) ++ s.mem.read addr : Word)

end Sys2Proof.Claims

/-- At a scratchpad port a store writes the bytes of its slot at the offset in its tile and no other byte of memory, a load gives the word there,
or POISON where the word is lost, and an LDS that waits is performed once its bytes are full and otherwise waits on (R220, R221, R224, R227,
R228, R313). -/
def Obligations.ScratchpadAccessesReadAndWrite : Prop :=
  ∀ (s : State) (r e id : Nat) (a : Access) (p : Nat × BitVec 64), r < 768 → isSpad e = true → (s.elem r e).tileWaits id = false →
    let addr := spadAddr r ((e - 128) / 2) (p.2.toNat % 0x10000)
    (∀ ps, (s.elem r e).acc id = some a → a.ph = .home → a.slots = p :: ps → a.opc = 0xC1 → storeLost s.mem (storeCells true a p.1 addr) = false →
      ∃ u, exec (.accessComplete r e id) s = .next u ∧ ∀ x, u.mem.read x =
        if addr ≤ x ∧ x < addr + accWidth 0xC1 a.f then (slotBytes true 0xC1 a.f a.b p.1).getD (x - addr) 0 else s.mem.read x)
    ∧ (∀ c, Stands s r e id a .home p → a.opc = 0xC0 → DueOn s r e a c → a.f.var.getLsbD 0 = false → a.f.w64 = 0 → p.1 < 8 → a.lost = false →
      ∃ u, exec (.accessComplete r e id) s = .next u ∧ u.mem = s.mem ∧ (u.elem r e).acc id = none
          ∧ (s.mem.isLost addr 4 = false → GivesWord s u r e a c p.1 addr)
          ∧ (s.mem.isLost addr 4 = true → ∃ t, (u.elem r e).outQ c.toNat = (s.elem r e).outQ c.toNat ++ [t] ∧ t.kind = kPoison))
    ∧ (∀ c, Stands s r e id a .parked p → a.opc = 0xC2 → DueOn s r e a c → a.f.var.getLsbD 0 = false → a.f.w64 = 0 → p.1 < 8 → a.lost = false →
      s.mem.isLost addr 4 = false → (s.elem r e).parkedCount ≤ 8 →
      (s.mem.isFull addr 4 = true → ∃ u, exec (.parkedWake r e id) s = .next u ∧ GivesWord s u r e a c p.1 addr
        ∧ (∀ x, u.mem.read x = s.mem.read x) ∧ u.mem.isFull addr 4 = !a.f.var.getLsbD 1)
      ∧ (s.mem.isFull addr 4 = false → ∃ u, exec (.parkedWake r e id) s = .next u ∧ u.mem = s.mem
        ∧ (u.elem r e).acc id = some { a with waited := true } ∧ (u.elem r e).outq = (s.elem r e).outq))

/-- A global atomic whose request has come is performed at its home on the bytes of its slot and on no other; an LDROW reads the 32 bytes of its row
there, and its token is pushed at once in the home's own stack and otherwise once the answer has crossed; an accepted row update is applied in the
order of its slot to the valid lanes of its body, both under CONV as the firing saw it; and the phase counter of the weight store, with its origin at
reset by log entry 23, enters and leaves refresh (R47, R232, R234, R235, R238, R271). -/
def Obligations.HomesPerformAtomicsAndRows : Prop :=
  (∀ (s : State) (r e id : Nat) (a : Access) (p : Nat × BitVec 64) (q : Phys), isGmem e = true → Stands s r e id a .home p → a.opc = 0xCA →
    SMap.find a.tr p.1 = some q → q.kind = 0 → s.cut r q = false → s.crossing r e id false = false →
    s.mem.isLost q.addr (accWidth 0xCA a.f) = false →
    let w := accWidth 0xCA a.f
    let x := (s.elem r e).setField 162 a.conv
    let new := (atomNew a.f.var.toNat (8 * w) (a.f.uns == 1) (a.f.efmt == 1) (resolveMode x a.f.rnd) ((x.field 162).getLsbD 3)
      (s.mem.readLe q.addr w) (slotValue false 0xCA a.f a.b p.1) (slotValue false 0xCA a.f a.c p.1)).1
    ∃ u, exec (.homeAtomic r e id) s = .next u ∧ (u.elem r e).acc id ≠ some a
      ∧ ∀ b, u.mem.read b = if q.addr ≤ b ∧ b < q.addr + w then BitVec.ofNat 8 (new / 256 ^ (b - q.addr)) else s.mem.read b)
  ∧ (∀ (s : State) (r e id : Nat) (a : Access) (p : Nat × BitVec 64) (q : Phys) (c : BitVec 2), isGmem e = true → Stands s r e id a .home p →
    a.opc = 0xCD → SMap.find a.tr 0 = some q → q.kind = 0 → q.rs = true → s.cut r q = false → s.crossing r e id false = false → s.crossing r e id true = false →
    DueOn s r e a c → rowLen a.f = 32 → a.f.var.getLsbD 0 = false → s.mem.isLost q.addr 32 = false →
    ∃ u t, exec (.ldrowPerform r e id) s = .next u ∧ u.mem = s.mem
      ∧ (if stackOf q = r / 192 then (u.elem r e).outQ c.toNat = (s.elem r e).outQ c.toNat ++ [t]
        else (u.elem r e).outQ c.toNat = (s.elem r e).outQ c.toNat ∧ ∃ b, (u.elem r e).acc id = some b ∧ b.ph = .done ∧ b.toks = [t])
      ∧ t.kind = kData ∧ t.vmask = 0xFF ∧ t.fmt = a.f.efmt
      ∧ ∀ l, l < 8 → t.lanes.get l =
        (s.mem.read (q.addr + 4 * l + 3) ++ s.mem.read (q.addr + 4 * l + 2) ++ s.mem.read (q.addr + 4 * l + 1) ++ s.mem.read (q.addr + 4 * l) : Word))
  ∧ (∀ (s : State) (n : Nat) (v : RowUpdate) (a : Access), s.mem.rowq.find? (fun w => w.n == n) = some v →
    (s.mem.rowq.any fun w => decide (w.n < n) && w.addr / 256 == v.addr / 256) = false → (s.elem v.reg v.elem).acc v.id = some a →
    a.f.efmt = 1 → s.mem.isLost v.addr (32 * a.toks.length) = false →
    let x := (s.elem v.reg v.elem).setField 162 a.conv
    ∃ u, exec (.rowUpdateApply n) s = .next u ∧ (∀ w ∈ u.mem.rowq, w.n ≠ n)
      ∧ (∀ b, (b < v.addr ∨ v.addr + 32 * a.toks.length ≤ b) → u.mem.read b = s.mem.read b)
      ∧ ∀ i t l, a.toks[i]? = some t → l < 8 → BitVec.ofNat 32 (u.mem.readLe (v.addr + 32 * i + 4 * l) 4) =
          let old := BitVec.ofNat 32 (s.mem.readLe (v.addr + 32 * i + 4 * l) 4)
          if t.vmask.getLsbD l then (rowElem (a.opc == 0xCC) false (resolveMode x a.f.rnd) (satFloat x a.f) old (t.lanes.get l)).1 else old)
  ∧ ∀ s : State, exec .weightStoreRefresh s = .next { s with wsref := decide (s.cyc % 4096 < 64) }

namespace Sys2Proof.Claims

/-- The address of the entry that an address selects in the table at `base` of a level (R311). -/
def entryAt (va : BitVec 64) (base lvl : Nat) : Nat := base + 8 * (va.toNat / 2 ^ levelShift lvl % 2 ^ levelBits lvl)

/-- A walk reads a present entry there: its table lies in the row store and its word is not lost (R312, R319). -/
def Reads (m : Mem) (va : BitVec 64) (base lvl : Nat) (e : BitVec 64) : Prop :=
  tableOk base lvl = true ∧ m.isLost (entryAt va base lvl) 8 = false ∧ BitVec.ofNat 64 (m.readLe (entryAt va base lvl) 8) = e

/-- A pointer to the next level (R312). -/
def Points (lvl : Nat) (e : BitVec 64) (next : Nat) : Prop :=
  e.getLsbD 0 = true ∧ e.getLsbD 1 = false ∧ nonLeafBad lvl e = false ∧ next = entryBits e 8 44 * 256

end Sys2Proof.Claims

/-- A walk follows the pointers of its levels to the leaf at the entry that the address selects in each table, and an entry that is not present ends
it in MEM 0x01; the leaf's page and the offset make the physical place, if its permission covers the need, and a global access then stands at
its home with that place, while a store to a missing page, behind the earlier ones of its
port, waits in the replay queue (R311 to R315, R318, R272). -/
def Obligations.TranslationWalksTheTables : Prop :=
  (∀ (m : Mem) (va : BitVec 64) (b1 b2 b3 b4 : Nat) (e1 e2 e3 e4 : BitVec 64),
    Reads m va b1 1 e1 → Points 1 e1 b2 → Reads m va b2 2 e2 → Points 2 e2 b3 → Reads m va b3 3 e3 →
    (e3.getLsbD 0 = true → e3.getLsbD 1 = true → leafBad 3 e3 = false → walkFrom m va 3 b1 = .ok (e3, 3, entryAt va b3 3))
    ∧ (e3.getLsbD 0 = false → walkFrom m va 3 b1 = .error (0x04, 0x01))
    ∧ (Points 3 e3 b4 → Reads m va b4 4 e4 →
      (e4.getLsbD 0 = true → e4.getLsbD 1 = true → leafBad 4 e4 = false → walkFrom m va 3 b1 = .ok (e4, 4, entryAt va b4 4))
      ∧ (e4.getLsbD 0 = false → walkFrom m va 3 b1 = .error (0x04, 0x01))))
  ∧ (∀ (priv part dom : Nat) (need : Need) (e va : BitVec 64) (lvl : Nat), e.getLsbD 11 = false → leafKind e ≠ 4 →
    (need = .r ∧ e.getLsbD 2 = true ∨ need = .w ∧ e.getLsbD 3 = true ∨ need = .x ∧ e.getLsbD 4 = true
      ∨ need = .rw ∧ e.getLsbD 2 = true ∧ e.getLsbD 3 = true) →
    ∃ q, useLeaf priv part dom need e lvl va = .ok q ∧ q.addr = leafPage e + va.toNat % 2 ^ levelShift lvl ∧ q.kind.toNat = leafKind e)
  ∧ ∀ (s : State) (r e id : Nat) (a : Access) (p : Nat × BitVec 64), isGmem e = true → Stands s r e id a .walk p → a.tr = [] →
    s.mmu.replay = [] →
    (∀ q s1, s.translate (r / 192) (s.partOf r) p.2 (needOf a.opc) = (.ok q, s1) →
      ∃ u b, exec (.translationWalk r e id) s = .next u ∧ (u.elem r e).acc id = some b ∧ b.ph = .home ∧ SMap.find b.tr p.1 = some q
        ∧ b.slots = [p] ∧ u.mem = s1.mem)
    ∧ (∀ s1, s.translate (r / 192) (s.partOf r) p.2 (needOf a.opc) = (.error (0x04, 0x01), s1) → parks a.opc = true → s.stopping r = false →
      s.storeBefore r e id (p.2.toNat / 0x10000) = false →
      ∃ u, exec (.translationWalk r e id) s = .next u
        ∧ u.mmu.replay = [⟨r / 192, ((s.region r).owner).getD 0, r, e, id, p.1, s.partOf r, p.2.toNat / 0x10000, false⟩])

/-- The stream engine of a port makes its steps: a generator loads the token at its next address, in a cycle in which no firing of the
port issues, and ends in DONE, a sink stores each DATA token and
ends with its CMPL, gathers and scatters issue the accesses of one address token, a row update takes its body token by token, and the weight
store streams its tokens in order, with `.x2` two in a cycle, each with the seq of the address token where there was one. What a DONE carries is log
entry 22, and the SEQOc of the other tokens log entry 36 (R222, R224, R229, R230, R234, R238). -/
def Obligations.StreamEnginesAdvance : Prop :=
  ∀ (s : State) (r e : Nat) (g : StreamEngine), (s.elem r e).port.eng = some g → s.engineRuns r e = true →
    let x := s.elem r e
    let c := g.out.toNat
    let adds := fun (i : Instr) (slots : List (Nat × BitVec 64)) (h : Option StreamEngine) (extra : Access → Prop) =>
      ∃ u a, exec i s = .next u ∧ (u.elem r e).port.accs = x.port.accs ++ [a] ∧ (u.elem r e).port.eng = h ∧ a.id = x.port.nextId
        ∧ a.slots = slots ∧ a.opc = g.opc ∧ (u.elem r e).outq = x.outq ∧ u.mem = s.mem ∧ extra a
    let pushes := fun (i : Instr) (o : Nat) (t : Token) (h : Option StreamEngine) =>
      ∃ u, exec i s = .next u ∧ (u.elem r e).outQ o = x.outQ o ++ [{ t with seq := x.seqOut o }] ∧ (u.elem r e).port.eng = h
        ∧ (u.elem r e).port.accs = x.port.accs ∧ u.mem = s.mem
    (g.kind = 1 → x.room c = true →
      (∀ va, x.mayIssue 0xC5 = true → s.cycleFree r e = true → g.r.toNat < genRows x → g.i.toNat < g.n.toNat → x.mayPush c kData = true → genCheck (isSpad e) x g = .ok va →
        adds (.agsrcPush r e) [(0, va)] (some (genNext x g)) (fun a => a.chan = some g.out))
      ∧ (genRows x ≤ g.r.toNat → genStops x = false → x.dueOn g.out = false → pushes (.agsrcPush r e) c (portMark s.tick kDone 0) none))
    ∧ (∀ t, g.kind = 2 → g.ended = false → x.mayIssue 0xC6 = true → x.head g.ch.toNat = some t →
      (∀ va, t.kind = kData → genCheck (isSpad e) x g = .ok va →
        adds (.agsnkTake r e) (if t.vmask = 0 then [] else [(0, va)]) (some { g with i := g.i + 1 }) (fun a => a.b = t.lanes ∧ a.vm = t.vmask))
      ∧ (t.kind = kDone → ∃ u, exec (.agsnkTake r e) s = .next u ∧ (u.elem r e).port.eng = some { g with ended := true }
        ∧ (u.elem r e).inQ g.ch.toNat = (x.inQ g.ch.toNat).drop 1))
    ∧ ((g.kind = 2 ∨ g.kind = 4) → g.ended = true → (x.port.accs.any fun a => a.opc == g.opc) = false →
      pushes (.streamCmpl r e) c (cmplTok (if g.kind = 2 then g.base else g.first.getD 0) g.opc 0) none)
    ∧ (∀ t, g.kind = 3 → s.cycleFree r e = true → x.mayIssue 0xC7 = true → x.room c = true → x.head g.ch.toNat = some t →
      (∀ ps, t.kind = kData → x.mayPush c kData = true → stepAddrs (isSpad e) x g t (t.vmask &&& x.laneEn) = .ok ps →
        adds (.gathStep r e) ps (some g) (fun a => a.chan = some g.out))
      ∧ (t.kind = kDone → x.dueOn g.out = false → pushes (.gathStep r e) c (portMark s.tick kDone 0) none))
    ∧ (∀ t d ps, g.kind = 4 → g.ended = false → s.cycleFree r e = true → x.mayIssue 0xC8 = true → g.ch ≠ g.ch2 → x.head g.ch.toNat = some t →
      x.head g.ch2.toNat = some d → t.kind = kData → d.kind = kData → stepAddrs (isSpad e) x g t t.vmask = .ok ps →
      adds (.scatStep r e) ps (some { g with first := if g.first.isSome then g.first else some ((ps.head?.map (·.2)).getD 0) })
        (fun a => a.b = d.lanes))
    ∧ (∀ t, g.kind = 5 → x.mayIssue g.opc = true → x.head g.ch.toNat = some t → t.kind = kData → t.fmt = g.f.efmt →
      (g.body.length + 1 < g.n.toNat → ∃ u, exec (.rowBodyTake r e) s = .next u
        ∧ (u.elem r e).port.eng = some { g with body := g.body ++ [t] } ∧ (u.elem r e).inQ g.ch.toNat = (x.inQ g.ch.toNat).drop 1)
      ∧ (g.n.toNat ≤ g.body.length + 1 → ∃ u a, exec (.rowBodyTake r e) s = .next u ∧ (u.elem r e).port.accs = x.port.accs ++ [a]
        ∧ (u.elem r e).port.eng = none ∧ a.id = g.born ∧ a.slots = [(0, g.base)] ∧ a.opc = g.opc ∧ a.toks = g.body ++ [t] ∧ a.addr = g.base
        ∧ a.seq = g.seq ∧ (u.elem r e).outq = x.outq ∧ u.mem = s.mem))
    ∧ (g.kind = 6 → g.i.toNat < g.n.toNat → s.wsref = false → g.f.imm.getLsbD 2 = false → x.room c = true → x.mayPush c kData = true →
      ∃ u, exec (.wsrdPush r e) s = .next u ∧ (u.elem r e).port.eng = some { g with i := g.i + 1 } ∧ u.mem = s.mem
        ∧ (u.elem r e).outQ c =
          x.outQ c ++ [{ wstoreTok s.mem r g.f.efmt (g.base.toNat + 32 * g.i.toNat) with seq := g.seq.getD (x.seqOut c) }])
    ∧ ∀ d, g.kind = 6 → d = g.ch2.toNat → g.i.toNat + 1 < g.n.toNat → g.i.getLsbD 0 = false → s.wsref = false → g.f.imm.getLsbD 2 = true → c ≠ d →
      x.room c = true → x.mayPush c kData = true → x.room d = true → x.mayPush d kData = true →
      ∃ u, exec (.wsrdPush r e) s = .next u ∧ (u.elem r e).port.eng = some { g with i := g.i + 2 } ∧ u.mem = s.mem
        ∧ (u.elem r e).outQ c =
          x.outQ c ++ [{ wstoreTok s.mem r g.f.efmt (g.base.toNat + 32 * g.i.toNat) with seq := g.seq.getD (x.seqOut c) }]
        ∧ (u.elem r e).outQ d =
          x.outQ d ++ [{ wstoreTok s.mem r g.f.efmt (g.base.toNat + 32 * (g.i + 1).toNat) with seq := g.seq.getD (x.seqOut d) }]
/- The row store (R241 to R258). -/

namespace Sys2Proof.Claims

/-- The row instructions with their opcodes (R249). -/
def rowTable : List ((Fields → Instr) × Byte) :=
  [(.rowact, 0xE0), (.rowconSt, 0xE1), (.rowconStr, 0xE1), (.rowconWs, 0xE1), (.rowwr, 0xE2), (.rowpre, 0xE3)]

/-- The sources that a row instruction reads: a ROWWR designates b as its body channel (R222, R252). -/
def rowReads (opc : Byte) (f : Fields) : Fields := if opc = 0xE2 then { f with sb := 30 } else f

/-- What the firing of a row instruction needs: room in the queue, a body channel that no earlier ROWWR owns, the slot ready, the output of its
CMPL among those that it writes, and no fault in the way (R222, R244, R249, R252). -/
def RowReady (opc : Byte) (f : Fields) (s : State) : Prop :=
  (hereRegion s).row.queue.length < 4 ∧ (opc = 0xE2 → (hereRegion s).row.ins.contains (chanIx f.sb) = false)
    ∧ s.Ready f { Look.lane (rowReads opc f) with outs := (outOf f.dst).toList ++ cplOut s.here f } ∧ laneFault s s.here (rowReads opc f) = none

end Sys2Proof.Claims

/-- A row instruction enters the queue of its row unit as the newest operation, a misaligned address raises MEM 0x20, and a full queue holds it;
ROWSTAT writes its status lanes and, with `.clr`, clears the expired entries or the counters (R244, R249, R254). -/
def Obligations.RowInstructionsEnterTheQueue : Prop :=
  (∀ p ∈ rowTable, ∀ f s,
    (RowReady p.2 f s →
      if (rowVa f s).toNat % 1024 ≠ 0 then faultsAt (p.1 f) p.2 s 0x20 (rowVa f s)
      else ∃ y o, exec (p.1 f) s = .next ((s.fired y).onRow s.cur.reg fun u => { u with queue := u.queue ++ [o] }) ∧ Plain f s.here y
        ∧ o.opc = p.2 ∧ o.f = f ∧ o.addr = rowVa f s ∧ o.slot = BitVec.ofNat 4 s.cur.slot ∧ o.body = [] ∧ o.fresh = s.cyc
        ∧ o.task = s.taskOf s.cur.reg)
    ∧ (4 ≤ (hereRegion s).row.queue.length → exec (p.1 f) s = .next s))
  ∧ (∀ f s, 4 ≤ (hereRegion s).row.queue.length → exec (.rowstat f) s = .next s)
  ∧ ∀ f s, LaneReady f s → (hereRegion s).row.queue.length < 4 →
    let mode := (f.var.extractLsb' 0 2).toNat
    ∃ y, exec (.rowstat f) s = .next ((s.fired y).onRow s.cur.reg fun u =>
        if f.var.getLsbD 2 = true ∧ mode = 0 then { u with table := u.table.filter fun e => !e.2.expired }
        else if f.var.getLsbD 2 = true ∧ mode = 1 then { u with locks := 0, defers := 0, holds := 0 } else u)
      ∧ Lands f 0 (execLanes s.here f) (rowStatus s s.cur.reg f) s.here y ∧ Kept f s.here y

namespace Sys2Proof.Claims

/-- The row-store address of the row that an operation names (R241). -/
def rowBase (o : RowOp) : Nat := colOf o.pa * 2 ^ 28 + bankOf o.pa * 2 ^ 22 + rowOf o.pa * 2 ^ 10

/-- The first operation on its way acts now: it has reached its bank and nothing holds it there, no completion is due, and the region does not
stop (R244, R245, R246, R258). -/
def ActsNow (s : State) (r : Nat) (o : RowOp) (rest : List (RowOp × Nat)) : Prop :=
  ∃ due, (s.region r).row.issued = (o, due) :: rest ∧ due ≤ s.cyc ∧ (s.region r).row.cmpl = [] ∧ s.rowHold r o s.cyc [] = 0
    ∧ (s.region r).rstate ≠ 4 ∧ (s.region r).rstate ≠ 5 ∧ (s.region r).rstate ≠ 6

end Sys2Proof.Claims

/-- The oldest operation is issued once it translates and nothing holds it; at its bank an ACT opens the row with its latest bytes and
counts against the budget of the period, a ROWCON lands the open row in the oldest armed quarter, in a free stream latch as its 32 tokens, or in the
weight store, and a ROWWR writes the valid lanes of its body and no other byte of the row store, and takes one body token at a time; a row open for
65,536 cycles expires, which is counted where log entry 148 says (R188, R244, R245, R248, R250, R251, R252). -/
def Obligations.RowUnitActsAtItsBanks : Prop :=
  (∀ (s s1 : State) (r : Nat) (o : RowOp) (os : List RowOp) (p : Phys), s.rowRuns r = true → (s.region r).row.next = some o →
    (s.region r).row.queue = o :: os → o.opc ≠ 0xFF → (s.region r).row.issued = [] → o.fresh < s.cyc → (o.opc = 0xE2 → 32 ≤ o.body.length) →
    s.translate (r / 192) (s.partOf r) o.addr (rowNeed o) = (.ok p, s1) → p.kind = 0 →
    s1.rowHold r { o with pa := p.addr } (s1.cyc + s1.bankDelay r (colOf p.addr)) [] = 0 →
    ∃ u, exec (.rowOpIssue r) s = .next u ∧ (u.region r).row.queue = os
      ∧ (u.region r).row.issued = [({ o with pa := p.addr }, s1.cyc + s1.bankDelay r (colOf p.addr))])
  ∧ (∀ (s : State) (r : Nat) (o : RowOp) (rest : List (RowOp × Nat)) (k : Nat), ActsNow s r o rest → o.opc = 0xE0 →
    ((s.region r).row.entryOf (colOf o.pa) (bankOf o.pa) = none) → (s.region r).row.slotFor (colOf o.pa) (bankOf o.pa) = some k →
    ∃ u h, exec (.rowBankAct r) s = .next u ∧ SMap.find (u.region r).row.table k = some h ∧ h.held = true ∧ h.expired = false
      ∧ h.rw = o.f.var.getLsbD 0 ∧ h.col = colOf o.pa ∧ h.bank = bankOf o.pa ∧ h.row = rowOf o.pa
      ∧ (∀ i, i < 1024 → h.data.getD i 0 = s.mem.read (rowBase o + i)) ∧ (u.region r).row.acts =
        (if s.cyc % 2100 = 0 ∧ (s.region r).row.period ≠ s.cyc / 2100 then 0 else (s.region r).row.acts) + 1
      ∧ (u.region r).row.issued = rest ∧ u.mem.bytes = s.mem.bytes)
  ∧ (∀ (s : State) (r : Nat) (o : RowOp) (rest : List (RowOp × Nat)) (k : Nat) (h : HoldEntry), ActsNow s r o rest →
    (s.region r).row.entryOf (colOf o.pa) (bankOf o.pa) = some (k, h) → h.expired = false → h.row = rowOf o.pa →
    (∀ t, (s.mem.bank h.col h.bank).act = some t → s.cyc < t + 65536) →
    (∀ q qs, o.opc = 0xE1 → o.f.var = 0 → (s.region r).arr.armed = q :: qs → h.lost = [] → h.data.length = 1024 →
      ∃ u, exec (.rowBankAct r) s = .next u ∧ (u.region r).arr.armed = qs ∧ (u.region r).arr.lq.getLsbD q.toNat = true
        ∧ (∀ i, i < 1024 → (u.region r).arr.byte (1024 * q.toNat + i) = h.data.getD i 0)
        ∧ (∀ i, (i < 1024 * q.toNat ∨ 1024 * q.toNat + 1024 ≤ i) → (u.region r).arr.byte i = (s.region r).arr.byte i)
        ∧ u.mem.bytes = s.mem.bytes)
    ∧ (o.opc = 0xE1 → o.f.var = 1 →
      ∃ u l, exec (.rowBankAct r) s = .next u ∧ u.mem.bytes = s.mem.bytes
        ∧ SMap.find (u.region r).row.latch (if ((SMap.find (s.region r).row.latch 0).map (·.toks.isEmpty)).getD true then 0 else 1) = some l
        ∧ l.ch = BitVec.ofNat 2 (outIx o.f) ∧ l.from_ = s.cyc + 1 ∧ l.toks.length = 32
        ∧ ∀ i t, l.toks[i]? = some t → t.fmt = o.f.efmt
          ∧ if h.lost.any (fun b => b / 32 == i) then t.kind = kPoison
            else t.kind = kData ∧ t.vmask = 0xFF ∧ ∀ n, n < 32 → octByte t.lanes n = h.data.getD (32 * i + n) 0)
    ∧ (o.opc = 0xE1 → o.f.var = 2 → (s.region r).readsStore = false → h.lost = [] → h.data.length = 1024 →
      let a := wstoreAddr r (1024 * (o.f.imm.extractLsb' 0 10).toNat)
      ∃ u, exec (.rowBankAct r) s = .next u ∧ ∀ x, u.mem.read x = if a ≤ x ∧ x < a + 1024 then h.data.getD (x - a) 0 else s.mem.read x)
    ∧ (o.opc = 0xE2 → h.rw = true → o.body.length = 32 →
      ∃ u, exec (.rowBankAct r) s = .next u ∧ (∀ b, (b < h.base ∨ h.base + 1024 ≤ b) → u.mem.read b = s.mem.read b)
        ∧ ∀ i t n, o.body[i]? = some t → n < 32 →
          u.mem.read (h.base + 32 * i + n) =
            if t.vmask.getLsbD (n / 4) then octByte t.lanes n else s.mem.read (h.base + 32 * i + n))
    ∧ (o.opc = 0xE3 → ∃ u, exec (.rowBankAct r) s = .next u ∧ SMap.find (u.region r).row.table k = none ∧ u.mem.bytes = s.mem.bytes))
  ∧ (∀ (s : State) (r k : Nat) (e : HoldEntry) (t : Nat), SMap.find (s.region r).row.table k = some e → e.held = true →
    (s.mem.bank e.col e.bank).act = some t → t + 65536 ≤ s.cyc →
    ∃ u, exec (.rowOpenExpiry r k) s = .next u ∧ SMap.find (u.region r).row.table k = some { e with held := false, expired := true }
      ∧ (u.region r).row.expiries = satInc (s.region r).row.expiries ∧ (u.mem.bank e.col e.bank).holder = none)
  ∧ (∀ (s : State) (g : Nat), exec (.rowRefreshSlot g) s = .next s)
  ∧ (∀ s : State, ∃ u, exec .actBudgetPeriod s = .next u ∧ ∀ r, (u.region r).row.acts = 0 ∧ (u.region r).row.queue = (s.region r).row.queue)
  ∧ (∀ (s : State) (r k : Nat) (l : RowLatch) (t : Token) (ts : List Token), SMap.find (s.region r).row.latch k = some l → l.toks = t :: ts →
    s.clocked r = true → s.stuck r 146 = false → l.from_ ≤ s.cyc → (s.elem r 146).room l.ch.toNat = true →
    (s.elem r 146).mayPush l.ch.toNat t.kind = true →
    ∃ u, exec (.rowconStrPush r k) s = .next u
      ∧ (u.elem r 146).outQ l.ch.toNat = (s.elem r 146).outQ l.ch.toNat ++ [{ t with seq := (s.elem r 146).seqOut l.ch.toNat }]
      ∧ SMap.find (u.region r).row.latch k = some { l with toks := ts })
  ∧ ∀ (s : State) (r : Nat) (o : RowOp) (t : Token), s.clocked r = true → s.stuck r 146 = false → (s.region r).row.queue = [o] → (s.region r).row.drain = none →
    o.opc = 0xE2 → o.body.length < 32 → o.fresh < s.cyc → (s.elem r 146).head (chanIx o.f.sb) = some t → t.kind = kData →
    ∃ u, exec (.rowwrBodyTake r) s = .next u ∧ (u.region r).row.queue = [{ o with body := o.body ++ [t] }]
      ∧ (u.elem r 146).inQ (chanIx o.f.sb) = ((s.elem r 146).inQ (chanIx o.f.sb)).drop 1
/- The system instructions (R325 to R330, R348 to R354). -/

namespace Sys2Proof.Claims

/-- The load that owns the region in hand. -/
def OwnLoad (s : State) (k : Nat) (l : Load) : Prop := (hereRegion s).owner = some k ∧ s.load k = some l

/-- The boundary instructions (R326 to R328, R349). -/
def boundaryTable : List ((Fields → Instr) × Byte) := [(.phase, 0xE8), (.tend, 0xE9), (.trig, 0xEA), (.launch, 0xEB)]

end Sys2Proof.Claims

/-- PHASE, TEND, TRIG and LAUNCH end the current phase of the task at their firing, with their boundary behind those that wait for their commit, and
where no task is current make their dequeues and push a token of zero where they name an output, LAUNCH then without a check of its address (log
entry 82); TRAP raises its code as a TRAP fault; BRK asks the load to stop where BRKEN is set; PREPT gives
a region under request the tiles of its mask to keep at its stop; HALT halts its element (R263, R326 to R330, R349, R350, R354). -/
def Obligations.BoundariesTrapsAndStops : Prop :=
  ∀ f s,
    (∀ p ∈ boundaryTable, OwnReady f s → (∀ c, outOf f.dst = some c → s.here.mayPush c kData = true) →
      (s.taskCurrent s.cur.reg = false →
        (outOf f.dst = none → FiresPlain (p.1 f) f s)
        ∧ ∀ c, outOf f.dst = some c → ∃ y, exec (p.1 f) s = .next (s.fired y) ∧ Dequeues f s.here y ∧ y.regs = s.here.regs
          ∧ y.outQ c = s.here.outQ c ++ [⟨seqFor s.here f c, 3, 0, kData, 0, Oct.all 0⟩])
      ∧ (s.taskCurrent s.cur.reg = true → p.2 = 0xEB → (rowVa f s).toNat % 64 ≠ 0 → faultsAt (p.1 f) p.2 s 0x20 (rowVa f s))
      ∧ ∀ k l, s.taskCurrent s.cur.reg = true → OwnLoad s k l → (∀ b ∈ l.bounds, b.cycle ≠ s.cyc) →
        (p.2 = 0xEB → (rowVa f s).toNat % 64 = 0) →
        ∃ u l1 b, exec (p.1 f) s = .next u ∧ u.load k = some l1 ∧ l1.bounds = l.bounds ++ [b] ∧ l1.phase = l.phase + 1
          ∧ l1.ended = (l.ended || p.2 == 0xE9) ∧ l1.vers = l.vers ∧ l1.task = l.task ∧ u.mem = s.mem
          ∧ b.kind = p.2 ∧ b.cycle = s.cyc ∧ b.phase = l.phase ∧ b.reg = s.cur.reg ∧ b.elem = s.cur.elem
          ∧ (p.2 = 0xEB → b.arg = rowVa f s ∧ b.q = 64 + (f.imm.extractLsb' 0 6).toNat))
    ∧ (OwnReady f s → exec (.trap f) s = .next (s.raise s.cur.reg s.cur.elem s.cur.slot 0xEC
        (if f.sa = 30 then FaultRec.of 0x09 (f.imm.extractLsb' 0 8) else (FaultRec.of 0x09 (f.imm.extractLsb' 0 8)).at_ (rowVa f s))))
    ∧ (∀ k l, OwnReady f s → OwnLoad s k l →
      ((s.queue l.queue).brken = false → FiresPlain (.brk f) f s)
      ∧ ((s.queue l.queue).brken = true → l.brk = none → ∃ u l1 g, exec (.brk f) s = .next u ∧ u.load k = some l1 ∧ l1.brk = some g
        ∧ g.cls = 0x09 ∧ g.det = 0xFF ∧ g.resum = true ∧ g.reg = s.cur.reg ∧ l1.ph = l.ph ∧ l1.task = l.task ∧ u.mem = s.mem))
    ∧ (LeadReady f s → (hereRegion s).mode ≠ 1 → (hereRegion s).mode = 0 ∨ (hereRegion s).arr.op = 0 ∧ (hereRegion s).arr.pend = [] →
      FiresPlain (.prept f) f s)
    ∧ (∀ q, LeadReady f s → (hereRegion s).mode = 1 → (hereRegion s).arr.op = 0 → (hereRegion s).arr.pend = [] → (hereRegion s).req = some q →
      (s.stopAsked s.cur.reg = true → q.cyc < s.cyc →
        FiresOn (.prept f) f s (fun g => { g with req := some { q with live := some f.imm } }))
      ∧ (s.stopAsked s.cur.reg = false ∨ s.cyc ≤ q.cyc → FiresPlain (.prept f) f s))
    ∧ (LeadReady f s → ∃ y, exec (.halt f) s = .next (s.fired y) ∧ y.halted = true ∧ Plain f s.here y)

namespace Sys2Proof.Claims

/-- The counters that CNTRD selects (R352): the selection, whether it is 64 bits wide, and the value at the start of the cycle. -/
def counters (s : State) : List (Nat × Bool × Nat) :=
  let r := s.cur.reg
  let of_ := fun (g : Load → Nat) (n : Nat) => ((s.ownerLoad r).map g).getD n
  [(0x00, false, s.here.sflags.toNat), (0x01, true, s.cyc), (0x02, false, (s.taskOf r).toNat), (0x03, false, of_ (·.tile) 0),
    (0x04, true, of_ (fun l => l.watermark s.mem l.phase) s.mem.pw), (0x05, false, of_ (fun l => (s.queue l.queue).used) 0),
    (0x06, false, of_ Load.lines 0)]
  ++ (List.range 9).map fun w => (0x10 + w, true, SMap.get (fun _ => 0) s.sched.stale0 (16 * (s.partOf r).toNat + w))

/-- A register access or template load that the hub refuses (R351, R353): MEM or ENGINE fault with the address, and no register, template or byte of memory
changes. -/
def Refuses (i : Instr) (opc : Byte) (s : State) (cls det : Byte) (va : BitVec 64) : Prop :=
  ∃ (t : State) (who : Option Word), t.sched = s.sched ∧ t.hub = s.hub ∧ t.queues = s.queues ∧ t.mmu = s.mmu ∧ t.links = s.links ∧ t.eng = s.eng ∧ t.mem = s.mem
    ∧ exec i s = .next (t.raise s.cur.reg s.cur.elem (BitVec.ofNat 4 s.cur.slot).toNat opc { (FaultRec.of cls det).at_ va with who := who })

/-- What SYSRD, SYSWR and CFGLD need to fire: the port ready, and credit for the token that they push (R145, R351, R353). -/
def HubReady (opc : Byte) (f : Fields) (s : State) : Prop :=
  PortReady opc f f (Look.lane f) s ∧ ∀ c, outOf f.dst = some c → s.here.mayPush c kData = true

end Sys2Proof.Claims

/-- CNTRD gives every counter that it may select, a 64-bit one to the whole pairs of E, and with `.clr` clears SFLAGS or a STALE counter in the same
step. SYSRD pushes the value of a register that its partition may read, SYSWR writes any register in a privileged partition with its own semantics, and CFGLD
copies a template to its entry; they raise MEM 0x20 at a misaligned operand, MEM 0x24 at an offset without a register, MEM 0x04 and 0x05 where the
partition may not, and ENGINE 0x01 at an entry beyond its count. They act at the end of their firing, log entry 93; the registers that only the host
reaches are log entry 92 (R24, R351, R352, R353, R393). -/
def Obligations.CountersAndDeviceRegisters : Prop :=
  ∀ f s,
    let r := s.cur.reg
    let off := (srcLane s.here f f.sa 0).toNat
    let va := (srcLane s.here f f.sa 0).zeroExtend 64
    let e := execLanes s.here f
    let may := s.privileged (s.partOf r)
    (∀ c ∈ counters s, LaneReady f s → (f.imm.extractLsb' 0 8).toNat = c.1 →
      let clr := f.var.getLsbD 0
      ∃ y u, exec (.cntrd f) s = .next u ∧ u.here = (s.fired y).here ∧ u.mem = s.mem
        ∧ Lands f 0 (if c.2.1 then pairMask e else e) (fun l => BitVec.ofNat 32 (if c.2.1 && l % 2 == 1 then c.2.2 / 2 ^ 32 else c.2.2)) s.here y
        ∧ y.sflags = (if clr = true ∧ c.1 = 0 then 0 else s.here.sflags)
        ∧ (c.1 ≠ 0 → Kept f s.here y)
        ∧ u.sched.stale = if clr = true ∧ 0x10 ≤ c.1 then SMap.set s.sched.stale (16 * (s.partOf r).toNat + (c.1 - 0x10)) 0 else s.sched.stale)
    ∧ (HubReady 0xEF f s →
      (off % 8 ≠ 0 → faultsAt (.sysrd f) 0xEF s 0x20 va)
      ∧ (off % 8 = 0 → s.barValue off = none → Refuses (.sysrd f) 0xEF s 0x04 0x24 va)
      ∧ (s.barValue off ≠ none → may = false → s.ownRegister (s.partOf r) off = false → Refuses (.sysrd f) 0xEF s 0x04 0x04 va)
      ∧ ∀ c v, outOf f.dst = some c → s.here.dueOn (BitVec.ofNat 2 c) = false → s.crossing r s.cur.elem s.here.port.nextId true = false →
        s.barValue off = some v → hostOnly off = false → (may = true ∨ s.ownRegister (s.partOf r) off = true) →
        ∃ u t, exec (.sysrd f) s = .next u ∧ u.here.outQ c = s.here.outQ c ++ [t] ∧ t.kind = kData ∧ t.fmt = 0 ∧ t.vmask = 3
          ∧ t.lanes.get 0 = v.extractLsb' 0 32 ∧ t.lanes.get 1 = v.extractLsb' 32 32 ∧ u.mem = s.mem)
    ∧ (HubReady 0xF0 f s →
      (off % 8 ≠ 0 → faultsAt (.syswr f) 0xF0 s 0x20 va)
      ∧ (off % 8 = 0 → s.barValue off = none → Refuses (.syswr f) 0xF0 s 0x04 0x24 va)
      ∧ (s.barValue off ≠ none → may = false → Refuses (.syswr f) 0xF0 s 0x04 0x05 va)
      ∧ (s.barValue off ≠ none → may = true → 0x40000 ≤ off → off < 0x4C000 → bxslotBad (srcPair s.here f f.sb 0) = true →
        Refuses (.syswr f) 0xF0 s 0x04 0x24 va)
      ∧ (s.barValue off ≠ none → may = true → hostOnly off = false → (0x40000 ≤ off → off < 0x4C000 → bxslotBad (srcPair s.here f f.sb 0) = false) →
        ∃ y u, exec (.syswr f) s = .next u ∧
          let w := (s.fired y).barWrite off (srcPair s.here f f.sb 0) false
          u.sched = w.sched ∧ u.hub = w.hub ∧ u.queues = w.queues ∧ u.mmu = w.mmu ∧ u.links = w.links ∧ u.eng = w.eng ∧ u.loads = w.loads ∧ u.mem = w.mem
            ∧ (∀ q m, u.bxslot q m = w.bxslot q m)
            ∧ (off = 0x10018 → u.sched.tsel = (srcPair s.here f f.sb 0).extractLsb' 0 32)))
    ∧ (HubReady 0xF4 f s →
      let i := (srcLane s.here f f.sb 0).toNat
      let range := s.tplRange (s.partOf r)
      ((rowVa f s).toNat % 128 ≠ 0 → faultsAt (.cfgld f) 0xF4 s 0x20 (rowVa f s))
      ∧ ((rowVa f s).toNat % 128 = 0 → range.2 < i + (f.imm.extractLsb' 0 6).toNat + 1 → Refuses (.cfgld f) 0xF4 s 0x06 0x01 (rowVa f s))
      ∧ ((rowVa f s).toNat % 128 = 0 → f.imm.extractLsb' 0 6 = 0 → i < range.2 →
        ∃ y u, Plain f s.here y ∧ exec (.cfgld f) s = .next u ∧ ∀ bs s1, (s.fired y).agentRead (r / 192) (s.partOf r) (rowVa f s) 128 = (.ok bs, s1) →
          ∀ w, w < 16 → SMap.get (fun _ => (0 : BitVec 64)) u.eng.tpl (65536 * (r / 192) + 16 * (range.1 + i) + w)
            = BitVec.ofNat 64 (fieldAt bs (8 * w) 8)))

/- The configuration stream and the fabric (R12, R13, R47, R60 to R68, R139, R142, R146). -/

namespace Sys2Proof.Claims

/-- A command of an open page acts on the stream of its region in hand and on nothing else, and is counted into its CRC (R63, R65). -/
def Counts (i : Instr) (w : Word) (s : State) (c : CfgStream) : Prop :=
  exec i s = .next (s.setCfg s.cur.reg { c with pos := (s.cfg s.cur.reg).pos + 1, crc := crc16Word (s.cfg s.cur.reg).crc w })

end Sys2Proof.Claims

/-- The commands of a page open it, record and stamp patterns, write fields, note successors and check the CRC, each counted, and PGEND commits a page
without violations and discards one with any; the window commands load their registers and read and write state words of a region that does
not run, WSEL, WLO, WHI and WCTL without a read or write being taken on a running one too (log entry 132), and after a refused one the rest of the stream
is discarded (R63 to R66, R397). -/
def Obligations.ConfigurationCommands : Prop :=
  ∀ (s : State) (v : Half) (e fld : Byte) (k : BitVec 4),
    let r := s.cur.reg
    let c := s.cfg r
    (c.dead = true → ∀ i ∈ [Instr.pgbegin v, .patbegin v, .patend v, .crc v, .succlo v, .succhi v, .pgend v, .rect k v, .elementFieldWrite e fld v,
      .wsel e v, .wlo e v, .whi e v, .wctlNone e v, .wctlWrite e v, .wctlRead e v], exec i s = .next s)
    ∧ (c.dead = false →
    (c.isOpen = false → v.getLsbD 15 = false → v &&& 0x7000 = 0 →
      ∃ u, exec (.pgbegin v) s = .next u ∧ (u.cfg r).isOpen = true ∧ (u.cfg r).keep = false ∧ (u.cfg r).page = v.extractLsb' 0 12
        ∧ (u.cfg r).shadow = [] ∧ (u.cfg r).bad = none ∧ (u.cfg r).pos = 1)
    ∧ (c.isOpen = true → c.recd = none →
      (v &&& 0xFFF0 = 0 → Counts (.patbegin v) (cmdWord 0xFF 0x01 v) s
        { c with recd := some (v.extractLsb' 0 4), pats := SMap.set c.pats (v.extractLsb' 0 4).toNat [] })
      ∧ (v = c.crc → Counts (.crc v) (cmdWord 0xFF 0x03 v) s c)
      ∧ (c.lo = none → Counts (.succlo v) (cmdWord 0xFF 0x04 v) s { c with lo := some v })
      ∧ (c.hi = none → Counts (.succhi v) (cmdWord 0xFF 0x05 v) s { c with hi := some v })
      ∧ (fieldExists e.toNat fld.toNat = true → ∃ u, exec (.elementFieldWrite e fld v) s = .next u
        ∧ SMap.get confDefault (SMap.get (fun _ => []) (u.cfg r).shadow e.toNat) fld.toNat = v ∧ (u.cfg r).bad = c.bad
        ∧ ∀ d, d ≠ e.toNat → SMap.get (fun _ => ([] : SMap Half)) (u.cfg r).shadow d = SMap.get (fun _ => []) c.shadow d)
      ∧ (∀ g x, v &&& 3 = 0 → SMap.find c.pats k.toNat = some [(g, x)] →
        (v.extractLsb' 13 3).toNat + (v.extractLsb' 6 3).toNat ≤ 7 → (v.extractLsb' 9 4).toNat + (v.extractLsb' 2 4).toNat ≤ 15 →
        ∃ u, exec (.rect k v) s = .next u ∧ (u.cfg r).bad = c.bad ∧ ∀ row col, row < 8 → col < 16 →
          SMap.get confDefault (SMap.get (fun _ => []) (u.cfg r).shadow (16 * row + col)) g.toNat =
            if (v.extractLsb' 13 3).toNat ≤ row ∧ row ≤ (v.extractLsb' 13 3).toNat + (v.extractLsb' 6 3).toNat
              ∧ (v.extractLsb' 9 4).toNat ≤ col ∧ col ≤ (v.extractLsb' 9 4).toNat + (v.extractLsb' 2 4).toNat then x
            else SMap.get confDefault (SMap.get (fun _ => []) c.shadow (16 * row + col)) g.toNat))
    ∧ (∀ q, c.isOpen = true → c.recd = some q →
      (v = 0 → Counts (.patend v) (cmdWord 0xFF 0x02 v) s { c with recd := none })
      ∧ (e = 0 → fieldExists 0 fld.toNat = true → (SMap.get (fun _ => ([] : List (Byte × Half))) c.pats q.toNat).length < 256 →
        Counts (.elementFieldWrite e fld v) (cmdWord e fld v) s
          { c with pats := SMap.set c.pats q.toNat (SMap.get (fun _ => []) c.pats q.toNat ++ [(fld, v)]) }))
    ∧ (c.isOpen = true → c.recd = none → v = 0 →
      ∃ u, exec (.pgend v) s = .next u ∧
        if ({ c with pos := c.pos + 1, crc := crc16Word c.crc (cmdWord 0xFF 0x06 v) } : CfgStream).violations = [] then
          (u.cfg r).done = some c.shadow ∧ (u.cfg r).doneKeep = c.keep ∧ (u.cfg r).isOpen = false ∧ u.mem = s.mem
        else (u.cfg r).done = c.done ∧ (u.cfg r).isOpen = false ∧ (u.cfg r).shadow = [])
    ∧ (c.isOpen = false →
      exec (.wsel e v) s = .next (s.onElem e.toNat fun x => { x with wsel := v })
      ∧ exec (.wlo e v) s = .next (s.onElem e.toNat fun x => { x with wlo := v })
      ∧ exec (.whi e v) s = .next (s.onElem e.toNat fun x => { x with whi := v })
      ∧ (v &&& 0xFFF8 = 0 →
        let inc := fun x : Elem => { x with wsel := if v.getLsbD 2 then x.wsel + 1 else x.wsel }
        let x := (s.region r).elem e.toNat
        (∃ u, exec (.wctlNone e v) s = .next u ∧ (u.region r).elem e.toNat = inc x ∧ u.mem = s.mem)
        ∧ ((s.region r).running = false →
          (∀ g, winWrite (s.region r) e.toNat x.wsel (x.whi ++ x.wlo) = some g →
            ∃ u, exec (.wctlWrite e v) s = .next u ∧ (u.region r).elem e.toNat = inc (g.elem e.toNat) ∧ (u.region r).arr = g.arr
              ∧ (u.region r).row = g.row ∧ (u.region r).seq = g.seq ∧ u.mem = s.mem)
          ∧ (s.cur.host = true → ∃ u, exec (.wctlRead e v) s = .next u
            ∧ u.hub.hcwRd = s.hub.hcwRd ++ [winRead (s.region r) e.toNat x.wsel] ∧ (u.region r).elem e.toNat = inc x ∧ u.mem = s.mem)))))

/-- A token leaves its output for every destination at once, when each has room and the region links carry it (log entries 114, 135): into the router of
its stack, or in a flit of its route's stream on the first edge toward another; it enters its channel once it is due and the channel has room, and
a DATA token of a refused fmt is steered to its conversion node, from which it returns to its channel (log entry 119), or raises OPND 0x01 where none is
bound; the side port writes CONV[4:0], and a REQ token adds its count to
the demand credit, saturating (R12, R13, R47, R139, R142, R146, R379, R381). -/
def Obligations.FabricMovesTokens : Prop :=
  ∀ (s : State) (r e k : Nat), s.clocked r = true →
    let x := s.elem r e
    (∀ t, (x.outQ k).head? = some t → (s.region r).converting e k = none → x.route k ≠ [] →
      let ds := x.route k
      (∀ d ∈ ds, s.destOpen r e k ds d = true) → s.linkOpen (s.linksOf r ds) t = true →
      ∃ u, exec (.tokenDepart r e k) s = .next u ∧ (u.elem r e).outQ k = (x.outQ k).drop 1 ∧ u.mem = s.mem
        ∧ ∀ d ∈ ds, ∀ q, s.destRegion r d = some q →
          (q / 192 = r / 192 → (ds.filter fun c => s.destRegion r c == some q && c.elem == d.elem && c.chan == d.chan) = [d] →
            (u.elem q d.elem).transit d.chan = (s.elem q d.elem).transit d.chan ++ [⟨s.cyc + routeLatency r q - 1, t⟩])
          ∧ ∀ b rest, edgePath (r / 192) (q / 192) = b :: rest → (ds.filter fun c => (s.edgesTo r c).head? == some b) = [d] →
            (u.edge b).retryBuf = (s.edge b).retryBuf
              ++ [⟨(s.edge b).txSeq, true, s.streamOf b r e k, s.partOf r, q / 192, [(q, d.elem, d.chan, t)], none, []⟩])
    ∧ (∀ t b i, (x.outQ k).head? = some t → (s.region r).converting e k = some (b, i) → b ≠ e →
      ∃ u, exec (.tokenDepart r e k) s = .next u ∧ (u.elem r e).outQ k = (x.outQ k).drop 1 ∧ (u.elem r b).transit i = ⟨s.cyc, t⟩ :: (s.elem r b).transit i
        ∧ SMap.get (fun _ => []) (u.elem r b).away i = [] ∧ (u.elem r b).sflags = (s.elem r b).sflags ||| 0x40 ∧ u.mem = s.mem)
    ∧ (∀ t ts, SMap.get (fun _ => ([] : List Token)) x.away k = [] → x.transit k = t :: ts → t.due ≤ s.cyc →
      (x.accepts k t.tok = true → x.inRoom k = true →
        ∃ u, exec (.tokenArrival r e k) s = .next u ∧ (u.elem r e).inQ k = x.inQ k ++ [t.tok] ∧ (u.elem r e).transit k = ts
          ∧ (u.elem r e).regs = x.regs ∧ u.mem = s.mem)
      ∧ (x.accepts k t.tok = false → (x.field (165 + k)).getLsbD 15 = false → s.stuck r e = false →
        exec (.tokenArrival r e k) s = .next (s.raise r e 0xFFFF 0 ((FaultRec.of 0x02 0x01).token k t.tok.seq)))
      ∧ ∀ n i, x.accepts k t.tok = false → e < 128 → (x.field (165 + k)).getLsbD 15 = true → n = (x.field (165 + k) &&& 0x7F).toNat →
        i = ((x.field (165 + k)).extractLsb' 13 2).toNat → n ≠ e →
        ∃ u, exec (.tokenArrival r e k) s = .next u ∧ (u.elem r e).transit k = ts
          ∧ SMap.get (fun _ => []) (u.elem r e).away k = [t.tok] ∧ (u.elem r n).transit i = (s.elem r n).transit i ++ [⟨s.cyc + 1, t.tok⟩]
          ∧ (u.region r).steers = ((s.region r).steers.filter fun p => p != (e, k)) ++ [(e, k)] ∧ u.mem = s.mem)
    ∧ (∀ t, s.stuck r e = false → (x.field 162).getLsbD 10 = true → x.head ((x.field 162).extractLsb' 8 2).toNat = some t → t.kind = kCtrl →
      t.vmask.getLsbD 0 = true → t.lanes.get 0 &&& 0xFFFFFFE0 = 0 → (t.lanes.get 0 &&& 7).toNat < 5 →
      ∃ u, exec (.sidePortCtrl r e) s = .next u
        ∧ (u.elem r e).field 162 = (x.field 162 &&& 0xFFE0) ||| ((t.lanes.get 0).extractLsb' 0 16 &&& 0x1F)
        ∧ (u.elem r e).inQ ((x.field 162).extractLsb' 8 2).toNat = (x.inQ ((x.field 162).extractLsb' 8 2).toNat).drop 1)
    ∧ ∀ t, s.stuck r e = false → (x.field (144 + k)).getLsbD 14 = true → x.head k = some t → t.kind = kReq → t.vmask.getLsbD 0 = true →
      let c := ((x.field (144 + k)).extractLsb' 12 2).toNat
      ∃ u, exec (.reqAbsorb r e k) s = .next u ∧ ((u.elem r e).credit c).toNat = min ((x.credit c).toNat + (t.lanes.get 0).toNat) 0xFFFFFFFF
        ∧ (u.elem r e).inQ k = (x.inQ k).drop 1 ∧ (u.elem r e).outq = x.outq

/- Scheduling and pre-emption (R148, R330, R337 to R347). -/

namespace Sys2Proof.Claims

/-- The event asks load `l` to stop (R342): it is stopping, and each of its running regions has the request of this cycle. -/
def AsksToStop (i : Instr) (ld : Nat) (l : Load) (s : State) : Prop :=
  ∃ u l1, exec i s = .next u ∧ u.load ld = some l1 ∧ l1.stop = .asked ∧ l1.ph = l.ph ∧ l1.task = l.task ∧ l1.vers = l.vers ∧ u.mem = s.mem
    ∧ ∀ r ∈ l.regions, (s.region r).rstate = 2 → (u.region r).rstate = 3
      ∧ ∃ q, (u.region r).req = some q ∧ q.cyc = s.cyc ∧ q.live = none

/-- A load that runs: nothing stops it yet. -/
def RunsFreely (l : Load) : Prop := l.frecs = [] ∧ l.abn = false ∧ l.redo = false ∧ l.stop = .none ∧ (l.ph = .running ∨ l.ph = .preload ∨ l.ph = .ended)

/-- The event stops region `r` in place with every tile live (R342): its elements stand as they are. -/
def StopsInPlace (i : Instr) (r : Nat) (s : State) : Prop :=
  ∃ u, exec i s = .next u ∧ (u.region r).rstate = 4 ∧ (u.region r).req = none ∧ (u.region r).live = 0xFFFF
    ∧ (u.region r).elems = (s.region r).elems

/-- The regions that a load needs are free, on stacks that no down edge divides, no KEEP page reserves any, the host has no page open on one, and
the routes find their streams on the regions that are chosen (R63, R148, R152, R379, R382). -/
def Placeable (ld : Nat) (l : Load) (s : State) : Prop :=
  s.keepFor l = [] ∧ l.pages.length = l.npage ∧ l.npage ≤ (s.freeFor (some ld)).length ∧ (∀ e, s.edgeDown e = false)
    ∧ (∀ r, (s.cfg r).isOpen = false) ∧ ∀ rs, s.pick (some ld) l.npage [] = some rs → (s.placeOn ld l rs).routesFit ld = true

end Sys2Proof.Claims

/-- The lottery makes a draw when regions become free, or a queue that needs none or may claim some takes part, and more than one queue does (log entry 150,
the model's reading): it steps its generator and gives the draw to the queue in whose share of the tickets the weight falls; SCHED_SEED takes
1 for 0. A placed load takes a free region for each of its pages, all different, and is loading; that its routes find streams there is judged by
reading its pages before it is placed (log entry 122), and the draw that finds no room excludes its queue (log entry 85); a load stopped in
place resumes on the state that it stopped in (R148, R337, R338, R345). -/
def Obligations.LotteryPlacementAndResume : Prop :=
  ∀ s : State,
    (∀ v, s.reachable = true → exec (.schedSeedWrite v) s = .next { s with sched := { s.sched with
      seed := if v.extractLsb' 0 32 = (0 : Word) then 1 else v.extractLsb' 0 32 } })
    ∧ (s.pwr.trip = true ∨ s.drawers.length ≤ 1 ∨ s.drawDue = false → exec .lotteryDraw s = .next s)
    ∧ (s.pwr.trip = false → 1 < s.drawers.length → s.drawDue = true →
      let tick := fun q => (s.queue q).tick.toNat
      let x := lotteryNext s.sched.seed
      ∃ u, exec .lotteryDraw s = .next u ∧ u.sched.seed = x ∧ u.cyc = s.cyc
        ∧ ∀ pre q post, s.drawers = pre ++ q :: post →
          let below := (pre.map tick).sum
          let w := x.toNat * (s.drawers.map tick).sum / 2 ^ 32
          below ≤ w → w < below + tick q → u = ({ s with sched := { s.sched with seed := x } } : State).seat q)
    ∧ (∀ ld l, s.load ld = some l → s.pwr.trip = false → s.drawers = [l.queue] → s.oldest l.queue = some (ld, l) → l.ph = .waiting →
      Placeable ld l s →
      ∃ u l1, exec (.loadPlacement ld) s = .next u ∧ u.load ld = some l1 ∧ l1.ph = .loading ∧ l1.pages.length = l.npage ∧ u.mem = s.mem
        ∧ ∀ p, p < l.npage → ∃ r c, l1.pages[p]? = some ⟨some r, l.addr, l.addr, false, c⟩ ∧ r ∈ s.freeFor (some ld)
          ∧ (u.region r).owner = some ld ∧ (u.region r).page = p ∧ (u.region r).rstate = 1)
    ∧ ∀ ld l, s.load ld = some l → l.stop = .stopped ∨ l.stop = .out → l.frecs = [] → l.abn = false → (∀ p ∈ l.pages, p.reg ≠ none) →
      s.restoring l = true → s.rowsClosed l = true → s.pwr.trip = false → (∀ v ∈ s.sched.saves, v.load ≠ ld) →
      ∃ u l1, exec (.loadResume ld) s = .next u ∧ u.load ld = some l1 ∧ l1.stop = .none ∧ l1.ph = l.ph ∧ l1.task = l.task ∧ l1.vers = l.vers
        ∧ u.mem = s.mem ∧ ∀ r ∈ l.regions, u.region r = { s.region r with rstate := 2, req := none }

/-- A pre-emption asks every running region of the load to stop; a region stops in place with every tile live, where the array ran
at the request and no PREPT has fired not before 4096 cycles have passed; scan-out moves a stopped region into a save slot of its partition and frees it. A queue at its budget
is switched out, which a load in its interval defers to the interval's end (log entry 85), and where it has no load in progress, switched in when
its period begins anew (log entry 85). The image lies in memory from the slot's base, with the bytes of `State.imageBytes`, whose layout is the model's, as
is the copy that the slot's entry keeps (log entry 89). When a region may stop is log entry 87. QTAIL takes an index that the ring has room
for, and QCMD 1 and 2 switch the queue out and in (R334, R339, R342, R344, R347). -/
def Obligations.PreemptionBudgetsAndQueueCommands : Prop :=
  ∀ s : State,
    (∀ ld l, s.load ld = some l → RunsFreely l →
      (l.brk ≠ none ∨ (s.queue l.queue).swout = true ∧ (s.queue l.queue).byCmd = true
          ∨ (s.queue l.queue).budx = true ∧ (s.queue l.queue).swout = true ∧ s.shielded l = false → AsksToStop (.preemptRequest ld) ld l s)
      ∧ ((s.queue l.queue).np = true → s.shielded l = false → (s.queue l.queue).budx = true → AsksToStop (.npIntervalEnd ld) ld l s)
      ∧ ((s.queue l.queue).np = true → (s.queue l.queue).budx = true → (∀ p ∈ s.loadsOf l.queue, s.shielded p.2 = false) →
        ∃ u, exec (.npIntervalEnd ld) s = .next u ∧ (u.queue l.queue).swout = true)
      ∧ (s.shielded l = true → exec (.npIntervalEnd ld) s = .next s))
    ∧ (∀ r, s.stopAsked r = true →
      ((s.region r).mayStop = true → s.preptMet r = false → StopsInPlace (.regionStop r) r s)
      ∧ ((s.region r).mayStop = false ∨ s.preptMet r = true → exec (.regionStop r) s = .next s)
      ∧ ∀ q, (s.region r).req = some q → (s.region r).mode = 1 →
        (q.late = true → q.live = none → q.cyc + 4096 ≤ s.cyc → (s.region r).arr.half = none → (s.region r).arr.pend = [] → StopsInPlace (.preptFallback r) r s)
        ∧ (q.late = false ∨ s.cyc < q.cyc + 4096 → exec (.preptFallback r) s = .next s))
    ∧ (∀ r ld l n, (s.region r).owner = some ld → s.load ld = some l → (s.region r).rstate = 5 → s.quiet r = true → s.pwr.trip = false →
      s.freeSlot (s.queue l.queue).part = some n →
      ∃ u v, exec (.scanOut r) s = .next u ∧ u.sched.saves = s.sched.saves ++ [v] ∧ v.part = (s.queue l.queue).part ∧ v.slot = n
        ∧ v.load = ld ∧ v.page = (s.region r).page ∧ v.img = s.region r ∧ v.mem = s.mem.regionBytes r
        ∧ (u.region r).rstate = 0 ∧ (u.region r).owner = none ∧ (u.region r).elems = []
        ∧ (∀ a, (a < s.slotBase v.part n ∨ s.slotBase v.part n + (s.imageBytes r).length ≤ a) → u.mem.read a = s.mem.read a)
        ∧ (s.Canonical → ∀ i b, (s.imageBytes r)[i]? = some b → u.mem.read (s.slotBase v.part n + i) = b))
    ∧ (∀ q b, s.budgetOf q = some b → (s.queue q).budx = false →
      (b ≤ (s.queue q).used → ∃ u, exec (.budgetExhaust q) s = .next u ∧ (u.queue q).budx = true
        ∧ (u.queue q).swout = ((s.queue q).swout || !((s.loadsOf q).any fun p => s.shielded p.2)))
      ∧ ((s.queue q).used < b → exec (.budgetExhaust q) s = .next s))
    ∧ (∃ u, exec .budgetPeriodStart s = .next u ∧ ∀ q, (u.queue q).usedNs = 0 ∧ (u.queue q).budx = false
      ∧ ((s.queue q).swout = true → (s.queue q).byCmd = false → s.loadsOf q = [] →
        (u.queue q).swout = false ∧ (u.queue q).tail = (s.queue q).shadow.getD (s.queue q).tail ∧ (u.queue q).prog = (s.queue q).prog))
    ∧ (s.reachable = true → ∀ q,
      (∀ v, q < 64 → exec (.qtailWrite q v) s =
        .next (s.setQueue q (if (v - (s.queue q).prog).toNat ≤ 2 ^ (s.queue q).log2n ∧ (v - (s.queue q).tail).toNat < 2 ^ 31
          then (if (s.queue q).swout then { s.queue q with shadow := some v } else { s.queue q with tail := v })
          else { s.queue q with terr := true })))
      ∧ (∀ v, 64 ≤ q → q < 128 → exec (.qtailWrite q v) s = .next (s.setQueue q { s.queue q with terr := true }))
      ∧ ((s.queue q).swout = false → ∃ u, exec (.qcmdStop q) s = .next u ∧ (u.queue q).swout = true ∧ (u.queue q).byCmd = true
        ∧ (u.queue q).saved = (s.queue q).prog)
      ∧ ((s.queue q).swout = true → (s.queue q).byCmd = true → ∃ u, exec (.qcmdResume q) s = .next u ∧ (u.queue q).swout = false
        ∧ (u.queue q).tail = (s.queue q).shadow.getD (s.queue q).tail ∧ (u.queue q).shadow = none ∧ (u.queue q).prog = (s.queue q).prog))

/- Graphs, loads and tasks (R148 to R154, R260 to R266, R306 to R309, R321, R323, R326 to R328, R332 to R336, R349). -/

namespace Sys2Proof.Claims

/-- A load with no fault and no stop in its way. -/
def Unhindered (l : Load) (s : State) : Prop := l.frecs = [] ∧ l.abn = false ∧ s.pwr.trip = false

/-- The bytes at an address. -/
def Holds (m : Mem) (a : Nat) (bs : List Byte) : Prop := ∀ j, j < bs.length → m.read (a + j) = bs.getD j 0

/-- The configuration that the committed page of a region gives element `e`. -/
def committed (g : Region) (e : Nat) : SMap Half := SMap.get (fun _ => []) (g.cfg.done.getD []) e

end Sys2Proof.Claims

/-- A packet that may start is read, and its graph, count, releases and arguments are kept; a graph's entry brings a load into being; a load
whose pages have committed takes effect on all its regions at once, fresh pages with a zero scratchpad, unless the lowest page that breaks a
cross-page check stops it, or its routes find no streams and it waits again; preload entries are copied; a tile starts with the argument token in every ARG channel and the published watermark
as its snapshot; a completed load is gone and its regions are no load's; a graph ends at 0xFFFF (R148 to R154, R306, R332). That a load
gives its regions back where its streams no longer fit is log entry 122, that the lowest page is named by a cross-page check log entry 97, and
that an argument token whose fmt its channel refuses stands in the router log entry 138. -/
def Obligations.GraphsBecomeTiles : Prop :=
  ∀ s : State,
    (∀ q k, q < 128 → (s.queue q).mayStart k = true →
      let pa := (s.queue q).packetAddr k
      let b := s.mem.readBytes pa 64
      s.mem.isLost pa 64 = false → packetBad b = false →
      ∃ u p, exec (.packetStart q k) s = .next u ∧ u.packet q k = some p ∧ p.gaddr = BitVec.ofNat 64 (fieldAt b 0 8)
        ∧ p.tiles = BitVec.ofNat 32 (fieldAt b 8 4) ∧ p.nrel = BitVec.ofNat 4 (fieldAt b 12 1)
        ∧ ∀ l, l < 8 → p.args.get l = BitVec.ofNat 32 (fieldAt b (32 + 4 * l) 4))
    ∧ (∀ q k i p e s1, s.packet q k = some p → s.agentRead 0 (s.queue q).part (entryAddr p.gaddr i) 32 = (.ok e, s1) → entryBad e = false →
      let n := s.sched.nextLoad
      let u := s.enterLoad q k i
      ∃ l, u.load n = some l ∧ l.ph = .waiting ∧ l.queue = q ∧ l.pkt = k ∧ l.index = i ∧ l.npage = fieldAt e 8 2
        ∧ l.addr = BitVec.ofNat 64 (fieldAt e 0 8) ∧ l.tiles = (if fieldAt e 28 4 = 0 then p.tiles.toNat else fieldAt e 28 4)
        ∧ u.sched.nextLoad = n + 1 ∧ u.mem.bytes = s1.mem.bytes)
    ∧ (∀ ld l, s.load ld = some l → l.ph = .loading → (∀ p ∈ l.pages, p.done = true ∧ p.reg ≠ none) → Unhindered l s → l.regions.Nodup →
      match crossBad (l.regions.map fun r => (s.region r).cfg.done.getD []) with
      | some p => exec (.loadActivation ld) s = .next (s.stopFault ld (loadRec (FaultRec.of 0x01 0x0B) p (l.regions.getD p 0)))
      | none =>
        (s.streamsFit ld (s.loadEdges l) = false →
          ∃ u l1, exec (.loadActivation ld) s = .next u ∧ u.load ld = some l1 ∧ l1.ph = .waiting ∧ ∀ p ∈ l1.pages, p.reg = none)
        ∧ (s.streamsFit ld (s.loadEdges l) = true →
        let pre := ((s.packet l.queue l.pkt).map fun p => p.preloads l.index).getD []
        ∃ u l1, exec (.loadActivation ld) s = .next u ∧ u.load ld = some l1 ∧ l1.again = true ∧ l1.pre = pre
          ∧ l1.ph = (if pre = [] then (if l.tiles ≤ l.tile then .ended else .running) else .preload)
          ∧ (l1.due = true ↔ pre = [] ∧ l.tile < l.tiles)
          ∧ ∀ p r, l.regions[p]? = some r → (u.region r).rstate = 2 ∧ (u.region r).page = p
            ∧ (∀ e, ((u.region r).elem e).conf = committed (s.region r) e)
            ∧ ((s.region r).cfg.doneKeep = false →
              (∀ e k, ((u.region r).elem e).reg k = Oct.all 0 ∧ ((u.region r).elem e).inQ k = [])
              ∧ ∀ a, spadAddr r 0 0 ≤ a → a < spadAddr r 0 0 + 0x80000 → u.mem.read a = 0)))
    ∧ (∀ ld i l, s.load ld = some l → l.ph = .preload → i ∈ l.pre → Unhindered l s → l.stop = .none →
      let e := (((s.packet l.queue l.pkt).map (·.table)).getD []).getD i []
      let r := l.regions.getD (fieldAt e 2 2) 0
      let src := BitVec.ofNat 64 (fieldAt e 16 8)
      let dst := spadAddr r (fieldAt e 4 1) (fieldAt e 8 4)
      let t := s.copyIn (r / 192) (s.queue l.queue).part (fieldAt e 12 4 / 32) src dst
      (t.2 = none → ∃ u l1, exec (.preloadCopy ld i) s = .next u ∧ u.mem = t.1.mem ∧ u.load ld = some l1 ∧ l1.pre = l.pre.filter (· != i)
        ∧ l1.ph = (if l1.pre = [] then (if l.tiles ≤ l.tile then .ended else .running) else .preload))
      ∧ (∀ a, t.2 = some a → exec (.preloadCopy ld i) s
        = .next (t.1.stopFault ld (loadRec ((FaultRec.of 0x01 0x11).at_ a) (fieldAt e 2 2) r)))
      ∧ ∀ stack part n va a bs s1, s.Canonical → s.agentRead stack part va 32 = (.ok bs, s1) → n = 1 →
        (s.copyIn stack part n va a).2 = none ∧ Holds (s.copyIn stack part n va a).1.mem a bs
          ∧ (s.copyIn stack part n va a).1.mem.isFull a 32 = true)
    ∧ (∀ ld l, s.load ld = some l → l.ph = .running → l.due = true → Unhindered l s → l.stop = .none → l.regions.Nodup →
      (∀ r ∈ l.regions, (s.region r).rstate = 2 ∧ ∀ p ∈ (s.region r).elems, ∀ k ∈ p.2.argChans, p.2.inRoom k = true) →
      let t : Token := ⟨BitVec.ofNat 12 l.tile, 0xFF, 0, kData, 0, ((s.packet l.queue l.pkt).map (·.args)).getD (Oct.all 0)⟩
      ∃ u l1, exec (.tileStart ld) s = .next u ∧ u.load ld = some l1 ∧ l1.due = false ∧ l1.task = some ⟨s.sched.nextTask, s.mem.pw⟩
        ∧ l1.ended = false ∧ u.sched.nextTask ≠ 0 ∧ u.mem = s.mem
        ∧ ∀ r ∈ l.regions, ∀ e x, SMap.find (s.region r).elems e = some x → ∀ k,
          let y := (SMap.find (u.region r).elems e).getD x
          y.inQ k = x.inQ k ++ (if k ∈ x.argChans ∧ x.accepts k t = true then [t] else [])
          ∧ y.transit k = x.transit k ++ (if k ∈ x.argChans ∧ x.accepts k t = false then [⟨s.cyc, t⟩] else []))
    ∧ (∀ ld l, s.load ld = some l → l.ph = .ended → l.bounds = [] → Unhindered l s → l.stop = .none → l.brk = none →
      s.settled false l = true →
      ld < s.sched.nextLoad →
      ∃ u, exec (.loadComplete ld) s = .next u ∧ u.load ld = none ∧ ∀ r ∈ l.regions, (u.region r).owner = none)
    ∧ ∀ q k i p e s1, s.packet q k = some p → s.agentRead 0 (s.queue q).part (entryAddr p.gaddr i) 32 = (.ok e, s1) → entryBad e = false →
      fieldAt e 14 2 = 0 → fieldAt e 10 2 = 0xFFFF →
      ∃ p1, (s.chooseNext q k i).packet q k = some p1 ∧ p1.st = 2 ∧ p1.load = none

/-- Once the stores of a phase have completed, its version is committed as one, with one CSN where it has bytes, the task goes on under the
published watermark or, after a TEND, ends; a TRIG releases the next packets of its queue that have not started, below TAIL
as it was at the commit; a LAUNCH has its packet read, or faults, and appends it once its queue has room; a finished packet
has its STATUS and its queue's PROG covers it. A stopped task leaves no version and its queue is held, or its graph abandoned; QFCMD 1, 2 and
3 load it again, at once or, after a break, when what it issued has run to completion, abandon it, or end a break (R263, R307 to R309, R323, R327,
R330, R334 to R336, R349). When a commit waits is log entry 49, what a release counts log entry 83, that a stop discards the boundaries log
entry 50, that a held load keeps its task log entry 78, and that QFCMD acts on every held load log entry 80. -/
def Obligations.CommitsReleasesAndStops : Prop :=
  ∀ s : State,
    (∀ ld l b, s.load ld = some l → Unhindered l s → l.bounds.head? = some b → l.bounds.filter (fun c => c.phase == b.phase) = [b] →
      let cells := l.version b.phase
      ((s.bodies ld l).all fun g => g.globals.all fun a => !(a.storing && decide (a.phase ≤ b.phase))) = true →
      (∀ n ∈ linesOf cells, n ∉ l.vbad) →
      let s1 := if cells = [] then s else s.publish cells
      ∃ u l1, exec (.commitPublish ld) s = .next u ∧ u.load ld = some l1 ∧ u.mem.bytes = s1.mem.bytes
        ∧ u.mem.csn = (if cells = [] then s.mem.csn else s.mem.csn + 1) ∧ SMap.find l1.vers b.phase = none ∧ b ∉ l1.bounds
        ∧ (b.kind = 0xE9 → l1.task = none ∧ l1.tile = l.tile + 1 ∧ l1.ph = if l.tile + 1 < l.tiles then .running else .ended)
        ∧ (b.kind ≠ 0xE9 → l1.tile = l.tile ∧ l1.task = l.task.map fun t => { t with csn := u.mem.pw })
        ∧ (b.kind = 0xEB → ∃ a, u.sched.launches = s.sched.launches ++ [a] ∧ a.dest = b.q ∧ a.addr = b.arg)
        ∧ ∀ c, b.kind ≠ 0xEB → b.chan = some c → (s.region b.reg).owner = some ld → s.savedPage ld b.reg = none →
          ∃ t, (u.elem b.reg b.elem).outQ c.toNat = (s.elem b.reg b.elem).outQ c.toNat ++ [t] ∧ t.kind = kData ∧ t.fmt = 0 ∧ t.vmask = 3
            ∧ t.lanes.get 0 = BitVec.ofNat 32 (if cells = [] then 0 else s.mem.csn))
    ∧ (∀ q k p tail, s.packet q k = some p → p.relp = some tail →
      let x := s.queue q
      let top := (tail - x.prog).toNat
      let at_ := (BitVec.ofNat 32 k - x.prog).toNat
      let fresh := fun n => ((List.range n).filter fun j => decide (at_ < j)
        && !((SMap.find x.pkts (x.prog + BitVec.ofNat 32 j).toNat).map Packet.begun).getD false).length
      let old := (x.rel - x.prog).toNat
      at_ < top → top ≤ 2 ^ 16 →
      ∃ u n, exec (.trigRelease q k) s = .next u ∧ u.packet q k = some { p with relp := none }
        ∧ at_ < n ∧ n ≤ top ∧ fresh n = min p.nrel.toNat (fresh top)
        ∧ (u.queue q).rel = (if n ≤ old ∧ old ≤ 2 ^ 16 then x.rel else x.prog + BitVec.ofNat 32 n))
    ∧ (∀ n a bs, (s.sched.launches.find? fun a => a.dest == 64 + n) = some a → a.data = some bs →
      let x := s.queue a.dest
      s.pwr.trip = false → (x.shownTail - x.prog).toNat < 2 ^ x.log2n →
      ∃ u, exec (.launchAppend n) s = .next u ∧ u.sched.launches = s.sched.launches.erase a ∧ (u.queue a.dest).shownTail = x.shownTail + 1
        ∧ (u.queue a.dest).tail = (if x.swout = true then x.tail else x.shownTail + 1)
        ∧ u.packet a.dest x.shownTail.toNat = some { Packet.new with parent := some (a.queue, a.pkt) }
        ∧ (s.Canonical → Holds u.mem (x.packetAddr x.shownTail.toNat) bs)
        ∧ ∀ c, a.chan = some c → a.out = true → (s.region a.reg).owner = some a.load → s.savedPage a.load a.reg = none →
          ∃ t, (u.elem a.reg a.elem).outQ c.toNat = (s.elem a.reg a.elem).outQ c.toNat ++ [t] ∧ t.kind = kData
            ∧ t.lanes.get 0 = x.shownTail ∧ t.lanes.get 1 = BitVec.ofNat 32 a.dest)
    ∧ (∀ n pre a post, (s.sched.launches.filter fun a => a.dest == 64 + n) = pre ++ a :: post → a.data = none → s.pwr.trip = false →
      (∀ b ∈ pre, b.data ≠ none) →
      let x := s.queue (64 + n)
      pre = [] ∨ 2 ^ x.log2n ≤ (x.shownTail - x.prog).toNat →
      let dropped : State := { s with sched := { s.sched with launches := s.sched.launches.erase a } }
      (x.part ≠ (s.queue a.queue).part →
        exec (.launchAppend n) s = .next (dropped.launchFault a ((FaultRec.of 0x04 0x06).at_ (BitVec.ofNat 64 (64 + n)))))
      ∧ (x.part = (s.queue a.queue).part →
        (∀ b s1, s.agentRead 0 x.part a.addr 64 = (.error b, s1) → exec (.launchAppend n) s = .next
          (({ s1 with sched := { s1.sched with launches := s.sched.launches.erase a } } : State).launchFault a
            ((FaultRec.of b.1 b.2).at_ a.addr)))
        ∧ (∀ bs s1, s.agentRead 0 x.part a.addr 64 = (.ok bs, s1) → ∃ u, exec (.launchAppend n) s = .next u ∧ u.mem = s1.mem
          ∧ u.sched.launches = s.sched.launches.map fun c => if c = a then { c with data := some bs } else c)))
    ∧ (∀ q k p, s.packet q k = some p → p.st = 2 ∨ p.st = 3 → p.fin = false → p.load = none → p.relp = none → s.children [(q, k)] = [] →
      (∀ a ∈ s.sched.launches, a.queue = q → a.pkt ≠ k) → s.Canonical →
      ∃ u, exec (.packetFinish q k) s = .next u ∧ Holds u.mem ((s.queue q).packetAddr k + 14) [if p.st = 2 then 2 else 3, 0]
        ∧ (u.queue q).abn = ((s.queue q).abn || p.st == 3)
        ∧ (k = (s.queue q).prog.toNat → (∀ p1, s.packet q ((s.queue q).prog + 1).toNat = some p1 → p1.fin = false) →
          (u.queue q).prog = (s.queue q).prog + 1))
    ∧ (∀ ld l, s.load ld = some l → l.abn = false → l.redo = false → l.frecs ≠ [] →
      l.ph = .loading ∨ (l.ph = .preload ∨ l.ph = .running) ∧ s.mayStop l = true →
      ((s.queue l.queue).pol = 1 → (s.queue l.queue).rlim = 0 →
        ∃ u l1, exec (.taskStop ld) s = .next u ∧ u.load ld = some l1 ∧ l1.ph = .faulted ∧ l1.vers = [] ∧ l1.bounds = [] ∧ l1.frecs = []
          ∧ l1.task = l.task ∧ (u.queue l.queue).held = true ∧ ∀ r ∈ l.regions, (u.region r).rstate = 4)
      ∧ (∀ p, (s.queue l.queue).pol = 0 → s.packet l.queue l.pkt = some p → p.fin = false → p.load = some ld →
        ∃ u l1 p1, exec (.taskStop ld) s = .next u ∧ u.load ld = some l1 ∧ l1.abn = true ∧ u.packet l.queue l.pkt = some p1 ∧ p1.st = 3))
    ∧ (s.reachable = true → ∀ q,
      (∀ ld l, s.heldLoads q = [(ld, l)] → s.heldPackets q = [] → (∀ p ∈ l.pages, p.reg ≠ none) →
        ∃ u l1, exec (.qfcmdRestart q) s = .next u ∧ u.load ld = some l1 ∧ l1.vers = [] ∧ l1.task = none ∧ l1.tile = l.tile
          ∧ (l.ph = .faulted → l1.ph = .loading ∧ l1.restarts = l.restarts + 1 ∧ ∀ r ∈ l.regions, (u.region r).rstate = 1)
          ∧ (l.ph ≠ .faulted → l1.redo = true ∧ l1.brk = none ∧ l1.ph = l.ph ∧ l1.restarts = l.restarts))
      ∧ (∀ ld l, s.load ld = some l → l.abn = false → l.redo = true →
        (s.settled true l = false → exec (.taskStop ld) s = .next s)
        ∧ (s.settled true l = true → (∀ p ∈ l.pages, p.reg ≠ none) →
          ∃ u l1, exec (.taskStop ld) s = .next u ∧ u.load ld = some l1 ∧ l1.ph = .loading ∧ l1.restarts = l.restarts + 1 ∧ l1.redo = false
            ∧ l1.tile = l.tile ∧ ∀ r ∈ l.regions, (u.region r).rstate = 1))
      ∧ (∀ ld l p, (ld, l) ∈ s.heldLoads q → s.packet q l.pkt = some p → p.fin = false →
        ∃ u p1, exec (.qfcmdAbandon q) s = .next u ∧ u.packet q l.pkt = some p1 ∧ p1.st = 3 ∧ p1.bad = false)
      ∧ ∀ ld l, s.load ld = some l → l.queue = q → l.atBreak = true →
        ∃ u l1, exec (.qfcmdResume q) s = .next u ∧ u.load ld = some l1 ∧ l1.brk = none)

/- The block-transfer engines and weight-driven mode (R279 to R300, R355 to R371). -/

namespace Sys2Proof.Claims

/-- Coordinate `k` of the element of ordinal `n` of a copy (R285). -/
def copyCoord (t : List (BitVec 64)) (n k : Nat) : Int := tplOrg t k + (tplIndex t n k : Int)

/-- Whether an element lies inside the edges of its template (R286). -/
def Inside (t : List (BitVec 64)) (n : Nat) : Prop := ∀ k, k < 4 → 0 ≤ copyCoord t n k ∧ copyCoord t n k < (tplLim t k : Int)

/-- The source address of an element of a copy without transformation (R285). -/
def sourceOf (c : Copy) (n : Nat) : BitVec 64 :=
  c.tpl.getD 0 0 + c.adjs + BitVec.ofInt 64 (copyCoord c.tpl n 0 * tplE c.tpl + copyCoord c.tpl n 1 * tplSstr c.tpl 1
    + copyCoord c.tpl n 2 * tplSstr c.tpl 2 + copyCoord c.tpl n 3 * tplSstr c.tpl 3)

/-- The sequencer of the region in hand. -/
def hereSeq (s : State) : Sequencer := (hereRegion s).seq

/-- A block can begin at the region in hand (R363). -/
def BlockReady (s : State) : Prop :=
  s.seqRuns s.cur.reg = true ∧ (hereSeq s).phase = .ready ∧ (hereRegion s).arr.op = 0 ∧ (hereRegion s).arr.pend = []

/-- The block takes effect as `P` says, and the sequencer goes on to fetch the block at `a` in a later cycle (R360, R363). -/
def GoesTo (i : Instr) (s : State) (a : BitVec 64) (P : State → Prop) : Prop :=
  ∃ u, exec i s = .next u ∧ P u ∧ (hereSeq u).addr = a ∧ (hereSeq u).phase = .fetch ∧ (hereSeq u).hdr = none ∧ s.cyc < (hereSeq u).from_

/-- A cycle of a block that writes units of 16 bytes, four in a cycle from unit `k` of `all` upward, as `P` says (R363, R365, R366): with the
last unit the sequencer goes on to `a`, and otherwise the block stands with its progress noted. -/
def WritesPiece (i : Instr) (s : State) (k all : Nat) (a : BitVec 64) (P : State → Prop) : Prop :=
  (all ≤ k + 4 → GoesTo i s a P)
  ∧ (k + 4 < all → ∃ u, exec i s = .next u ∧ P u ∧ (hereSeq u).phase = .run ∧ (hereSeq u).hdr = (hereSeq s).hdr ∧ (hereSeq u).prog = k + 4
      ∧ (hereSeq u).from_ = s.cyc + 1)

/-- The units that a LOADS writes (R365): as many as its payload holds, or 128 where its bitmap says which are present. -/
def unitCount (h : BlockHdr) : Nat := if h.sparse = 0 then h.len.toNat else 128

/-- Whether unit `i` of a LOADS is present (R365): its bit in the bitmap is set. -/
def unitPresent (h : BlockHdr) (pay : List Byte) (i : Nat) : Bool :=
  h.sparse == 0 || (pay.getD (h.metaOff.toNat + i / 8) 0).getLsbD (i % 8)

/-- Byte `o` of unit `i` of a LOADS (R365): of a sparse one, the units present lie in order in the payload around its bitmap, and one absent is
zero. -/
def unitByte (h : BlockHdr) (pay : List Byte) (i o : Nat) : Byte :=
  if h.sparse = 0 then pay.getD (16 * i + o) 0
  else if unitPresent h pay i then
    let n := ((List.range i).filter (unitPresent h pay)).length
    pay.getD (16 * (if n < h.metaOff.toNat / 16 then n else n + 1) + o) 0
  else 0

/-- What a cycle of a LOADS does at the region in hand (R365): four units from unit `k` upward, and with F4 their scale bytes. -/
def LoadsPiece (h : BlockHdr) (k : Nat) (s u : State) : Prop :=
  let g := hereRegion s
  let base := (h.route.extractLsb' 0 7).toNat
  let now := fun i => k ≤ i ∧ i < k + 4
  u.mem = s.mem ∧ (hereSeq u).table = g.seq.table
  ∧ ∀ i, i < unitCount h →
    (∀ o, o < 16 → (hereRegion u).arr.byte (32 * base + 16 * i + o)
      = if now i then unitByte h g.seq.pay i o else g.arr.byte (32 * base + 16 * i + o))
    ∧ (hereRegion u).arr.scale (2 * base + i) =
      if now i ∧ h.fmt = 4 then (if unitPresent h g.seq.pay i then SMap.get (fun _ => 0) g.seq.table (h.scale.toNat + i) else 0)
      else g.arr.scale (2 * base + i)

/-- What a cycle of a SETSCALE does at the region in hand (R366): 64 bytes of the scale table from byte 16·`k` of the payload upward. -/
def ScalePiece (h : BlockHdr) (k : Nat) (s u : State) : Prop :=
  u.mem = s.mem ∧ (hereRegion u).arr = (hereRegion s).arr
  ∧ ∀ i, i < (hereSeq s).pay.length →
    let n := (h.route.extractLsb' 0 8).toNat + i
    SMap.get (fun _ => 0) (hereSeq u).table n =
      if 16 * k ≤ i ∧ i < 16 * k + 64 then (hereSeq s).pay.getD i 0 else SMap.get (fun _ => 0) (hereSeq s).table n

/-- The block begins an operation and stands until it has completed (R363). -/
def BeginsRun (i : Instr) (s : State) (P : State → Prop) : Prop :=
  ∃ u, exec i s = .next u ∧ P u ∧ (hereSeq u).phase = .run ∧ (hereSeq u).hdr = (hereSeq s).hdr ∧ u.mem = s.mem

end Sys2Proof.Claims

/-- A free channel accepts its oldest start: the template and the adjustments are captured, a refused one leaves it free. An element
outside the edges is the pad value, one inside is read at its source address, and written at its target with its words set full; a
copy to the fabric pushes tokens of 32 bytes and the CMPL of a full group; a copy that has written everything performs its completion and
frees its channel (R281 to R286, R292, R294 to R296). That elements are read in ordinal order and written by whole 64-bit words is log entry 65,
the place that a restored page is meant by log entry 69, that a copy to the fabric gives CMPL tokens with CPL 3 only log entry 66, and the waiting
for what crosses a die edge log entry 101. -/
def Obligations.CopiesMoveElements : Prop :=
  ∀ (s : State) (x ch : Nat),
    (∀ st rest, (s.chan x ch).run = none → (s.chan x ch).starts = st :: rest → s.pwr.trip = false →
      let r := s.tplRange st.part
      let t := s.template (x / 192) (r.1 + st.idx.toNat)
      ∃ u, exec (.copyAccept x ch) s = .next u ∧ (u.chan x ch).starts = rest ∧ (u.chan x ch).adjs = 0 ∧ (u.chan x ch).adjd = 0
        ∧ (r.2 ≤ st.idx.toNat ∨ templateBad t = true → (u.chan x ch).run = none)
        ∧ (st.idx.toNat < r.2 → templateBad t = false → tplDfab t = false → ∃ c, (u.chan x ch).run = some c ∧ c.tpl = t ∧ c.pos = 0
          ∧ c.adjs = (s.chan x ch).adjs ∧ c.adjd = (s.chan x ch).adjd ∧ c.by_ = st))
    ∧ (∀ c n, ¬ Inside c.tpl n → s.element x c n = .ok s (padValue c.tpl))
    ∧ (∀ c p s1, (s.chan x ch).run = some c → s.pwr.trip = false → s.inFlight x = false → c.pos < tplCount c.tpl → c.asked = none → c.held = [] → c.hand = [] →
      tplDfab c.tpl = false → tplXform c.tpl = 0 → tplRed c.tpl = 0 → c.spill = [] → Inside c.tpl c.pos →
      (sourceOf c c.pos).toNat % 0x10000 + tplE c.tpl ≤ 0x10000 → (c.target c.pos).toNat % 8 + tplE c.tpl ≤ 8 →
      s.translate (x / 192) c.by_.part (sourceOf c c.pos) .r = (.ok p, s1) → p.kind = 0 → s.cut x p = false →
      s.lostAt c p (tplE c.tpl) = none → s.Canonical →
      let bs := s1.mem.readBytes p.addr (tplE c.tpl)
      (tplE c.tpl < 8 → c.pos + 1 < tplCount c.tpl → ∃ u c1, exec (.copyElement x ch) s = .next u ∧ (u.chan x ch).run = some c1
        ∧ c1.pos = c.pos + 1 ∧ c1.tpl = c.tpl ∧ c1.hand.map (·.2) = bs ∧ u.mem = s1.mem)
      ∧ ∀ q s2, (tplE c.tpl = 8 ∨ c.pos + 1 = tplCount c.tpl) → s1.translate (x / 192) c.by_.part (c.target c.pos) .w = (.ok q, s2) →
        q.kind = 1 → s1.cut x q = false → s1.pausedAt c q = false →
        ∃ u c1, exec (.copyElement x ch) s = .next u ∧ (u.chan x ch).run = some c1 ∧ c1.pos = c.pos + 1 ∧ c1.tpl = c.tpl ∧ c1.hand = []
          ∧ Holds u.mem (c.moved q).addr bs ∧ u.mem.isFull (c.moved q).addr (tplE c.tpl) = true)
    ∧ (∀ c l pg r, (s.chan x ch).run = some c → tplDfab c.tpl = true → s.load c.by_.load = some l →
      c.held = [] → l.pages[((c.tpl.getD 1 0).extractLsb' 0 10).toNat]? = some pg → pg.reg = some r → s.clocked r = true →
      let e := 144 + ((c.tpl.getD 1 0).extractLsb' 10 1).toNat
      let o := ((c.tpl.getD 1 0).extractLsb' 11 2).toNat
      (s.elem r e).room o = true →
      (tplCpl c.tpl ≠ 3 → 32 ≤ c.fab.length → (s.elem r e).mayPush o kData = true →
        ∃ u t c1, exec (.dfabPush x ch) s = .next u ∧ (u.elem r e).outQ o = (s.elem r e).outQ o ++ [t] ∧ t.kind = kData ∧ t.vmask = 0xFF
          ∧ t.fmt = BitVec.ofNat 3 (ctlField c.tpl 16 3) ∧ t.lanes = octOfBytes (fun n => c.fab.getD n 0)
          ∧ (u.chan x ch).run = some c1 ∧ c1.fab = c.fab.drop 32 ∧ c1.grp = c.grp + 1 ∧ u.mem = s.mem)
      ∧ (tplCpl c.tpl = 3 → c.grp ≠ 0 → c.grp = (tplWord c.tpl 112).toNat / 2 ^ 16 →
        ∃ u t c1, exec (.dfabPush x ch) s = .next u ∧ (u.elem r e).outQ o = (s.elem r e).outQ o ++ [t] ∧ t.kind = kCmpl
          ∧ t.lanes.get 0 = BitVec.ofNat 32 ((tplWord c.tpl 112).toNat % 2 ^ 12) ∧ t.lanes.get 1 = BitVec.ofNat 32 c.grp
          ∧ t.lanes.get 2 = 0xCF ∧ (u.chan x ch).run = some c1 ∧ c1.fab = c.fab ∧ c1.grp = 0))
    ∧ (∀ c, (s.chan x ch).run = some c → s.pwr.trip = false → s.inFlight x = false → c.pos = tplCount c.tpl → c.held = [] → c.spill = [] → c.acks = 0 → c.fab = [] → c.grp = 0 →
      (tplCpl c.tpl = 0 ∨ tplCpl c.tpl = 3 → ∃ u, exec (.copyCompletion x ch) s = .next u ∧ (u.chan x ch).run = none ∧ u.mem = s.mem)
      ∧ ∀ p s1, s.translate (x / 192) c.by_.part (c.tpl.getD 11 0) .w = (.ok p, s1) → p.kind = 1 → s.cut x p = false →
        s.pausedAt c p = false → s.Canonical →
        let a := (c.moved p).addr
        (tplCpl c.tpl = 1 → ∃ u, exec (.copyCompletion x ch) s = .next u ∧ (u.chan x ch).run = none
          ∧ Holds u.mem a (leBytes 8 (c.tpl.getD 12 0).toNat) ∧ u.mem.isFull a 8 = true)
        ∧ ∀ w f, tplCpl c.tpl = 2 → s1.mem.isLost a 8 = false →
          barrierWord (BitVec.ofNat 64 (s1.mem.readLe a 8)) (tplCount c.tpl * tplO c.tpl) = some (w, f) →
          ∃ u, exec (.copyCompletion x ch) s = .next u ∧ (u.chan x ch).run = none ∧ Holds u.mem a (leBytes 8 w.toNat)
            ∧ (f = true → u.mem.isFull a 8 = true) ∧ (f = false → u.mem.full = s1.mem.full))
    ∧ ∀ (w : BitVec 64) n, let need := (w.extractLsb' 32 32).toNat
      let got := (w.extractLsb' 0 31).toNat + n
      0 < need → need < 2 ^ 31 →
      (got < need → barrierWord w n = some (w + BitVec.ofNat 64 n, false))
      ∧ (need ≤ got → got - need < 2 ^ 31 → ∃ v, barrierWord w n = some (v, true) ∧ v.extractLsb' 32 32 = w.extractLsb' 32 32
        ∧ v.getLsbD 31 = !w.getLsbD 31 ∧ (v.extractLsb' 0 31).toNat = got - need)

/-- WDENTER enters weight-driven mode at the chain's first block. A fetched block is checked, and one whose CRC differs faults; LOADS writes
storage, SETSCALE the scale table, ZERO clears tiles, STREAM pushes its tokens one by one, CONTRACT and DRAIN begin an array operation, SYNC
takes its token, and a token of another kind faults, and JUMP, JUMPIF, CALLT, RETT and END steer the chain (R355 to R371). How the checks of a
block are read is log entry 71, that LOADS and SETSCALE write from the cycle in which they begin log entry 72, what SYNC asks of its token log entry 73, and the
read of JUMPIF log entry 74; lines behind a die edge wait for what crosses it (log entry 101). -/
def Obligations.PralineBlocksRun : Prop :=
  ∀ s : State,
    let r := s.cur.reg
    let q := hereSeq s
    let g := hereRegion s
    (∀ f, OwnReady f s → g.arr.op = 0 → g.arr.pend = [] → g.arr.armed = [] → (∀ c, outOf f.dst = some c → s.here.mayPush c kData = true) →
      let a := rowVa f s
      (g.mode = 0 → exec (.wdenter f) s = .next (s.raise r s.cur.elem s.cur.slot 0xF1 (FaultRec.of 0x02 0x13)))
      ∧ (g.mode ≠ 0 → a.toNat % 128 ≠ 0 → exec (.wdenter f) s = .next (s.raise r s.cur.elem s.cur.slot 0xF1 ((FaultRec.of 0x07 0x02).at_ a)))
      ∧ (g.mode ≠ 0 → a.toNat % 128 = 0 → ∃ u, exec (.wdenter f) s = .next u ∧ (hereRegion u).mode = 2 ∧ (hereSeq u).active = true
        ∧ (hereSeq u).addr = a ∧ (hereSeq u).stack = [] ∧ (hereSeq u).table = q.table ∧ (hereSeq u).phase = .fetch
        ∧ (hereSeq u).out = (outOf f.dst).map (BitVec.ofNat 2) ∧ u.mem = s.mem))
    ∧ (∀ n b rest s1, s.seqRuns r = true → q.phase = .fetch → s.inFlight r = false →
      s.readLines r n q.addr = ((b :: rest).map fun b => Line.ok b false, s1) → blockLines (b.getD 9 0).toNat = n →
      let bs := (b :: rest).flatten
      bs.getD 0 0 ≠ 0xFE → fieldAt bs 0 4 ≠ 0x31444C46 →
      let w := BitVec.ofNat 128 (fieldAt bs 0 16)
      let h := blockOf w
      let pay := payloadOf h.len.toNat bs
      (blockCrc h.len.toNat bs ≠ h.crc → s.continues r = false →
        exec (.pralineFetch r) s = .next ((s1.linesCross s r bs n q.addr).pralineFault r 0x04 q.slot.toNat q.addr))
      ∧ ∀ i, blockCrc h.len.toNat bs = h.crc → decodeBlock w = .ok i → blockBad (w.extractLsb' 0 8) h pay = false → continuesOk n bs = true →
        ∃ u, exec (.pralineFetch r) s = .next u ∧ u.mem = s1.mem
          ∧ hereSeq u = { q with phase := (hereSeq u).phase, hdr := some i, pay := pay, lines := n, cont := false }
          ∧ (s.continues r = false ∨ (∀ h, i ≠ .contract h ∧ i ≠ .drain h) → (hereSeq u).phase = .ready)
          ∧ (s.continues r = true → (∃ h, i = .contract h ∨ i = .drain h) → (hereSeq u).phase = .run))
    ∧ (∀ h, s.seqRuns r = true → q.phase = .run → q.hdr = some (.stream h) →
      let e := 112 + (h.route.extractLsb' 0 4).toNat
      let x := g.elem e
      let n := h.len.toNat / 2
      let all := n + if h.route.getLsbD 4 then 1 else 0
      let next := q.successor h
      let pushed := fun (u : State) => ∃ t, (u.elem r e).outQ 2 = x.outQ 2 ++ [t]
        ∧ (q.prog < n → t.kind = kData ∧ t.fmt = h.fmt.extractLsb' 0 3 ∧ t.vmask = 0xFF
          ∧ t.lanes = octOfBytes (fun b => q.pay.getD (32 * q.prog + b) 0))
        ∧ (n ≤ q.prog → t.kind = kDone)
      x.room 2 = true → (q.prog < n → x.mayPush 2 kData = true) → q.prog < all →
      (q.prog + 1 < all → ∃ u, exec (.streamBlockPush r) s = .next u ∧ pushed u ∧ hereSeq u = { q with prog := q.prog + 1, from_ := s.cyc + 1 })
      ∧ (q.prog + 1 = all → next.toNat % 128 = 0 → GoesTo (.streamBlockPush r) s next pushed))
    ∧ (∀ h, s.seqRuns r = true → q.phase = .run → (q.successor h).toNat % 128 = 0 →
      (q.hdr = some (.loads h) → blockBad 0x01 h q.pay = false → q.pay.length = 16 * h.len.toNat →
        WritesPiece (.pralineFetch r) s q.prog (unitCount h) (q.successor h) (LoadsPiece h q.prog s))
      ∧ (q.hdr = some (.setscale h) → q.pay.length = 16 * h.len.toNat →
        WritesPiece (.pralineFetch r) s q.prog h.len.toNat (q.successor h) (ScalePiece h q.prog s)))
    ∧ (BlockReady s → ∀ h : BlockHdr,
      let next := q.successor h
      let goal := BitVec.ofNat 64 (fieldAt q.pay 0 8)
      (next.toNat % 128 = 0 →
        (q.pay.length = 16 * h.len.toNat →
          (blockBad 0x01 h q.pay = false → WritesPiece (.loads h) s 0 (unitCount h) next (LoadsPiece h 0 s))
          ∧ WritesPiece (.setscale h) s 0 h.len.toNat next (ScalePiece h 0 s))
        ∧ ((h.route.extractLsb' 0 4).toNat + (h.route.extractLsb' 4 4).toNat < 16 →
          GoesTo (.zero h) s next fun u => u.mem = s.mem ∧ ∀ w, w < 4096 → (hereRegion u).acc w =
            if (h.route.extractLsb' 0 4).toNat ≤ w / 256 ∧ w / 256 ≤ (h.route.extractLsb' 0 4).toNat + (h.route.extractLsb' 4 4).toNat then 0
            else g.acc w)
        ∧ GoesTo (.jump h) s next (fun u => u.mem = s.mem ∧ (hereRegion u).arr = g.arr)
        ∧ (h.route.getLsbD 0 = false → GoesTo (.sync h) s next fun u => u.mem = s.mem)
        ∧ (∀ t, h.route.getLsbD 0 = true → (g.elem 17).head 0 = some t → t.kind = kData →
          GoesTo (.sync h) s next fun u => ((hereRegion u).elem 17).inQ 0 = ((g.elem 17).inQ 0).drop 1))
      ∧ (h.route.getLsbD 0 = true → (g.elem 17).head 0 = none → exec (.sync h) s = .next s)
      ∧ (∀ t, h.route.getLsbD 0 = true → (g.elem 17).head 0 = some t → t.kind ≠ kData →
        exec (.sync h) s = .next (s.raiseAs r 0 17 0xFFFF 0xF1 ((FaultRec.of 0x03 0x08).token 0 t.seq)))
      ∧ BeginsRun (.stream h) s (fun u => (hereSeq u).prog = q.prog ∧ (hereRegion u).elems = g.elems)
      ∧ BeginsRun (.drain h) s (fun u => (hereRegion u).arr.op = 3 ∧ (hereRegion u).arr.imm = (h.route &&& 0xFF)
          ∧ (hereRegion u).arr.var0 = h.route.getLsbD 8 ∧ (hereRegion u).arr.done = h.route.getLsbD 9)
      ∧ (let d : Desc := ⟨(List.range 8).map fun k => BitVec.ofNat 32 (fieldAt q.pay (4 * k) 4), fieldAt q.pay 34 2⟩
         let ef : BitVec 3 := BitVec.ofNat 3 (q.pay.getD 33 0).toNat
         (d.fault (q.pay.getD 32 0).toNat ef.toNat = none → g.arr.lq = 0xF →
            BeginsRun (.contract h) s fun u => (hereRegion u).arr.op = 2 ∧ (hereRegion u).arr.opc = q.pay.getD 32 0
              ∧ (hereRegion u).arr.efmt = ef ∧ (hereRegion u).arr.var0 = (q.pay.getD 36 0).getLsbD 0 ∧ (hereRegion u).arr.desc = d.c ∧ (hereRegion u).arr.prog = 0)
         ∧ ∀ det, d.fault (q.pay.getD 32 0).toNat ef.toNat = some det →
            exec (.contract h) s = .next (s.raise r 0 q.slot.toNat (q.pay.getD 32 0) (FaultRec.of 0x02 det)))
      ∧ (∀ p s1 s2 bs ev, s.translate (r / 192) (s.partOf r) goal .r = (.ok p, s1) → s1.cut r p = false → s1.inFlight r = false →
          (s1.fetchCross r p false (leBytes 8 p.addr)).performLoad r 0 0 (s1.phaseOf r) 0xC0 (fieldsOf 0) p 4 = .done s2 bs false ev →
          let q2 := (s2.region r).seq
          let taken := decide (leNat bs &&& fieldAt q2.pay 8 4 ≠ 0)
          let tgt := if taken then BitVec.ofNat 64 (fieldAt q2.pay 16 8) else q2.successor h
          s2.cyc = s.cyc → s2.cur = s.cur → tgt.toNat % 128 = 0 → GoesTo (.jumpif h) s tgt fun u => u.mem = s2.mem)
      ∧ (q.stack.length < 8 → goal.toNat % 128 = 0 → GoesTo (.callt h) s goal fun u => (hereSeq u).stack = next :: q.stack ∧ u.mem = s.mem)
      ∧ (8 ≤ q.stack.length → exec (.callt h) s = .next (s.pralineFault r 0x06 q.slot.toNat q.addr))
      ∧ (∀ a rest, q.stack = a :: rest → a.toNat % 128 = 0 → GoesTo (.rett h) s a fun u => (hereSeq u).stack = rest ∧ u.mem = s.mem)
      ∧ (q.stack = [] → exec (.rett h) s = .next (s.pralineFault r 0x07 q.slot.toNat q.addr))
      ∧ ∃ u, exec (.endBlk h) s = .next u ∧ (hereRegion u).mode = 1 ∧ (hereSeq u).active = false ∧ (hereSeq u).table = q.table ∧ u.mem = s.mem
        ∧ ∀ c, q.out = some c → ∃ t, ((hereRegion u).elem 0).outQ c.toNat = (g.elem 0).outQ c.toNat ++ [t] ∧ t.kind = kData ∧ t.vmask = 1
          ∧ t.fmt = 0 ∧ t.lanes.get 0 = BitVec.ofNat 32 (if h.len = 0 then 0 else fieldAt q.pay 0 4))

/- Links, the hub, fault service, power and management (R316 to R318, R338, R341, R378 to R397, R409 to R420). -/

/-- A flit that is next in order delivers its token, or goes on to the next edge of its way, and is acknowledged; a damaged one is discarded and
sent again, counted; retraining
clears the failures or, the third time in succession, takes the edge in both directions or the link down. Answers and timeouts end the request they belong to;
a request of another device is performed once and answered; credits are reported; an enabled link comes up; a scrubbed word is lost (R321, R380
to R382, R384 to R388, R394). What a flit carries, and one retry for each negative acknowledgement, is log entry 101, that the outcome of a flit
and of retraining comes from outside log entry 102, that an ATOM is answered by its response and then its acknowledgement log entry 103, the
faults of a failed status log entry 104, when an allowance begins anew log entry 106, and what a scrubbed word loses log entries 44 and 48. -/
def Obligations.LinksCarryTraffic : Prop :=
  ∀ s : State,
    (∀ e (fl h : BridgeFlit) rest, (s.edge e).retryBuf = h :: rest →
      (fl.crcOk = false → fl.fseq = h.fseq → s.pwr.trip = false → exec (.bridgeFlitReceive e fl) s = exec (.bridgeRetry e h.fseq) s)
      ∧ (fl = { h with crcOk := true } → (s.edge e).up = true → (s.edge e).fails < 8 → s.pwr.trip = false → (s.edge e).hold = [] →
        (∀ q el k t, h.toks = [(q, el, k, t)] → edgePath (edgeEnd e) h.dest = [] → (s.region q).owner ≠ none →
          ∃ u, exec (.bridgeFlitReceive e fl) s = .next u ∧ (u.edge e).retryBuf = rest ∧ (u.edge e).rxSeq = h.fseq + 1
            ∧ (u.edge e).fails = 0 ∧ (u.elem q el).transit k = (s.elem q el).transit k ++ [⟨s.cyc, t⟩] ∧ u.mem = s.mem)
        ∧ ∀ b bs, h.toks = [] → edgePath (edgeEnd e) h.dest = b :: bs → b ≠ e → (s.edge b).hold = [] →
          ∃ u, exec (.bridgeFlitReceive e fl) s = .next u ∧ (u.edge e).retryBuf = rest ∧ (u.edge e).rxSeq = h.fseq + 1 ∧ u.mem = s.mem
            ∧ if (s.edge b).hasRoom 1 = true ∧ s.allowed b h.stream h.part 1 = true
              then (u.edge b).retryBuf = (s.edge b).retryBuf ++ [{ h with fseq := (s.edge b).txSeq, crcOk := true }] ∧ (u.edge b).hold = []
              else (u.edge b).retryBuf = (s.edge b).retryBuf ∧ (u.edge b).hold.map (·.1) = [h])
      ∧ ((s.edge e).up = true → (s.edge e).fails < 8 → exec (.bridgeRetry e h.fseq) s = .next (s.setEdge e { s.edge e with
        retry := if (s.edge e).retry = 0xFFFF then 0xFFFF else (s.edge e).retry + 1, fails := (s.edge e).fails + 1 })))
    ∧ (∀ e ok, 8 ≤ (s.edge e).fails → (s.edge e).up = true → ∃ u, exec (.bridgeRetrain e ok) s = .next u
      ∧ (ok = true → (u.edge e).fails = 0 ∧ (u.edge e).lost = 0 ∧ (u.edge e).up = true)
      ∧ (ok = false → (s.edge e).lost < 2 → (u.edge e).lost = (s.edge e).lost + 1 ∧ (u.edge e).up = true)
      ∧ (ok = false → 2 ≤ (s.edge e).lost → ∀ b, b = e ∨ b = edgePeer e → (u.edge b).up = false ∧ (u.edge b).down = true))
    ∧ (∃ u, exec .allowancePeriod s = .next u ∧ u.mem = s.mem ∧ u.regions = s.regions
      ∧ (s.links.wait = [] → (∀ e, (s.edge e).hold = []) → u.links.spent = [] ∧ ∀ e, u.edge e = s.edge e))
    ∧ (∀ tag st data p, (s.links.remote.find? fun p => p.tag.toNat == tag) = some p →
      (p.elem < 148 → (s.region p.reg).owner = some p.load → s.savedPage p.load p.reg = none → (∀ q ∈ s.mmu.replay, q.go = false) →
        (p.opc = 0xCA → st = 0 → p.want ≤ data.length) →
        ∃ u, exec (.remoteResponse tag st data) s = .next u
        ∧ ((p.opc = 0xCA → st = 0 → p.want = 0) → u.links.remote = s.links.remote.erase p)
        ∧ (p.opc = 0xCA → st = 0 → 0 < p.want → ∃ q ∈ u.links.remote, q.tag = p.tag ∧ q.want = 0)
        ∧ ∀ a, (s.elem p.reg p.elem).acc p.id = some a → a.ph = .away → p.opc = a.opc →
          (a.opc = 0xCB ∨ a.opc = 0xCC → st = 0 → p.elem = 144 ∨ p.elem = 145 → s.edgeDown (12 + p.reg / 192) = false →
            p.reg < 768 →
            ∃ b, (u.elem p.reg p.elem).acc p.id = some b ∧ b.ph = .done ∧ b.slots = [] ∧ b.ev = data.headD 0
              ∧ u.crossing p.reg p.elem p.id true = true)
          ∧ (st = 1 → s.unclaimed p.reg p.elem a = false → (u.elem p.reg p.elem).faulted = true))
      ∧ (s.pwr.trip = false → p.due ≤ s.rt → p.elem < 148 → (s.region p.reg).owner = some p.load → s.savedPage p.load p.reg = none →
        (∀ q ∈ s.mmu.replay, q.go = false) →
        ∃ u, exec (.remoteTimeout tag) s = .next u ∧ u.links.remote = s.links.remote.erase p
          ∧ ∀ a, (s.elem p.reg p.elem).acc p.id = some a → s.unclaimed p.reg p.elem a = false → (u.elem p.reg p.elem).faulted = true)
      ∧ (s.rt < p.due → exec (.remoteTimeout tag) s = .next s))
    ∧ (∀ b : Inbound, (s.links.ready.find? fun c => c.dev.toNat == b.dev.toNat && c.stream.toNat == b.stream.toNat) = some b →
      s.pwr.trip = false →
      let s0 : State := { s with links := { s.links with ready := s.links.ready.erase b } }
      let a := leNat ((b.units.headD []).take 8)
      let n := leNat (((b.units.headD []).drop 8).take 2)
      let bs := ((b.units.drop 1).flatten).take n
      (b.ukind = 1 → b.hdr.extractLsb' 0 8 = (0xC0 : Byte) → bar2Kind a = some 0 → s.mem.isLost a n = false →
        exec (.remoteRequestPerform b.dev.toNat b.stream.toNat b.tag.toNat) s = .next (s0.reply b 0 (s.mem.readBytes a n)))
      ∧ (b.ukind = 2 → b.hdr.extractLsb' 0 8 = (0xC1 : Byte) → bar2Kind a = some 0 → ((b.units.headD []).drop 8).getD 6 0xFF = 0xFF →
        storeLost s.mem (cellsAt a bs) = false → s.Canonical →
        ∃ u, exec (.remoteRequestPerform b.dev.toNat b.stream.toNat b.tag.toNat) s = .next u ∧ Holds u.mem a bs
          ∧ u.mem.csn = s.mem.csn + 1))
    ∧ (∀ k, k < 16 → s.pwr.trip = false → (s.glink k).up = true →
      (∀ bs, flitGood bs = false → ∃ u, exec (.glFlitReceive k bs) s = .next u ∧ (u.glink k).rxSeq = (s.glink k).rxSeq
        ∧ (u.glink k).crcErr = if (s.glink k).crcErr = 0xFFFFFFFF then 0xFFFFFFFF else (s.glink k).crcErr + 1)
      ∧ (∀ bs, flitGood bs = true → leNat (bs.take 2) % 16 = 1 → ∃ u, exec (.glFlitReceive k bs) s = .next u
        ∧ (u.glink k).crcErr = (s.glink k).crcErr
        ∧ (u.glink k).rxSeq = if leNat (bs.take 2) / 16 = (s.glink k).rxSeq.toNat then (s.glink k).rxSeq + 1 else (s.glink k).rxSeq)
      ∧ ((s.glink k).freed0 ≠ (s.glink k).told0 ∨ (s.glink k).freed1 ≠ (s.glink k).told1 → ∃ u f, exec (.creditFlit k) s = .next u
        ∧ (u.glink k).told0 = (s.glink k).freed0 ∧ (u.glink k).told1 = (s.glink k).freed1 ∧ (u.glink k).ctl = (s.glink k).ctl ++ [f])
      ∧ ∀ ok, 8 ≤ (s.glink k).fails → ∃ u, exec (.glRetrain k ok) s = .next u
        ∧ (ok = true → (u.glink k).fails = 0 ∧ (u.glink k).lost = 0 ∧ (u.glink k).up = true)
        ∧ (ok = false → (s.glink k).lost < 2 → (u.glink k).lost = (s.glink k).lost + 1 ∧ (u.glink k).up = true)
        ∧ (ok = false → 2 ≤ (s.glink k).lost → (u.glink k).up = false ∧ (u.glink k).down = true))
    ∧ (∀ k, k < 16 → (s.glink k).enable = true → (s.glink k).up = false → (s.glink k).down = false →
      ∃ u, exec (.linkTrained k) s = .next u ∧ (u.glink k).up = true ∧ (u.glink k).enable = true)
    ∧ ∀ pa k, bar2Kind pa = some k → ∃ u, exec (.eccInScrubbing pa) s = .next u
      ∧ ((∀ l ∈ s.loads, k = 0 → (linesOf (l.2.vers.flatMap (·.2))).contains (pa / 128) = false) →
        ∀ i, i < 8 → u.mem.isLost (8 * (pa / 8) + i) 1 = true)

/-- The host's registers and windows do what their entries say: translations are dropped and parked work is served, window commands and results
pass in order, templates are written and read by words, an image is refused while a queue holds packets and otherwise verified, and a good one
is stored and the device reset, the report is written to host memory,
an entry of an internal structure is read out word by word, counters are cleared, a vector is raised when it is unmasked, BAR2 reads and writes
memory, BAR0 reads all ones outside the hub block until RDY is set, and a reset leaves the stored image and host memory and verifies the image
(R267, R282, R316 to R318, R341, R392 to R397, R414 to R420). That translations are dropped at once and what GO waits for is log entry 54, that a
region stays free after HCW_GO log entry 95, what ENABLE 0 does log entry 100, when a command is under way log entry 111, the order of the words
read out log entry 112, and what a reset leaves log entry 110. -/
def Obligations.HostRegistersAndWindows : Prop :=
  ∀ s : State,
    (s.reachable = true →
      (∀ v : BitVec 64, v.getLsbD 0 = true → ∃ u, exec (.mmuInvGo v) s = .next u ∧ u.mmu.invGo = true ∧ u.mem = s.mem
        ∧ ∀ t, (t ∈ u.mmu.tlb → t ∈ s.mmu.tlb) ∧ (t ∈ s.mmu.tlb → t.part ≠ v.extractLsb' 12 4 → t ∈ u.mmu.tlb)
          ∧ (t.part = v.extractLsb' 12 4 → t.page < 2 ^ 48 →
            v.getLsbD 1 = true ∨ 0x10000 * t.page / 2 ^ levelShift t.lvl = v.toNat / 2 ^ levelShift t.lvl → t ∉ u.mmu.tlb))
      ∧ (∀ v : BitVec 64, (∀ q ∈ s.mmu.replay, q.go = false) → s.parkedStores (v.extractLsb' 12 4) (v.toNat / 0x10000) = [] → s.spillers (v.extractLsb' 12 4) (v.toNat / 0x10000) = [] →
        ∃ u, exec (.mmuSvcMapped v) s = .next u ∧ u.mem = s.mem
          ∧ ∀ r ∈ s.parkedSeqs (v.extractLsb' 12 4) (v.toNat / 0x10000), (u.region r).seq.parked = false)
      ∧ (∀ (v : BitVec 64) q a p, s.parkedStores (v.extractLsb' 12 4) (v.toNat / 0x10000) = [q] →
        s.spillers (v.extractLsb' 12 4) (v.toNat / 0x10000) = [] → s.sched.saves = [] → (s.region q.reg).owner = some q.load →
        (s.elem q.reg q.elem).acc q.id = some a → s.unclaimed q.reg q.elem a = false → (a.slots.find? fun p => p.1 == q.slot) = some p →
        ∃ u, exec (.mmuSvcUnmappable v) s = .next u ∧ (u.elem q.reg q.elem).faulted = true)
      ∧ (∀ p k, p < 16 → k < 9 → ∃ u, exec (.staleClear p k) s = .next u ∧ SMap.get (fun _ => 0) u.sched.stale (16 * p + k) = 0
        ∧ ∀ n, n ≠ 16 * p + k → SMap.get (fun _ => 0) u.sched.stale n = SMap.get (fun _ => 0) s.sched.stale n)
      ∧ (∀ e, e < 12 → ∃ u, exec (.brgStatClear e) s = .next u ∧ u.edge e = { s.edge e with retry := 0, retrain := 0 } ∧ u.mem = s.mem)
      ∧ (∀ k v, k < 16 → ∃ u, exec (.glStatWrite k v) s = .next u ∧ (u.glink k).enable = v.getLsbD 2 ∧ (u.glink k).crcErr = 0
        ∧ (u.glink k).retrain = 0 ∧ (u.glink k).up = ((s.glink k).up && v.getLsbD 2)
        ∧ (v.getLsbD 2 = false → (s.glink k).up = true ∨ (s.glink k).down = true → 129 ∈ u.msi ∨ 129 ∈ u.hub.pend))
      ∧ (∀ n, n < 136 → n ∈ s.hub.pend → ∃ u, exec (.msixUnmask n) s = .next u ∧ u.msi = s.msi ++ [n] ∧ n ∉ u.hub.pend)
      ∧ (∀ v : BitVec 64, exec (.registerWrite 0x10018 (leBytes 8 v.toNat)) s
        = .next { s with sched := { s.sched with tsel := v.extractLsb' 0 32 } })
      ∧ (∀ b : Byte, exec (.registerWrite 0x10019 [b]) s
        = .next { s with sched := { s.sched with tsel := (s.sched.tsel &&& 0xFFFF00FF) ||| (b.zeroExtend 32 <<< 8) } })
      ∧ (∀ x bs, x % 8 = 0 → x < rowStoreEnd → bs.length = 8 → s.Canonical → ∃ u, exec (.hostBar2Write x bs) s = .next u
        ∧ Holds u.mem x bs ∧ u.mem.csn = s.mem.csn + 1)
      ∧ ∀ x, bar2Kind (x / 8 * 8) ≠ none → s.mem.isLost (x / 8 * 8) 8 = false →
        exec (.hostBar2Read x) s = .next { s with ret := s.ret ++ [BitVec.ofNat 64 (s.mem.readLe (x / 8 * 8) 8)] })
    ∧ (∀ off, s.reachable = false → s.pwr.trip = false → off < 0x60000 ∨ 0x70000 ≤ off → s.hostValue off = BitVec.allOnes 64)
    ∧ (s.mmu.invGo = true → exec .mmuInvComplete s = .next
        (if s.mmu.invHeld.all s.invDone then { s with mmu := { s.mmu with invGo := false, invHeld := [] } } else s))
    ∧ (∀ v, s.hub.hcwq = [] → s.hub.hcwSel.toNat < 768 → isWindowRead v = false ∨ s.hub.hcwRd.length < 64 →
      exec (.hcwCmd v) s = .next { s with agenda := .cmd s.hub.hcwSel.toNat true v :: s.agenda })
    ∧ (∀ w ws, s.hub.hcwRd = w :: ws → s.hub.hcwq = [] →
      exec .hcwRd s = .next { s with ret := s.ret ++ [BitVec.ofNat 64 (2 ^ 32 + w.toNat)], hub := { s.hub with hcwRd := ws } })
    ∧ (s.hub.hcwSel.toNat < 768 → (s.region s.hub.hcwSel.toNat).owner ≠ none ∨ (s.region s.hub.hcwSel.toNat).rstate ≠ 0 →
      exec .hcwGo s = .next (s.deviceRecord { FaultRec.of 0x01 0x0D with reg := s.hub.hcwSel.toNat }))
    ∧ (∀ c, let r := s.hub.hcwSel.toNat
      r < 768 → (s.region r).owner = none → (s.region r).rstate = 0 → (s.region r).cfg.isOpen = false → (s.region r).cfg.done = some c → (s.region r).cfg.doneKeep = false →
      ∃ u, exec .hcwGo s = .next u ∧ (u.region r).rstate = 0 ∧ (u.region r).owner = none
        ∧ (∀ e, ((u.region r).elem e).conf = SMap.get (fun _ => []) c e)
        ∧ ∀ a, spadAddr r 0 0 ≤ a → a < spadAddr r 0 0 + 0x80000 → u.mem.read a = 0)
    ∧ (let t := s.hub.tplSel.toNat
       let at_ := 65536 * (t / 2 ^ 20 % 4) + 16 * (t % 4096) + t / 2 ^ 12 % 16
       (∀ v, t / 2 ^ 22 % 2 = 0 → ∃ u, exec (.tplDataWrite v) s = .next u ∧ SMap.get (fun _ => (0 : BitVec 64)) u.eng.tpl at_ = v
         ∧ (t / 2 ^ 12 % 16 < 15 → t / 2 ^ 16 % 16 = 0 → u.hub.tplSel.toNat = t + 2 ^ 12))
       ∧ ∃ u, exec .tplDataRead s = .next u ∧ u.ret = s.ret ++ [SMap.get (fun _ => (0 : BitVec 64)) s.eng.tpl at_] ∧ u.eng = s.eng)
    ∧ (∀ n, (∃ q, q < 128 ∧ s.isEmptyQueue q = false) →
      exec (.fwInstall n) s = .next { s with pwr := { s.pwr with fwst := 3, reason := 6, fwjob := none } })
    ∧ (∀ n : Word, (∀ q, q < 128 → s.isEmptyQueue q = true) →
      let img := s.hostBytes s.pwr.fwsrc.toNat (4096 * n.toNat)
      let why : Byte := if Config.imageFormed img = false then 1 else if Config.imageEd25519 img = false then 2
        else if Config.imageMlDsa img = false then 3 else if Config.imageSecurity img < Config.fusedFloor then 4 else 0
      (s.pwr.fwErr = true → exec (.fwInstall n) s = .next { s with pwr := { s.pwr with fwst := 3, reason := 5, fwjob := none } })
      ∧ (s.pwr.fwErr = false → ∃ u, exec (.fwInstall n) s = .next u ∧
        if why = 0 then u.pwr.fwimg = some img ∧ u.pwr.rdy = true ∧ u.pwr.fwst = 0 ∧ u.pwr.reason = 0 ∧ u.regions = [] ∧ u.loads = []
          ∧ u.queues = [] ∧ u.mem.bytes = [] ∧ u.mem.host = s.mem.host
        else u = { s with pwr := { s.pwr with fwst := 3, reason := why, fwjob := none } }))
    ∧ (∀ v : BitVec 64, s.pwr.fwjob = none → v.extractLsb' 0 2 = 2 ∨ v.extractLsb' 0 2 = 1 ∧ (∀ q, q < 128 → s.isEmptyQueue q = true) →
      ∃ u, exec (.registerWrite 0x60058 (leBytes 8 v.toNat)) s = .next u ∧ u.pwr.fwst = 1
        ∧ u.pwr.fwjob = some (v.extractLsb' 0 2, v.extractLsb' 32 32) ∧ u.mem = s.mem)
    ∧ (∃ u, exec .fwAttest s = .next u ∧ u.pwr.fwst = 2 ∧ u.pwr.reason = 0 ∧ u.pwr.fwjob = none ∧ u.mem.bytes = s.mem.bytes
      ∧ ∀ i, i < Config.attestLength → u.hostByte (s.pwr.fwsrc.toNat + 4096 + i)
        = Config.attestByte ((s.hubReg 0).getD 0) (Config.measurement s.pwr.image) (Config.imageSecurity s.pwr.image)
            (s.hostBytes s.pwr.fwsrc.toNat 32) i)
    ∧ (∀ i, i < 2 ^ 56 → ∃ u, exec (.rbSelWrite (BitVec.ofNat 64 (6 * 2 ^ 56 + i))) s = .next u ∧ u.mem = s.mem ∧
      match (s.chan (i % 1024) (i / 1024 % 64)).run with
      | none => u.pwr.rb = []
      | some c => u.pwr.rb = [Config.headWord c.by_.task.toNat, BitVec.ofNat 64 c.by_.idx.toNat, BitVec.ofNat 64 c.pos])
    ∧ exec .rbDataRead s = .next { s with ret := s.ret ++ [s.pwr.rb.headD 0], pwr := { s.pwr with rb := s.pwr.rb.drop 1 } }
    ∧ (∀ v : BitVec 64, let n := v.toNat % 4096
      ∃ u, exec (.registerWrite 0x60040 (leBytes 8 v.toNat)) s = .next u ∧ u.pwr.cap = max 1000 (min 3000 n) ∧ u.mem = s.mem)
    ∧ ∃ u, exec .deviceReset s = .next u ∧ u.regions = [] ∧ u.loads = [] ∧ u.queues = [] ∧ u.mem.bytes = [] ∧ u.mem.csn = 1
      ∧ u.mem.host = s.mem.host ∧ u.pwr.fwimg = s.pwr.fwimg ∧ (u.pwr.rdy = true ↔ imageReason s.pwr.image = 0)
      ∧ u.pwr.reason = imageReason s.pwr.image ∧ u.pwr.trip = false

/-- A sag stretches the clock for 64 cycles at least, and a recovery that comes sooner is remembered; a window of a millisecond that closes
above the cap is capped, the level of a stack follows its
temperature with 5 °C of hysteresis, and at 110 °C the fabric stops (R409 to R411, R413, R414). That a recovery which comes early is remembered,
that a window closes no sooner than 1 ms after the last, and that a level falls 5 °C below its entry is log entry 108. -/
def Obligations.PowerAndTemperature : Prop :=
  ∀ s : State,
    exec .supplySag s = .next { s with pwr := { s.pwr with sag := true, sagEnd := some (s.cyc + 64), healed := false } }
    ∧ (s.pwr.sagEnd = none → exec .sagRecovery s = .next s)
    ∧ (∀ n, s.pwr.sagEnd = some n → exec .sagRecovery s
      = .next { s with pwr := if n ≤ s.cyc then { s.pwr with sagEnd := none } else { s.pwr with healed := true } })
    ∧ (∀ w, s.rt < s.pwr.capAt + capWindow → exec (.powerCapWindow w) s = .next s)
    ∧ (∀ w, s.pwr.capAt + capWindow ≤ s.rt → ∃ u, exec (.powerCapWindow w) s = .next u ∧ u.pwr.watts = min w s.pwr.cap
      ∧ (u.pwr.capped = true ↔ s.pwr.cap < w) ∧ u.pwr.capAt = s.rt ∧ u.mem = s.mem
      ∧ u.pwr.cycAt = s.cyc ∧ u.pwr.clkpct = min 100 ((s.cyc - s.pwr.cycAt) * 1000 / (s.rt - s.pwr.capAt)))
    ∧ (∀ st temp, st < 4 → ∃ u, exec (.thermalLevelChange st temp) s = .next u ∧ u.temp st = temp ∧ u.mem = s.mem
      ∧ (100 ≤ temp → u.level st = 2)
      ∧ (95 < temp → temp < 100 → u.level st = if s.level st = 2 then 2 else 1)
      ∧ (temp = 95 → u.level st = 1)
      ∧ (90 < temp → temp < 95 → u.level st = if 1 ≤ s.level st then 1 else 0)
      ∧ (temp ≤ 90 → u.level st = 0))
    ∧ ∀ st, st < 4 →
      (110 ≤ s.temp st → ∃ u, exec (.thermalTrip st) s = .next u ∧ u.pwr.trip = true ∧ u.pwr.rdy = false ∧ u.agenda = []
        ∧ (∀ r, u.clocked r = false) ∧ u.mem = s.mem)
      ∧ (s.temp st < 110 → exec (.thermalTrip st) s = .next s)

/- Encodings, steps and the whole machine (R54, R58 to R66, R358, R364, R415). -/

/-- Words of the spec decode to the instructions that it says they are, with their fields (R15, R54, R56, R60, R63). -/
def Obligations.WordsOfTheSpecDecode : Prop :=
  (∃ f, decodeSlot 0x0000412000405251_08DE10000000E200 = .ok (.fmul f) ∧ f.aEn = 1 ∧ f.aCh = 0 ∧ f.aFchk = 1 ∧ f.aFmt = 1 ∧ f.room = 1
    ∧ f.dst = 20 ∧ f.sa = 16 ∧ f.sb = 35 ∧ f.sc = 30 ∧ f.deq = 1 ∧ f.imm = 0 ∧ f.rnd = 7 ∧ f.efmt = 1)
  ∧ (∃ f, decodeSlot 0x0303800000_00EE79_E79E0000000FE000 = .ok (.prept f) ∧ f.pm = 3 ∧ f.pv = 3 ∧ f.q = 1 ∧ f.dst = 30 ∧ f.sa = 30
    ∧ f.imm = 0x000F ∧ f.rnd = 7)
  ∧ (∃ f, decodeSlot 0x01018000_0040C950_0042002200_00E081 = .ok (.waita f) ∧ f.room = 1 ∧ f.dst = 20 ∧ f.sa = 0 ∧ f.sb = 1 ∧ f.sc = 2
    ∧ f.pue = 1 ∧ f.pmode = 2 ∧ f.w64 = 1 ∧ f.var = 1)
  ∧ (∃ f, decodeSlot 0x0301F100_0040F151_379E8027_0000E000 = .ok (.wdenter f) ∧ f.aCh = 3 ∧ f.deq = 8 ∧ f.sa = 19 ∧ f.pidx = 1 ∧ f.pmode = 3)
  ∧ (∃ f, decodeSlot 0x06028000_0080E154_079E002B_0000E401 = .ok (.rowconStr f) ∧ f.dst = 21 ∧ f.efmt = 2)
  ∧ decodeCmd 0xFF000000 = .ok (.pgbegin 0) ∧ decodeCmd 0xFF1001CC = .ok (.rect 0 0x01CC)
  ∧ decodeCmd 0x2508E200 = .ok (.elementFieldWrite 0x25 8 0xE200) ∧ decodeCmd 0x25F10005 = .ok (.wlo 0x25 5)

/-- Decoding and encoding agree: every well-formed instruction with an encoding is what its words decode to, with every operand, and every word
that decodes to an instruction is that instruction's encoding (R54, R59 to R61, R63, R66, R358, R364). -/
def Obligations.DecodingAndEncodingAgree : Prop :=
  (∀ i : Instr, i.wf = true → encode i ≠ .none → decode (encode i) = .ok i)
  ∧ (∀ w i, decodeSlot w = .ok i → encode i = .slot w)
  ∧ (∀ w i, decodeCmd w = .ok i → encode i = .cmd w)
  ∧ ∀ w i, decodeBlock w = .ok i → encode i = .block w

/-- A step runs the oldest act of the cycle: the instruction that the slot, the command or the block in hand decodes to, a timeout or an event, at
its place, and then wakes the accesses that wait where memory or a full bit has changed; a command of the host's window lets the next one go, and one of
a page stream moves its loader on. With no act left the machine takes the next cycle or an act from outside (R15, R19, R60, R228, R358). The
agenda and its acts are log entries 1 and 2, and what comes from outside log entry 5; the last clause says of `State.withFetchWord`, which places
an instruction to be run next (log entry 4), that the step runs the word it was given. -/
def Obligations.StepRunsTheDecodedInstruction : Prop :=
  ∀ (s t : State) (rest : List Act),
    let s0 : State := { s with agenda := rest }
    (∀ r e n i, s.agenda = .fire r e n :: rest → decodeSlot ((s.elem r e).slot n) = .ok i →
      exec i { s0 with cur := ⟨r, e, n, false⟩ } = .next t → step s = .next (s.woken t))
    ∧ (∀ r host w i, s.agenda = .cmd r host w :: rest → decodeCmd w = .ok i →
      exec i { s0 with cur := ⟨r, 0, 0, host⟩ } = .next t → step s = .next (s.woken (if host then t.pump else t)))
    ∧ (∀ r i, s.agenda = .block r :: rest → (s.region r).seq.hdr = some i →
      exec i { s0 with cur := ⟨r, 0, 0, false⟩ } = .next t → step s = .next (s.woken t))
    ∧ (∀ ld p s1 r w i, s.agenda = .loader ld p :: rest → s0.loaderFetch ld p = .word s1 r w → decodeCmd w = .ok i →
      exec i { s1 with cur := ⟨r, 0, 0, false⟩ } = .next t → step s = .next (s.woken (t.loaderAfter ld p w)))
    ∧ (∀ i, s.agenda = .event i :: rest → exec i s0 = .next t → step s = .next (s.woken t))
    ∧ (∀ tag, s.agenda = .timeout tag :: rest → exec (.remoteTimeout tag) s0 = .next t → step s = .next (s.woken t))
    ∧ (∀ len, s.agenda = .install len :: rest → exec (.fwInstall len) s0 = .next t → step s = .next (s.woken t))
    ∧ (s.agenda = [] → step s = .next s.turn)
    ∧ (t.mem.bytes = s.mem.bytes → t.mem.full = s.mem.full → t.mem.host = s.mem.host → s.woken t = t)
    ∧ ∀ w : BitVec 128, ∃ e, (s.withFetchWord 128 w.toNat).agenda = [.fire 0 e 0] ∧ ((s.withFetchWord 128 w.toNat).elem 0 e).slot 0 = w

/-- Every step keeps memory in its canonical form, whatever act it runs: addresses rise strictly and no byte is listed that an unlisted address
reads as. (The form is the model's own; what it stands for is byte memory as R4, R260 and R313 give it.) -/
def Obligations.EveryStepKeepsMemoryCanonical : Prop :=
  ∀ s t : State, s.Canonical → step s = .next t → t.Canonical

/-- The machine after reset: memory is canonical and zero, no load and no queue entry exists, PW is 0, every region is free, in stream mode and
without an enabled slot, every register, predicate, accumulator and flag of an element is zero and every channel empty, the seed, NPLIM and the tickets
have their reset values, and RDY is set (R6, R62, R260, R306, R333, R339, R341, R415). That fields no rule gives a value read zero is the model's
choice (log entry 3). -/
def Obligations.ResetState : Prop :=
  State.reset.Canonical
  ∧ (∀ a, State.reset.mem.read a = 0) ∧ State.reset.mem.pw = 0 ∧ State.reset.loads = []
  ∧ (∀ r, (State.reset.region r).rstate = 0 ∧ (State.reset.region r).mode = 0 ∧ (State.reset.region r).owner = none)
  ∧ (∀ r e k c, k < 16 →
    let x := State.reset.elem r e
    x.field 160 = 0 ∧ x.field 161 = 0x00FF ∧ x.reg c = Oct.all 0 ∧ x.preds = Oct.all 0 ∧ x.sflags = 0 ∧ x.const k = 0
      ∧ x.inQ c = [] ∧ x.outQ c = [] ∧ x.seqOut c = 0 ∧ x.credit c = 0 ∧ x.faulted = false ∧ x.halted = false)
  ∧ (∀ q, (State.reset.queue q).tick = 1 ∧ (State.reset.queue q).budget = 0x1FFFF ∧ (State.reset.queue q).tail = 0
    ∧ (State.reset.queue q).prog = 0)
  ∧ State.reset.sched.seed = 0x9E3779B9 ∧ State.reset.sched.nplim = 1000 ∧ State.reset.pwr.rdy = true ∧ State.reset.cyc = 0
end

