-- ==== Sys2Proof/Laws/State.lean ====
section
/-!
SUPPORT. What the named updates of the state leave in each of its fields, and what is read back after a write of a region, an element, a
load or a queue.
-/
namespace Sys2Proof.Machine

@[simp] theorem State.setRegion_mem (s : State) (r : Nat) (g : Region) : (s.setRegion r g).mem = s.mem := rfl
@[simp] theorem State.setRegion_loads (s : State) (r : Nat) (g : Region) : (s.setRegion r g).loads = s.loads := rfl
@[simp] theorem State.setRegion_queues (s : State) (r : Nat) (g : Region) : (s.setRegion r g).queues = s.queues := rfl
@[simp] theorem State.setRegion_sched (s : State) (r : Nat) (g : Region) : (s.setRegion r g).sched = s.sched := rfl
@[simp] theorem State.setRegion_mmu (s : State) (r : Nat) (g : Region) : (s.setRegion r g).mmu = s.mmu := rfl
@[simp] theorem State.setRegion_eng (s : State) (r : Nat) (g : Region) : (s.setRegion r g).eng = s.eng := rfl
@[simp] theorem State.setRegion_links (s : State) (r : Nat) (g : Region) : (s.setRegion r g).links = s.links := rfl
@[simp] theorem State.setRegion_hub (s : State) (r : Nat) (g : Region) : (s.setRegion r g).hub = s.hub := rfl
@[simp] theorem State.setRegion_pwr (s : State) (r : Nat) (g : Region) : (s.setRegion r g).pwr = s.pwr := rfl
@[simp] theorem State.setRegion_cyc (s : State) (r : Nat) (g : Region) : (s.setRegion r g).cyc = s.cyc := rfl
@[simp] theorem State.setRegion_rt (s : State) (r : Nat) (g : Region) : (s.setRegion r g).rt = s.rt := rfl
@[simp] theorem State.setRegion_wsref (s : State) (r : Nat) (g : Region) : (s.setRegion r g).wsref = s.wsref := rfl
@[simp] theorem State.setRegion_agenda (s : State) (r : Nat) (g : Region) : (s.setRegion r g).agenda = s.agenda := rfl
@[simp] theorem State.setRegion_inbox (s : State) (r : Nat) (g : Region) : (s.setRegion r g).inbox = s.inbox := rfl
@[simp] theorem State.setRegion_cur (s : State) (r : Nat) (g : Region) : (s.setRegion r g).cur = s.cur := rfl
@[simp] theorem State.setRegion_tick (s : State) (r : Nat) (g : Region) : (s.setRegion r g).tick = s.tick := rfl
@[simp] theorem State.setRegion_ret (s : State) (r : Nat) (g : Region) : (s.setRegion r g).ret = s.ret := rfl
@[simp] theorem State.setRegion_msi (s : State) (r : Nat) (g : Region) : (s.setRegion r g).msi = s.msi := rfl

@[simp] theorem State.setElem_mem (s : State) (r e : Nat) (x : Elem) : (s.setElem r e x).mem = s.mem := rfl
@[simp] theorem State.setElem_loads (s : State) (r e : Nat) (x : Elem) : (s.setElem r e x).loads = s.loads := rfl
@[simp] theorem State.setElem_queues (s : State) (r e : Nat) (x : Elem) : (s.setElem r e x).queues = s.queues := rfl
@[simp] theorem State.setElem_sched (s : State) (r e : Nat) (x : Elem) : (s.setElem r e x).sched = s.sched := rfl
@[simp] theorem State.setElem_mmu (s : State) (r e : Nat) (x : Elem) : (s.setElem r e x).mmu = s.mmu := rfl
@[simp] theorem State.setElem_eng (s : State) (r e : Nat) (x : Elem) : (s.setElem r e x).eng = s.eng := rfl
@[simp] theorem State.setElem_links (s : State) (r e : Nat) (x : Elem) : (s.setElem r e x).links = s.links := rfl
@[simp] theorem State.setElem_hub (s : State) (r e : Nat) (x : Elem) : (s.setElem r e x).hub = s.hub := rfl
@[simp] theorem State.setElem_pwr (s : State) (r e : Nat) (x : Elem) : (s.setElem r e x).pwr = s.pwr := rfl
@[simp] theorem State.setElem_cyc (s : State) (r e : Nat) (x : Elem) : (s.setElem r e x).cyc = s.cyc := rfl
@[simp] theorem State.setElem_rt (s : State) (r e : Nat) (x : Elem) : (s.setElem r e x).rt = s.rt := rfl
@[simp] theorem State.setElem_wsref (s : State) (r e : Nat) (x : Elem) : (s.setElem r e x).wsref = s.wsref := rfl
@[simp] theorem State.setElem_agenda (s : State) (r e : Nat) (x : Elem) : (s.setElem r e x).agenda = s.agenda := rfl
@[simp] theorem State.setElem_inbox (s : State) (r e : Nat) (x : Elem) : (s.setElem r e x).inbox = s.inbox := rfl
@[simp] theorem State.setElem_cur (s : State) (r e : Nat) (x : Elem) : (s.setElem r e x).cur = s.cur := rfl
@[simp] theorem State.setElem_tick (s : State) (r e : Nat) (x : Elem) : (s.setElem r e x).tick = s.tick := rfl
@[simp] theorem State.setElem_ret (s : State) (r e : Nat) (x : Elem) : (s.setElem r e x).ret = s.ret := rfl
@[simp] theorem State.setElem_msi (s : State) (r e : Nat) (x : Elem) : (s.setElem r e x).msi = s.msi := rfl

@[simp] theorem State.onRegion_mem (s : State) (r : Nat) (g : Region → Region) : (s.onRegion r g).mem = s.mem := rfl
@[simp] theorem State.onRegion_loads (s : State) (r : Nat) (g : Region → Region) : (s.onRegion r g).loads = s.loads := rfl
@[simp] theorem State.onRegion_queues (s : State) (r : Nat) (g : Region → Region) : (s.onRegion r g).queues = s.queues := rfl
@[simp] theorem State.onRegion_sched (s : State) (r : Nat) (g : Region → Region) : (s.onRegion r g).sched = s.sched := rfl
@[simp] theorem State.onRegion_mmu (s : State) (r : Nat) (g : Region → Region) : (s.onRegion r g).mmu = s.mmu := rfl
@[simp] theorem State.onRegion_eng (s : State) (r : Nat) (g : Region → Region) : (s.onRegion r g).eng = s.eng := rfl
@[simp] theorem State.onRegion_links (s : State) (r : Nat) (g : Region → Region) : (s.onRegion r g).links = s.links := rfl
@[simp] theorem State.onRegion_hub (s : State) (r : Nat) (g : Region → Region) : (s.onRegion r g).hub = s.hub := rfl
@[simp] theorem State.onRegion_pwr (s : State) (r : Nat) (g : Region → Region) : (s.onRegion r g).pwr = s.pwr := rfl
@[simp] theorem State.onRegion_cyc (s : State) (r : Nat) (g : Region → Region) : (s.onRegion r g).cyc = s.cyc := rfl
@[simp] theorem State.onRegion_rt (s : State) (r : Nat) (g : Region → Region) : (s.onRegion r g).rt = s.rt := rfl
@[simp] theorem State.onRegion_wsref (s : State) (r : Nat) (g : Region → Region) : (s.onRegion r g).wsref = s.wsref := rfl
@[simp] theorem State.onRegion_agenda (s : State) (r : Nat) (g : Region → Region) : (s.onRegion r g).agenda = s.agenda := rfl
@[simp] theorem State.onRegion_inbox (s : State) (r : Nat) (g : Region → Region) : (s.onRegion r g).inbox = s.inbox := rfl
@[simp] theorem State.onRegion_cur (s : State) (r : Nat) (g : Region → Region) : (s.onRegion r g).cur = s.cur := rfl
@[simp] theorem State.onRegion_tick (s : State) (r : Nat) (g : Region → Region) : (s.onRegion r g).tick = s.tick := rfl
@[simp] theorem State.onRegion_ret (s : State) (r : Nat) (g : Region → Region) : (s.onRegion r g).ret = s.ret := rfl
@[simp] theorem State.onRegion_msi (s : State) (r : Nat) (g : Region → Region) : (s.onRegion r g).msi = s.msi := rfl

@[simp] theorem State.setLoad_regions (s : State) (k : Nat) (l : Load) : (s.setLoad k l).regions = s.regions := rfl
@[simp] theorem State.setLoad_mem (s : State) (k : Nat) (l : Load) : (s.setLoad k l).mem = s.mem := rfl
@[simp] theorem State.setLoad_queues (s : State) (k : Nat) (l : Load) : (s.setLoad k l).queues = s.queues := rfl
@[simp] theorem State.setLoad_sched (s : State) (k : Nat) (l : Load) : (s.setLoad k l).sched = s.sched := rfl
@[simp] theorem State.setLoad_mmu (s : State) (k : Nat) (l : Load) : (s.setLoad k l).mmu = s.mmu := rfl
@[simp] theorem State.setLoad_eng (s : State) (k : Nat) (l : Load) : (s.setLoad k l).eng = s.eng := rfl
@[simp] theorem State.setLoad_links (s : State) (k : Nat) (l : Load) : (s.setLoad k l).links = s.links := rfl
@[simp] theorem State.setLoad_hub (s : State) (k : Nat) (l : Load) : (s.setLoad k l).hub = s.hub := rfl
@[simp] theorem State.setLoad_pwr (s : State) (k : Nat) (l : Load) : (s.setLoad k l).pwr = s.pwr := rfl
@[simp] theorem State.setLoad_cyc (s : State) (k : Nat) (l : Load) : (s.setLoad k l).cyc = s.cyc := rfl
@[simp] theorem State.setLoad_rt (s : State) (k : Nat) (l : Load) : (s.setLoad k l).rt = s.rt := rfl
@[simp] theorem State.setLoad_wsref (s : State) (k : Nat) (l : Load) : (s.setLoad k l).wsref = s.wsref := rfl
@[simp] theorem State.setLoad_agenda (s : State) (k : Nat) (l : Load) : (s.setLoad k l).agenda = s.agenda := rfl
@[simp] theorem State.setLoad_inbox (s : State) (k : Nat) (l : Load) : (s.setLoad k l).inbox = s.inbox := rfl
@[simp] theorem State.setLoad_cur (s : State) (k : Nat) (l : Load) : (s.setLoad k l).cur = s.cur := rfl
@[simp] theorem State.setLoad_tick (s : State) (k : Nat) (l : Load) : (s.setLoad k l).tick = s.tick := rfl
@[simp] theorem State.setLoad_ret (s : State) (k : Nat) (l : Load) : (s.setLoad k l).ret = s.ret := rfl
@[simp] theorem State.setLoad_msi (s : State) (k : Nat) (l : Load) : (s.setLoad k l).msi = s.msi := rfl

@[simp] theorem State.setQueue_regions (s : State) (q : Nat) (x : Queue) : (s.setQueue q x).regions = s.regions := rfl
@[simp] theorem State.setQueue_mem (s : State) (q : Nat) (x : Queue) : (s.setQueue q x).mem = s.mem := rfl
@[simp] theorem State.setQueue_loads (s : State) (q : Nat) (x : Queue) : (s.setQueue q x).loads = s.loads := rfl
@[simp] theorem State.setQueue_sched (s : State) (q : Nat) (x : Queue) : (s.setQueue q x).sched = s.sched := rfl
@[simp] theorem State.setQueue_mmu (s : State) (q : Nat) (x : Queue) : (s.setQueue q x).mmu = s.mmu := rfl
@[simp] theorem State.setQueue_eng (s : State) (q : Nat) (x : Queue) : (s.setQueue q x).eng = s.eng := rfl
@[simp] theorem State.setQueue_links (s : State) (q : Nat) (x : Queue) : (s.setQueue q x).links = s.links := rfl
@[simp] theorem State.setQueue_hub (s : State) (q : Nat) (x : Queue) : (s.setQueue q x).hub = s.hub := rfl
@[simp] theorem State.setQueue_pwr (s : State) (q : Nat) (x : Queue) : (s.setQueue q x).pwr = s.pwr := rfl
@[simp] theorem State.setQueue_cyc (s : State) (q : Nat) (x : Queue) : (s.setQueue q x).cyc = s.cyc := rfl
@[simp] theorem State.setQueue_rt (s : State) (q : Nat) (x : Queue) : (s.setQueue q x).rt = s.rt := rfl
@[simp] theorem State.setQueue_wsref (s : State) (q : Nat) (x : Queue) : (s.setQueue q x).wsref = s.wsref := rfl
@[simp] theorem State.setQueue_agenda (s : State) (q : Nat) (x : Queue) : (s.setQueue q x).agenda = s.agenda := rfl
@[simp] theorem State.setQueue_inbox (s : State) (q : Nat) (x : Queue) : (s.setQueue q x).inbox = s.inbox := rfl
@[simp] theorem State.setQueue_cur (s : State) (q : Nat) (x : Queue) : (s.setQueue q x).cur = s.cur := rfl
@[simp] theorem State.setQueue_tick (s : State) (q : Nat) (x : Queue) : (s.setQueue q x).tick = s.tick := rfl
@[simp] theorem State.setQueue_ret (s : State) (q : Nat) (x : Queue) : (s.setQueue q x).ret = s.ret := rfl
@[simp] theorem State.setQueue_msi (s : State) (q : Nat) (x : Queue) : (s.setQueue q x).msi = s.msi := rfl

@[simp] theorem State.bump_regions (s : State) : (s.bump).regions = s.regions := rfl
@[simp] theorem State.bump_mem (s : State) : (s.bump).mem = s.mem := rfl
@[simp] theorem State.bump_loads (s : State) : (s.bump).loads = s.loads := rfl
@[simp] theorem State.bump_queues (s : State) : (s.bump).queues = s.queues := rfl
@[simp] theorem State.bump_sched (s : State) : (s.bump).sched = s.sched := rfl
@[simp] theorem State.bump_mmu (s : State) : (s.bump).mmu = s.mmu := rfl
@[simp] theorem State.bump_eng (s : State) : (s.bump).eng = s.eng := rfl
@[simp] theorem State.bump_links (s : State) : (s.bump).links = s.links := rfl
@[simp] theorem State.bump_hub (s : State) : (s.bump).hub = s.hub := rfl
@[simp] theorem State.bump_pwr (s : State) : (s.bump).pwr = s.pwr := rfl
@[simp] theorem State.bump_cyc (s : State) : (s.bump).cyc = s.cyc := rfl
@[simp] theorem State.bump_rt (s : State) : (s.bump).rt = s.rt := rfl
@[simp] theorem State.bump_wsref (s : State) : (s.bump).wsref = s.wsref := rfl
@[simp] theorem State.bump_agenda (s : State) : (s.bump).agenda = s.agenda := rfl
@[simp] theorem State.bump_inbox (s : State) : (s.bump).inbox = s.inbox := rfl
@[simp] theorem State.bump_cur (s : State) : (s.bump).cur = s.cur := rfl
@[simp] theorem State.bump_ret (s : State) : (s.bump).ret = s.ret := rfl
@[simp] theorem State.bump_msi (s : State) : (s.bump).msi = s.msi := rfl

@[simp] theorem Region.setElem_mode (g : Region) (e : Nat) (x : Elem) : (g.setElem e x).mode = g.mode := rfl
@[simp] theorem Region.setElem_arr (g : Region) (e : Nat) (x : Elem) : (g.setElem e x).arr = g.arr := rfl
@[simp] theorem Region.setElem_seq (g : Region) (e : Nat) (x : Elem) : (g.setElem e x).seq = g.seq := rfl
@[simp] theorem Region.setElem_row (g : Region) (e : Nat) (x : Elem) : (g.setElem e x).row = g.row := rfl
@[simp] theorem Region.setElem_cfg (g : Region) (e : Nat) (x : Elem) : (g.setElem e x).cfg = g.cfg := rfl
@[simp] theorem Region.setElem_bxslot (g : Region) (e : Nat) (x : Elem) : (g.setElem e x).bxslot = g.bxslot := rfl
@[simp] theorem Region.setElem_owner (g : Region) (e : Nat) (x : Elem) : (g.setElem e x).owner = g.owner := rfl
@[simp] theorem Region.setElem_page (g : Region) (e : Nat) (x : Elem) : (g.setElem e x).page = g.page := rfl
@[simp] theorem Region.setElem_rstate (g : Region) (e : Nat) (x : Elem) : (g.setElem e x).rstate = g.rstate := rfl
@[simp] theorem Region.setElem_req (g : Region) (e : Nat) (x : Elem) : (g.setElem e x).req = g.req := rfl
@[simp] theorem Region.setElem_live (g : Region) (e : Nat) (x : Elem) : (g.setElem e x).live = g.live := rfl

/-- A key written is found. -/
theorem find_set_same {α : Type} (m : SMap α) (k : Nat) (v : α) : SMap.find (SMap.set m k v) k = some v := by
  induction m with
  | nil => simp [SMap.set, SMap.find]
  | cons p r ih =>
    obtain ⟨j, w⟩ := p
    simp only [SMap.set]
    split
    · simp [SMap.find]
    · split
      · simp [SMap.find]
      · next h _ => simp [SMap.find, h, ih]

/-- A write leaves what is found under every other key. -/
theorem find_set_ne {α : Type} (m : SMap α) {k k' : Nat} (v : α) (h : k' ≠ k) :
    SMap.find (SMap.set m k v) k' = SMap.find m k' := by
  induction m with
  | nil => simp [SMap.set, SMap.find, h]
  | cons p r ih =>
    obtain ⟨j, w⟩ := p
    simp only [SMap.set]
    split
    · next e => subst e; simp [SMap.find, h]
    · split
      · simp [SMap.find, h]
      · simp only [SMap.find, ih]

/-- A region written is read back. -/
@[simp] theorem State.region_setRegion (s : State) (r : Nat) (g : Region) : (s.setRegion r g).region r = g :=
  SMap.get_set_same _ _ _ _

/-- Writing a region leaves every other region. -/
theorem State.region_setRegion_ne (s : State) {r r' : Nat} (g : Region) (h : r' ≠ r) : (s.setRegion r g).region r' = s.region r' :=
  SMap.get_set_ne _ _ _ h

/-- An element written is read back in its region. -/
@[simp] theorem Region.elem_setElem (g : Region) (e : Nat) (x : Elem) : (g.setElem e x).elem e = x :=
  SMap.get_set_same _ _ _ _

/-- Writing an element leaves every other element of its region. -/
theorem Region.elem_setElem_ne (g : Region) {e e' : Nat} (x : Elem) (h : e' ≠ e) : (g.setElem e x).elem e' = g.elem e' :=
  SMap.get_set_ne _ _ _ h

/-- The region of an element written. -/
@[simp] theorem State.region_setElem (s : State) (r e : Nat) (x : Elem) : (s.setElem r e x).region r = (s.region r).setElem e x :=
  SMap.get_set_same _ _ _ _

/-- Writing an element leaves every other region. -/
theorem State.region_setElem_ne (s : State) {r r' : Nat} (e : Nat) (x : Elem) (h : r' ≠ r) :
    (s.setElem r e x).region r' = s.region r' :=
  SMap.get_set_ne _ _ _ h

/-- An element written is read back. -/
@[simp] theorem State.elem_setElem (s : State) (r e : Nat) (x : Elem) : (s.setElem r e x).elem r e = x := by
  simp [State.elem]

/-- Writing an element leaves every other element. -/
theorem State.elem_setElem_ne (s : State) {r r' e e' : Nat} (x : Elem) (h : r' ≠ r ∨ e' ≠ e) :
    (s.setElem r e x).elem r' e' = s.elem r' e' := by
  by_cases hr : r' = r
  · subst hr; simp only [State.elem, State.region_setElem]
    exact Region.elem_setElem_ne _ _ (h.resolve_left (fun g => g rfl))
  · simp only [State.elem, State.region_setElem_ne _ _ _ hr]

/-- A load written is found. -/
@[simp] theorem State.load_setLoad (s : State) (k : Nat) (l : Load) : (s.setLoad k l).load k = some l :=
  find_set_same _ _ _

/-- Writing a load leaves every other load. -/
theorem State.load_setLoad_ne (s : State) {k k' : Nat} (l : Load) (h : k' ≠ k) : (s.setLoad k l).load k' = s.load k' :=
  find_set_ne _ _ h

/-- A queue written is read back. -/
@[simp] theorem State.queue_setQueue (s : State) (q : Nat) (x : Queue) : (s.setQueue q x).queue q = x :=
  SMap.get_set_same _ _ _ _

/-- Writing a queue leaves every other queue. -/
theorem State.queue_setQueue_ne (s : State) {q q' : Nat} (x : Queue) (h : q' ≠ q) : (s.setQueue q x).queue q' = s.queue q' :=
  SMap.get_set_ne _ _ _ h

end Sys2Proof.Machine
end

