-- ==== Sys2Proof/Laws/Elem.lean ====
section
/-!
SUPPORT. What the named updates of an element leave in each of its fields, and what is read back of its registers and channels.
-/
namespace Sys2Proof.Machine

@[simp] theorem Elem.setReg_conf (x : Elem) (k : Nat) (v : Oct Word) : (x.setReg k v).conf = x.conf := rfl
@[simp] theorem Elem.setReg_preds (x : Elem) (k : Nat) (v : Oct Word) : (x.setReg k v).preds = x.preds := rfl
@[simp] theorem Elem.setReg_inq (x : Elem) (k : Nat) (v : Oct Word) : (x.setReg k v).inq = x.inq := rfl
@[simp] theorem Elem.setReg_outq (x : Elem) (k : Nat) (v : Oct Word) : (x.setReg k v).outq = x.outq := rfl
@[simp] theorem Elem.setReg_resv (x : Elem) (k : Nat) (v : Oct Word) : (x.setReg k v).resv = x.resv := rfl
@[simp] theorem Elem.setReg_seqo (x : Elem) (k : Nat) (v : Oct Word) : (x.setReg k v).seqo = x.seqo := rfl
@[simp] theorem Elem.setReg_sflags (x : Elem) (k : Nat) (v : Oct Word) : (x.setReg k v).sflags = x.sflags := rfl
@[simp] theorem Elem.setReg_sel (x : Elem) (k : Nat) (v : Oct Word) : (x.setReg k v).sel = x.sel := rfl
@[simp] theorem Elem.setReg_halted (x : Elem) (k : Nat) (v : Oct Word) : (x.setReg k v).halted = x.halted := rfl
@[simp] theorem Elem.setReg_faulted (x : Elem) (k : Nat) (v : Oct Word) : (x.setReg k v).faulted = x.faulted := rfl
@[simp] theorem Elem.setReg_fcyc (x : Elem) (k : Nat) (v : Oct Word) : (x.setReg k v).fcyc = x.fcyc := rfl
@[simp] theorem Elem.setReg_fvalid (x : Elem) (k : Nat) (v : Oct Word) : (x.setReg k v).fvalid = x.fvalid := rfl
@[simp] theorem Elem.setReg_last (x : Elem) (k : Nat) (v : Oct Word) : (x.setReg k v).last = x.last := rfl
@[simp] theorem Elem.setReg_wsel (x : Elem) (k : Nat) (v : Oct Word) : (x.setReg k v).wsel = x.wsel := rfl
@[simp] theorem Elem.setReg_wlo (x : Elem) (k : Nat) (v : Oct Word) : (x.setReg k v).wlo = x.wlo := rfl
@[simp] theorem Elem.setReg_whi (x : Elem) (k : Nat) (v : Oct Word) : (x.setReg k v).whi = x.whi := rfl
@[simp] theorem Elem.setReg_dcred (x : Elem) (k : Nat) (v : Oct Word) : (x.setReg k v).dcred = x.dcred := rfl
@[simp] theorem Elem.setReg_trk (x : Elem) (k : Nat) (v : Oct Word) : (x.setReg k v).trk = x.trk := rfl
@[simp] theorem Elem.setReg_su (x : Elem) (k : Nat) (v : Oct Word) : (x.setReg k v).su = x.su := rfl
@[simp] theorem Elem.setReg_port (x : Elem) (k : Nat) (v : Oct Word) : (x.setReg k v).port = x.port := rfl
@[simp] theorem Elem.setReg_rbuf (x : Elem) (k : Nat) (v : Oct Word) : (x.setReg k v).rbuf = x.rbuf := rfl
@[simp] theorem Elem.setReg_away (x : Elem) (k : Nat) (v : Oct Word) : (x.setReg k v).away = x.away := rfl
@[simp] theorem Elem.setReg_spare (x : Elem) (k : Nat) (v : Oct Word) : (x.setReg k v).spare = x.spare := rfl
@[simp] theorem Elem.setReg_spareSel (x : Elem) (k : Nat) (v : Oct Word) : (x.setReg k v).spareSel = x.spareSel := rfl

@[simp] theorem Elem.writeLanes_conf (x : Elem) (k : Nat) (m : Byte) (v : Oct Word) : (x.writeLanes k m v).conf = x.conf := rfl
@[simp] theorem Elem.writeLanes_preds (x : Elem) (k : Nat) (m : Byte) (v : Oct Word) : (x.writeLanes k m v).preds = x.preds := rfl
@[simp] theorem Elem.writeLanes_inq (x : Elem) (k : Nat) (m : Byte) (v : Oct Word) : (x.writeLanes k m v).inq = x.inq := rfl
@[simp] theorem Elem.writeLanes_outq (x : Elem) (k : Nat) (m : Byte) (v : Oct Word) : (x.writeLanes k m v).outq = x.outq := rfl
@[simp] theorem Elem.writeLanes_resv (x : Elem) (k : Nat) (m : Byte) (v : Oct Word) : (x.writeLanes k m v).resv = x.resv := rfl
@[simp] theorem Elem.writeLanes_seqo (x : Elem) (k : Nat) (m : Byte) (v : Oct Word) : (x.writeLanes k m v).seqo = x.seqo := rfl
@[simp] theorem Elem.writeLanes_sflags (x : Elem) (k : Nat) (m : Byte) (v : Oct Word) : (x.writeLanes k m v).sflags = x.sflags := rfl
@[simp] theorem Elem.writeLanes_sel (x : Elem) (k : Nat) (m : Byte) (v : Oct Word) : (x.writeLanes k m v).sel = x.sel := rfl
@[simp] theorem Elem.writeLanes_halted (x : Elem) (k : Nat) (m : Byte) (v : Oct Word) : (x.writeLanes k m v).halted = x.halted := rfl
@[simp] theorem Elem.writeLanes_faulted (x : Elem) (k : Nat) (m : Byte) (v : Oct Word) : (x.writeLanes k m v).faulted = x.faulted := rfl
@[simp] theorem Elem.writeLanes_fcyc (x : Elem) (k : Nat) (m : Byte) (v : Oct Word) : (x.writeLanes k m v).fcyc = x.fcyc := rfl
@[simp] theorem Elem.writeLanes_fvalid (x : Elem) (k : Nat) (m : Byte) (v : Oct Word) : (x.writeLanes k m v).fvalid = x.fvalid := rfl
@[simp] theorem Elem.writeLanes_last (x : Elem) (k : Nat) (m : Byte) (v : Oct Word) : (x.writeLanes k m v).last = x.last := rfl
@[simp] theorem Elem.writeLanes_wsel (x : Elem) (k : Nat) (m : Byte) (v : Oct Word) : (x.writeLanes k m v).wsel = x.wsel := rfl
@[simp] theorem Elem.writeLanes_wlo (x : Elem) (k : Nat) (m : Byte) (v : Oct Word) : (x.writeLanes k m v).wlo = x.wlo := rfl
@[simp] theorem Elem.writeLanes_whi (x : Elem) (k : Nat) (m : Byte) (v : Oct Word) : (x.writeLanes k m v).whi = x.whi := rfl
@[simp] theorem Elem.writeLanes_dcred (x : Elem) (k : Nat) (m : Byte) (v : Oct Word) : (x.writeLanes k m v).dcred = x.dcred := rfl
@[simp] theorem Elem.writeLanes_trk (x : Elem) (k : Nat) (m : Byte) (v : Oct Word) : (x.writeLanes k m v).trk = x.trk := rfl
@[simp] theorem Elem.writeLanes_su (x : Elem) (k : Nat) (m : Byte) (v : Oct Word) : (x.writeLanes k m v).su = x.su := rfl
@[simp] theorem Elem.writeLanes_port (x : Elem) (k : Nat) (m : Byte) (v : Oct Word) : (x.writeLanes k m v).port = x.port := rfl
@[simp] theorem Elem.writeLanes_rbuf (x : Elem) (k : Nat) (m : Byte) (v : Oct Word) : (x.writeLanes k m v).rbuf = x.rbuf := rfl
@[simp] theorem Elem.writeLanes_away (x : Elem) (k : Nat) (m : Byte) (v : Oct Word) : (x.writeLanes k m v).away = x.away := rfl
@[simp] theorem Elem.writeLanes_spare (x : Elem) (k : Nat) (m : Byte) (v : Oct Word) : (x.writeLanes k m v).spare = x.spare := rfl
@[simp] theorem Elem.writeLanes_spareSel (x : Elem) (k : Nat) (m : Byte) (v : Oct Word) : (x.writeLanes k m v).spareSel = x.spareSel := rfl

@[simp] theorem Elem.writePred_conf (x : Elem) (k : Nat) (m v : Byte) : (x.writePred k m v).conf = x.conf := rfl
@[simp] theorem Elem.writePred_regs (x : Elem) (k : Nat) (m v : Byte) : (x.writePred k m v).regs = x.regs := rfl
@[simp] theorem Elem.writePred_inq (x : Elem) (k : Nat) (m v : Byte) : (x.writePred k m v).inq = x.inq := rfl
@[simp] theorem Elem.writePred_outq (x : Elem) (k : Nat) (m v : Byte) : (x.writePred k m v).outq = x.outq := rfl
@[simp] theorem Elem.writePred_resv (x : Elem) (k : Nat) (m v : Byte) : (x.writePred k m v).resv = x.resv := rfl
@[simp] theorem Elem.writePred_seqo (x : Elem) (k : Nat) (m v : Byte) : (x.writePred k m v).seqo = x.seqo := rfl
@[simp] theorem Elem.writePred_sflags (x : Elem) (k : Nat) (m v : Byte) : (x.writePred k m v).sflags = x.sflags := rfl
@[simp] theorem Elem.writePred_sel (x : Elem) (k : Nat) (m v : Byte) : (x.writePred k m v).sel = x.sel := rfl
@[simp] theorem Elem.writePred_halted (x : Elem) (k : Nat) (m v : Byte) : (x.writePred k m v).halted = x.halted := rfl
@[simp] theorem Elem.writePred_faulted (x : Elem) (k : Nat) (m v : Byte) : (x.writePred k m v).faulted = x.faulted := rfl
@[simp] theorem Elem.writePred_fcyc (x : Elem) (k : Nat) (m v : Byte) : (x.writePred k m v).fcyc = x.fcyc := rfl
@[simp] theorem Elem.writePred_fvalid (x : Elem) (k : Nat) (m v : Byte) : (x.writePred k m v).fvalid = x.fvalid := rfl
@[simp] theorem Elem.writePred_last (x : Elem) (k : Nat) (m v : Byte) : (x.writePred k m v).last = x.last := rfl
@[simp] theorem Elem.writePred_wsel (x : Elem) (k : Nat) (m v : Byte) : (x.writePred k m v).wsel = x.wsel := rfl
@[simp] theorem Elem.writePred_wlo (x : Elem) (k : Nat) (m v : Byte) : (x.writePred k m v).wlo = x.wlo := rfl
@[simp] theorem Elem.writePred_whi (x : Elem) (k : Nat) (m v : Byte) : (x.writePred k m v).whi = x.whi := rfl
@[simp] theorem Elem.writePred_dcred (x : Elem) (k : Nat) (m v : Byte) : (x.writePred k m v).dcred = x.dcred := rfl
@[simp] theorem Elem.writePred_trk (x : Elem) (k : Nat) (m v : Byte) : (x.writePred k m v).trk = x.trk := rfl
@[simp] theorem Elem.writePred_su (x : Elem) (k : Nat) (m v : Byte) : (x.writePred k m v).su = x.su := rfl
@[simp] theorem Elem.writePred_port (x : Elem) (k : Nat) (m v : Byte) : (x.writePred k m v).port = x.port := rfl
@[simp] theorem Elem.writePred_rbuf (x : Elem) (k : Nat) (m v : Byte) : (x.writePred k m v).rbuf = x.rbuf := rfl
@[simp] theorem Elem.writePred_away (x : Elem) (k : Nat) (m v : Byte) : (x.writePred k m v).away = x.away := rfl
@[simp] theorem Elem.writePred_spare (x : Elem) (k : Nat) (m v : Byte) : (x.writePred k m v).spare = x.spare := rfl
@[simp] theorem Elem.writePred_spareSel (x : Elem) (k : Nat) (m v : Byte) : (x.writePred k m v).spareSel = x.spareSel := rfl

@[simp] theorem Elem.dequeue_conf (x : Elem) (k : Nat) : (x.dequeue k).conf = x.conf := rfl
@[simp] theorem Elem.dequeue_regs (x : Elem) (k : Nat) : (x.dequeue k).regs = x.regs := rfl
@[simp] theorem Elem.dequeue_preds (x : Elem) (k : Nat) : (x.dequeue k).preds = x.preds := rfl
@[simp] theorem Elem.dequeue_outq (x : Elem) (k : Nat) : (x.dequeue k).outq = x.outq := rfl
@[simp] theorem Elem.dequeue_resv (x : Elem) (k : Nat) : (x.dequeue k).resv = x.resv := rfl
@[simp] theorem Elem.dequeue_seqo (x : Elem) (k : Nat) : (x.dequeue k).seqo = x.seqo := rfl
@[simp] theorem Elem.dequeue_sflags (x : Elem) (k : Nat) : (x.dequeue k).sflags = x.sflags := rfl
@[simp] theorem Elem.dequeue_sel (x : Elem) (k : Nat) : (x.dequeue k).sel = x.sel := rfl
@[simp] theorem Elem.dequeue_halted (x : Elem) (k : Nat) : (x.dequeue k).halted = x.halted := rfl
@[simp] theorem Elem.dequeue_faulted (x : Elem) (k : Nat) : (x.dequeue k).faulted = x.faulted := rfl
@[simp] theorem Elem.dequeue_fcyc (x : Elem) (k : Nat) : (x.dequeue k).fcyc = x.fcyc := rfl
@[simp] theorem Elem.dequeue_fvalid (x : Elem) (k : Nat) : (x.dequeue k).fvalid = x.fvalid := rfl
@[simp] theorem Elem.dequeue_last (x : Elem) (k : Nat) : (x.dequeue k).last = x.last := rfl
@[simp] theorem Elem.dequeue_wsel (x : Elem) (k : Nat) : (x.dequeue k).wsel = x.wsel := rfl
@[simp] theorem Elem.dequeue_wlo (x : Elem) (k : Nat) : (x.dequeue k).wlo = x.wlo := rfl
@[simp] theorem Elem.dequeue_whi (x : Elem) (k : Nat) : (x.dequeue k).whi = x.whi := rfl
@[simp] theorem Elem.dequeue_dcred (x : Elem) (k : Nat) : (x.dequeue k).dcred = x.dcred := rfl
@[simp] theorem Elem.dequeue_trk (x : Elem) (k : Nat) : (x.dequeue k).trk = x.trk := rfl
@[simp] theorem Elem.dequeue_su (x : Elem) (k : Nat) : (x.dequeue k).su = x.su := rfl
@[simp] theorem Elem.dequeue_port (x : Elem) (k : Nat) : (x.dequeue k).port = x.port := rfl
@[simp] theorem Elem.dequeue_rbuf (x : Elem) (k : Nat) : (x.dequeue k).rbuf = x.rbuf := rfl
@[simp] theorem Elem.dequeue_away (x : Elem) (k : Nat) : (x.dequeue k).away = x.away := rfl
@[simp] theorem Elem.dequeue_spare (x : Elem) (k : Nat) : (x.dequeue k).spare = x.spare := rfl
@[simp] theorem Elem.dequeue_spareSel (x : Elem) (k : Nat) : (x.dequeue k).spareSel = x.spareSel := rfl

@[simp] theorem Elem.push_conf (x : Elem) (c : Nat) (t : Token) : (x.push c t).conf = x.conf := rfl
@[simp] theorem Elem.push_regs (x : Elem) (c : Nat) (t : Token) : (x.push c t).regs = x.regs := rfl
@[simp] theorem Elem.push_preds (x : Elem) (c : Nat) (t : Token) : (x.push c t).preds = x.preds := rfl
@[simp] theorem Elem.push_inq (x : Elem) (c : Nat) (t : Token) : (x.push c t).inq = x.inq := rfl
@[simp] theorem Elem.push_resv (x : Elem) (c : Nat) (t : Token) : (x.push c t).resv = x.resv := rfl
@[simp] theorem Elem.push_sflags (x : Elem) (c : Nat) (t : Token) : (x.push c t).sflags = x.sflags := rfl
@[simp] theorem Elem.push_sel (x : Elem) (c : Nat) (t : Token) : (x.push c t).sel = x.sel := rfl
@[simp] theorem Elem.push_halted (x : Elem) (c : Nat) (t : Token) : (x.push c t).halted = x.halted := rfl
@[simp] theorem Elem.push_faulted (x : Elem) (c : Nat) (t : Token) : (x.push c t).faulted = x.faulted := rfl
@[simp] theorem Elem.push_fcyc (x : Elem) (c : Nat) (t : Token) : (x.push c t).fcyc = x.fcyc := rfl
@[simp] theorem Elem.push_fvalid (x : Elem) (c : Nat) (t : Token) : (x.push c t).fvalid = x.fvalid := rfl
@[simp] theorem Elem.push_last (x : Elem) (c : Nat) (t : Token) : (x.push c t).last = x.last := rfl
@[simp] theorem Elem.push_wsel (x : Elem) (c : Nat) (t : Token) : (x.push c t).wsel = x.wsel := rfl
@[simp] theorem Elem.push_wlo (x : Elem) (c : Nat) (t : Token) : (x.push c t).wlo = x.wlo := rfl
@[simp] theorem Elem.push_whi (x : Elem) (c : Nat) (t : Token) : (x.push c t).whi = x.whi := rfl
@[simp] theorem Elem.push_trk (x : Elem) (c : Nat) (t : Token) : (x.push c t).trk = x.trk := rfl
@[simp] theorem Elem.push_su (x : Elem) (c : Nat) (t : Token) : (x.push c t).su = x.su := rfl
@[simp] theorem Elem.push_port (x : Elem) (c : Nat) (t : Token) : (x.push c t).port = x.port := rfl
@[simp] theorem Elem.push_rbuf (x : Elem) (c : Nat) (t : Token) : (x.push c t).rbuf = x.rbuf := rfl
@[simp] theorem Elem.push_away (x : Elem) (c : Nat) (t : Token) : (x.push c t).away = x.away := rfl
@[simp] theorem Elem.push_spare (x : Elem) (c : Nat) (t : Token) : (x.push c t).spare = x.spare := rfl
@[simp] theorem Elem.push_spareSel (x : Elem) (c : Nat) (t : Token) : (x.push c t).spareSel = x.spareSel := rfl

@[simp] theorem Elem.flag_conf (x : Elem) (ev : Byte) : (x.flag ev).conf = x.conf := rfl
@[simp] theorem Elem.flag_regs (x : Elem) (ev : Byte) : (x.flag ev).regs = x.regs := rfl
@[simp] theorem Elem.flag_preds (x : Elem) (ev : Byte) : (x.flag ev).preds = x.preds := rfl
@[simp] theorem Elem.flag_inq (x : Elem) (ev : Byte) : (x.flag ev).inq = x.inq := rfl
@[simp] theorem Elem.flag_outq (x : Elem) (ev : Byte) : (x.flag ev).outq = x.outq := rfl
@[simp] theorem Elem.flag_resv (x : Elem) (ev : Byte) : (x.flag ev).resv = x.resv := rfl
@[simp] theorem Elem.flag_seqo (x : Elem) (ev : Byte) : (x.flag ev).seqo = x.seqo := rfl
@[simp] theorem Elem.flag_sel (x : Elem) (ev : Byte) : (x.flag ev).sel = x.sel := rfl
@[simp] theorem Elem.flag_halted (x : Elem) (ev : Byte) : (x.flag ev).halted = x.halted := rfl
@[simp] theorem Elem.flag_faulted (x : Elem) (ev : Byte) : (x.flag ev).faulted = x.faulted := rfl
@[simp] theorem Elem.flag_fcyc (x : Elem) (ev : Byte) : (x.flag ev).fcyc = x.fcyc := rfl
@[simp] theorem Elem.flag_fvalid (x : Elem) (ev : Byte) : (x.flag ev).fvalid = x.fvalid := rfl
@[simp] theorem Elem.flag_last (x : Elem) (ev : Byte) : (x.flag ev).last = x.last := rfl
@[simp] theorem Elem.flag_wsel (x : Elem) (ev : Byte) : (x.flag ev).wsel = x.wsel := rfl
@[simp] theorem Elem.flag_wlo (x : Elem) (ev : Byte) : (x.flag ev).wlo = x.wlo := rfl
@[simp] theorem Elem.flag_whi (x : Elem) (ev : Byte) : (x.flag ev).whi = x.whi := rfl
@[simp] theorem Elem.flag_dcred (x : Elem) (ev : Byte) : (x.flag ev).dcred = x.dcred := rfl
@[simp] theorem Elem.flag_trk (x : Elem) (ev : Byte) : (x.flag ev).trk = x.trk := rfl
@[simp] theorem Elem.flag_su (x : Elem) (ev : Byte) : (x.flag ev).su = x.su := rfl
@[simp] theorem Elem.flag_port (x : Elem) (ev : Byte) : (x.flag ev).port = x.port := rfl
@[simp] theorem Elem.flag_rbuf (x : Elem) (ev : Byte) : (x.flag ev).rbuf = x.rbuf := rfl
@[simp] theorem Elem.flag_away (x : Elem) (ev : Byte) : (x.flag ev).away = x.away := rfl
@[simp] theorem Elem.flag_spare (x : Elem) (ev : Byte) : (x.flag ev).spare = x.spare := rfl
@[simp] theorem Elem.flag_spareSel (x : Elem) (ev : Byte) : (x.flag ev).spareSel = x.spareSel := rfl

@[simp] theorem Elem.markFired_conf (x : Elem) (n : Nat) : (x.markFired n).conf = x.conf := rfl
@[simp] theorem Elem.markFired_regs (x : Elem) (n : Nat) : (x.markFired n).regs = x.regs := rfl
@[simp] theorem Elem.markFired_preds (x : Elem) (n : Nat) : (x.markFired n).preds = x.preds := rfl
@[simp] theorem Elem.markFired_inq (x : Elem) (n : Nat) : (x.markFired n).inq = x.inq := rfl
@[simp] theorem Elem.markFired_outq (x : Elem) (n : Nat) : (x.markFired n).outq = x.outq := rfl
@[simp] theorem Elem.markFired_resv (x : Elem) (n : Nat) : (x.markFired n).resv = x.resv := rfl
@[simp] theorem Elem.markFired_seqo (x : Elem) (n : Nat) : (x.markFired n).seqo = x.seqo := rfl
@[simp] theorem Elem.markFired_sflags (x : Elem) (n : Nat) : (x.markFired n).sflags = x.sflags := rfl
@[simp] theorem Elem.markFired_sel (x : Elem) (n : Nat) : (x.markFired n).sel = x.sel := rfl
@[simp] theorem Elem.markFired_halted (x : Elem) (n : Nat) : (x.markFired n).halted = x.halted := rfl
@[simp] theorem Elem.markFired_faulted (x : Elem) (n : Nat) : (x.markFired n).faulted = x.faulted := rfl
@[simp] theorem Elem.markFired_fcyc (x : Elem) (n : Nat) : (x.markFired n).fcyc = x.fcyc := rfl
@[simp] theorem Elem.markFired_wsel (x : Elem) (n : Nat) : (x.markFired n).wsel = x.wsel := rfl
@[simp] theorem Elem.markFired_wlo (x : Elem) (n : Nat) : (x.markFired n).wlo = x.wlo := rfl
@[simp] theorem Elem.markFired_whi (x : Elem) (n : Nat) : (x.markFired n).whi = x.whi := rfl
@[simp] theorem Elem.markFired_dcred (x : Elem) (n : Nat) : (x.markFired n).dcred = x.dcred := rfl
@[simp] theorem Elem.markFired_trk (x : Elem) (n : Nat) : (x.markFired n).trk = x.trk := rfl
@[simp] theorem Elem.markFired_su (x : Elem) (n : Nat) : (x.markFired n).su = x.su := rfl
@[simp] theorem Elem.markFired_port (x : Elem) (n : Nat) : (x.markFired n).port = x.port := rfl
@[simp] theorem Elem.markFired_rbuf (x : Elem) (n : Nat) : (x.markFired n).rbuf = x.rbuf := rfl
@[simp] theorem Elem.markFired_away (x : Elem) (n : Nat) : (x.markFired n).away = x.away := rfl
@[simp] theorem Elem.markFired_spare (x : Elem) (n : Nat) : (x.markFired n).spare = x.spare := rfl
@[simp] theorem Elem.markFired_spareSel (x : Elem) (n : Nat) : (x.markFired n).spareSel = x.spareSel := rfl

@[simp] theorem Elem.reserve_conf (x : Elem) (c : Nat) (kd : BitVec 3) : (x.reserve c kd).conf = x.conf := rfl
@[simp] theorem Elem.reserve_regs (x : Elem) (c : Nat) (kd : BitVec 3) : (x.reserve c kd).regs = x.regs := rfl
@[simp] theorem Elem.reserve_preds (x : Elem) (c : Nat) (kd : BitVec 3) : (x.reserve c kd).preds = x.preds := rfl
@[simp] theorem Elem.reserve_inq (x : Elem) (c : Nat) (kd : BitVec 3) : (x.reserve c kd).inq = x.inq := rfl
@[simp] theorem Elem.reserve_outq (x : Elem) (c : Nat) (kd : BitVec 3) : (x.reserve c kd).outq = x.outq := rfl
@[simp] theorem Elem.reserve_seqo (x : Elem) (c : Nat) (kd : BitVec 3) : (x.reserve c kd).seqo = x.seqo := rfl
@[simp] theorem Elem.reserve_sflags (x : Elem) (c : Nat) (kd : BitVec 3) : (x.reserve c kd).sflags = x.sflags := rfl
@[simp] theorem Elem.reserve_sel (x : Elem) (c : Nat) (kd : BitVec 3) : (x.reserve c kd).sel = x.sel := rfl
@[simp] theorem Elem.reserve_halted (x : Elem) (c : Nat) (kd : BitVec 3) : (x.reserve c kd).halted = x.halted := rfl
@[simp] theorem Elem.reserve_faulted (x : Elem) (c : Nat) (kd : BitVec 3) : (x.reserve c kd).faulted = x.faulted := rfl
@[simp] theorem Elem.reserve_fcyc (x : Elem) (c : Nat) (kd : BitVec 3) : (x.reserve c kd).fcyc = x.fcyc := rfl
@[simp] theorem Elem.reserve_fvalid (x : Elem) (c : Nat) (kd : BitVec 3) : (x.reserve c kd).fvalid = x.fvalid := rfl
@[simp] theorem Elem.reserve_last (x : Elem) (c : Nat) (kd : BitVec 3) : (x.reserve c kd).last = x.last := rfl
@[simp] theorem Elem.reserve_wsel (x : Elem) (c : Nat) (kd : BitVec 3) : (x.reserve c kd).wsel = x.wsel := rfl
@[simp] theorem Elem.reserve_wlo (x : Elem) (c : Nat) (kd : BitVec 3) : (x.reserve c kd).wlo = x.wlo := rfl
@[simp] theorem Elem.reserve_whi (x : Elem) (c : Nat) (kd : BitVec 3) : (x.reserve c kd).whi = x.whi := rfl
@[simp] theorem Elem.reserve_trk (x : Elem) (c : Nat) (kd : BitVec 3) : (x.reserve c kd).trk = x.trk := rfl
@[simp] theorem Elem.reserve_su (x : Elem) (c : Nat) (kd : BitVec 3) : (x.reserve c kd).su = x.su := rfl
@[simp] theorem Elem.reserve_port (x : Elem) (c : Nat) (kd : BitVec 3) : (x.reserve c kd).port = x.port := rfl
@[simp] theorem Elem.reserve_rbuf (x : Elem) (c : Nat) (kd : BitVec 3) : (x.reserve c kd).rbuf = x.rbuf := rfl
@[simp] theorem Elem.reserve_away (x : Elem) (c : Nat) (kd : BitVec 3) : (x.reserve c kd).away = x.away := rfl
@[simp] theorem Elem.reserve_spare (x : Elem) (c : Nat) (kd : BitVec 3) : (x.reserve c kd).spare = x.spare := rfl
@[simp] theorem Elem.reserve_spareSel (x : Elem) (c : Nat) (kd : BitVec 3) : (x.reserve c kd).spareSel = x.spareSel := rfl

@[simp] theorem Elem.dequeueAll_conf (x : Elem) (ks : List Nat) : (x.dequeueAll ks).conf = x.conf := by
  induction ks generalizing x with
  | nil => rfl
  | cons k ks ih => exact (ih (x.dequeue k)).trans rfl
@[simp] theorem Elem.dequeueAll_regs (x : Elem) (ks : List Nat) : (x.dequeueAll ks).regs = x.regs := by
  induction ks generalizing x with
  | nil => rfl
  | cons k ks ih => exact (ih (x.dequeue k)).trans rfl
@[simp] theorem Elem.dequeueAll_preds (x : Elem) (ks : List Nat) : (x.dequeueAll ks).preds = x.preds := by
  induction ks generalizing x with
  | nil => rfl
  | cons k ks ih => exact (ih (x.dequeue k)).trans rfl
@[simp] theorem Elem.dequeueAll_outq (x : Elem) (ks : List Nat) : (x.dequeueAll ks).outq = x.outq := by
  induction ks generalizing x with
  | nil => rfl
  | cons k ks ih => exact (ih (x.dequeue k)).trans rfl
@[simp] theorem Elem.dequeueAll_resv (x : Elem) (ks : List Nat) : (x.dequeueAll ks).resv = x.resv := by
  induction ks generalizing x with
  | nil => rfl
  | cons k ks ih => exact (ih (x.dequeue k)).trans rfl
@[simp] theorem Elem.dequeueAll_seqo (x : Elem) (ks : List Nat) : (x.dequeueAll ks).seqo = x.seqo := by
  induction ks generalizing x with
  | nil => rfl
  | cons k ks ih => exact (ih (x.dequeue k)).trans rfl
@[simp] theorem Elem.dequeueAll_sflags (x : Elem) (ks : List Nat) : (x.dequeueAll ks).sflags = x.sflags := by
  induction ks generalizing x with
  | nil => rfl
  | cons k ks ih => exact (ih (x.dequeue k)).trans rfl
@[simp] theorem Elem.dequeueAll_sel (x : Elem) (ks : List Nat) : (x.dequeueAll ks).sel = x.sel := by
  induction ks generalizing x with
  | nil => rfl
  | cons k ks ih => exact (ih (x.dequeue k)).trans rfl
@[simp] theorem Elem.dequeueAll_halted (x : Elem) (ks : List Nat) : (x.dequeueAll ks).halted = x.halted := by
  induction ks generalizing x with
  | nil => rfl
  | cons k ks ih => exact (ih (x.dequeue k)).trans rfl
@[simp] theorem Elem.dequeueAll_faulted (x : Elem) (ks : List Nat) : (x.dequeueAll ks).faulted = x.faulted := by
  induction ks generalizing x with
  | nil => rfl
  | cons k ks ih => exact (ih (x.dequeue k)).trans rfl
@[simp] theorem Elem.dequeueAll_fcyc (x : Elem) (ks : List Nat) : (x.dequeueAll ks).fcyc = x.fcyc := by
  induction ks generalizing x with
  | nil => rfl
  | cons k ks ih => exact (ih (x.dequeue k)).trans rfl
@[simp] theorem Elem.dequeueAll_fvalid (x : Elem) (ks : List Nat) : (x.dequeueAll ks).fvalid = x.fvalid := by
  induction ks generalizing x with
  | nil => rfl
  | cons k ks ih => exact (ih (x.dequeue k)).trans rfl
@[simp] theorem Elem.dequeueAll_last (x : Elem) (ks : List Nat) : (x.dequeueAll ks).last = x.last := by
  induction ks generalizing x with
  | nil => rfl
  | cons k ks ih => exact (ih (x.dequeue k)).trans rfl
@[simp] theorem Elem.dequeueAll_wsel (x : Elem) (ks : List Nat) : (x.dequeueAll ks).wsel = x.wsel := by
  induction ks generalizing x with
  | nil => rfl
  | cons k ks ih => exact (ih (x.dequeue k)).trans rfl
@[simp] theorem Elem.dequeueAll_wlo (x : Elem) (ks : List Nat) : (x.dequeueAll ks).wlo = x.wlo := by
  induction ks generalizing x with
  | nil => rfl
  | cons k ks ih => exact (ih (x.dequeue k)).trans rfl
@[simp] theorem Elem.dequeueAll_whi (x : Elem) (ks : List Nat) : (x.dequeueAll ks).whi = x.whi := by
  induction ks generalizing x with
  | nil => rfl
  | cons k ks ih => exact (ih (x.dequeue k)).trans rfl
@[simp] theorem Elem.dequeueAll_dcred (x : Elem) (ks : List Nat) : (x.dequeueAll ks).dcred = x.dcred := by
  induction ks generalizing x with
  | nil => rfl
  | cons k ks ih => exact (ih (x.dequeue k)).trans rfl
@[simp] theorem Elem.dequeueAll_trk (x : Elem) (ks : List Nat) : (x.dequeueAll ks).trk = x.trk := by
  induction ks generalizing x with
  | nil => rfl
  | cons k ks ih => exact (ih (x.dequeue k)).trans rfl
@[simp] theorem Elem.dequeueAll_su (x : Elem) (ks : List Nat) : (x.dequeueAll ks).su = x.su := by
  induction ks generalizing x with
  | nil => rfl
  | cons k ks ih => exact (ih (x.dequeue k)).trans rfl
@[simp] theorem Elem.dequeueAll_port (x : Elem) (ks : List Nat) : (x.dequeueAll ks).port = x.port := by
  induction ks generalizing x with
  | nil => rfl
  | cons k ks ih => exact (ih (x.dequeue k)).trans rfl
@[simp] theorem Elem.dequeueAll_rbuf (x : Elem) (ks : List Nat) : (x.dequeueAll ks).rbuf = x.rbuf := by
  induction ks generalizing x with
  | nil => rfl
  | cons k ks ih => exact (ih (x.dequeue k)).trans rfl
@[simp] theorem Elem.dequeueAll_away (x : Elem) (ks : List Nat) : (x.dequeueAll ks).away = x.away := by
  induction ks generalizing x with
  | nil => rfl
  | cons k ks ih => exact (ih (x.dequeue k)).trans rfl
@[simp] theorem Elem.dequeueAll_spare (x : Elem) (ks : List Nat) : (x.dequeueAll ks).spare = x.spare := by
  induction ks generalizing x with
  | nil => rfl
  | cons k ks ih => exact (ih (x.dequeue k)).trans rfl
@[simp] theorem Elem.dequeueAll_spareSel (x : Elem) (ks : List Nat) : (x.dequeueAll ks).spareSel = x.spareSel := by
  induction ks generalizing x with
  | nil => rfl
  | cons k ks ih => exact (ih (x.dequeue k)).trans rfl

@[simp] theorem predUpdate_conf (x : Elem) (f : Fields) (m nz cmp : Byte) : (predUpdate x f m nz cmp).conf = x.conf := by
  unfold predUpdate; split <;> rfl
@[simp] theorem predUpdate_regs (x : Elem) (f : Fields) (m nz cmp : Byte) : (predUpdate x f m nz cmp).regs = x.regs := by
  unfold predUpdate; split <;> rfl
@[simp] theorem predUpdate_inq (x : Elem) (f : Fields) (m nz cmp : Byte) : (predUpdate x f m nz cmp).inq = x.inq := by
  unfold predUpdate; split <;> rfl
@[simp] theorem predUpdate_outq (x : Elem) (f : Fields) (m nz cmp : Byte) : (predUpdate x f m nz cmp).outq = x.outq := by
  unfold predUpdate; split <;> rfl
@[simp] theorem predUpdate_resv (x : Elem) (f : Fields) (m nz cmp : Byte) : (predUpdate x f m nz cmp).resv = x.resv := by
  unfold predUpdate; split <;> rfl
@[simp] theorem predUpdate_seqo (x : Elem) (f : Fields) (m nz cmp : Byte) : (predUpdate x f m nz cmp).seqo = x.seqo := by
  unfold predUpdate; split <;> rfl
@[simp] theorem predUpdate_sflags (x : Elem) (f : Fields) (m nz cmp : Byte) : (predUpdate x f m nz cmp).sflags = x.sflags := by
  unfold predUpdate; split <;> rfl
@[simp] theorem predUpdate_sel (x : Elem) (f : Fields) (m nz cmp : Byte) : (predUpdate x f m nz cmp).sel = x.sel := by
  unfold predUpdate; split <;> rfl
@[simp] theorem predUpdate_halted (x : Elem) (f : Fields) (m nz cmp : Byte) : (predUpdate x f m nz cmp).halted = x.halted := by
  unfold predUpdate; split <;> rfl
@[simp] theorem predUpdate_faulted (x : Elem) (f : Fields) (m nz cmp : Byte) : (predUpdate x f m nz cmp).faulted = x.faulted := by
  unfold predUpdate; split <;> rfl
@[simp] theorem predUpdate_fcyc (x : Elem) (f : Fields) (m nz cmp : Byte) : (predUpdate x f m nz cmp).fcyc = x.fcyc := by
  unfold predUpdate; split <;> rfl
@[simp] theorem predUpdate_fvalid (x : Elem) (f : Fields) (m nz cmp : Byte) : (predUpdate x f m nz cmp).fvalid = x.fvalid := by
  unfold predUpdate; split <;> rfl
@[simp] theorem predUpdate_last (x : Elem) (f : Fields) (m nz cmp : Byte) : (predUpdate x f m nz cmp).last = x.last := by
  unfold predUpdate; split <;> rfl
@[simp] theorem predUpdate_wsel (x : Elem) (f : Fields) (m nz cmp : Byte) : (predUpdate x f m nz cmp).wsel = x.wsel := by
  unfold predUpdate; split <;> rfl
@[simp] theorem predUpdate_wlo (x : Elem) (f : Fields) (m nz cmp : Byte) : (predUpdate x f m nz cmp).wlo = x.wlo := by
  unfold predUpdate; split <;> rfl
@[simp] theorem predUpdate_whi (x : Elem) (f : Fields) (m nz cmp : Byte) : (predUpdate x f m nz cmp).whi = x.whi := by
  unfold predUpdate; split <;> rfl
@[simp] theorem predUpdate_dcred (x : Elem) (f : Fields) (m nz cmp : Byte) : (predUpdate x f m nz cmp).dcred = x.dcred := by
  unfold predUpdate; split <;> rfl
@[simp] theorem predUpdate_trk (x : Elem) (f : Fields) (m nz cmp : Byte) : (predUpdate x f m nz cmp).trk = x.trk := by
  unfold predUpdate; split <;> rfl
@[simp] theorem predUpdate_su (x : Elem) (f : Fields) (m nz cmp : Byte) : (predUpdate x f m nz cmp).su = x.su := by
  unfold predUpdate; split <;> rfl
@[simp] theorem predUpdate_port (x : Elem) (f : Fields) (m nz cmp : Byte) : (predUpdate x f m nz cmp).port = x.port := by
  unfold predUpdate; split <;> rfl
@[simp] theorem predUpdate_rbuf (x : Elem) (f : Fields) (m nz cmp : Byte) : (predUpdate x f m nz cmp).rbuf = x.rbuf := by
  unfold predUpdate; split <;> rfl
@[simp] theorem predUpdate_away (x : Elem) (f : Fields) (m nz cmp : Byte) : (predUpdate x f m nz cmp).away = x.away := by
  unfold predUpdate; split <;> rfl
@[simp] theorem predUpdate_spare (x : Elem) (f : Fields) (m nz cmp : Byte) : (predUpdate x f m nz cmp).spare = x.spare := by
  unfold predUpdate; split <;> rfl
@[simp] theorem predUpdate_spareSel (x : Elem) (f : Fields) (m nz cmp : Byte) : (predUpdate x f m nz cmp).spareSel = x.spareSel := by
  unfold predUpdate; split <;> rfl

@[simp] theorem closeFiring_conf (x : Elem) (f : Fields) (o : Res) : (closeFiring x f o).conf = x.conf := by
  simp [closeFiring]
@[simp] theorem closeFiring_regs (x : Elem) (f : Fields) (o : Res) : (closeFiring x f o).regs = x.regs := by
  simp [closeFiring]
@[simp] theorem closeFiring_outq (x : Elem) (f : Fields) (o : Res) : (closeFiring x f o).outq = x.outq := by
  simp [closeFiring]
@[simp] theorem closeFiring_resv (x : Elem) (f : Fields) (o : Res) : (closeFiring x f o).resv = x.resv := by
  simp [closeFiring]
@[simp] theorem closeFiring_seqo (x : Elem) (f : Fields) (o : Res) : (closeFiring x f o).seqo = x.seqo := by
  simp [closeFiring]
@[simp] theorem closeFiring_sel (x : Elem) (f : Fields) (o : Res) : (closeFiring x f o).sel = x.sel := by
  simp [closeFiring]
@[simp] theorem closeFiring_halted (x : Elem) (f : Fields) (o : Res) : (closeFiring x f o).halted = x.halted := by
  simp [closeFiring]
@[simp] theorem closeFiring_faulted (x : Elem) (f : Fields) (o : Res) : (closeFiring x f o).faulted = x.faulted := by
  simp [closeFiring]
@[simp] theorem closeFiring_fcyc (x : Elem) (f : Fields) (o : Res) : (closeFiring x f o).fcyc = x.fcyc := by
  simp [closeFiring]
@[simp] theorem closeFiring_fvalid (x : Elem) (f : Fields) (o : Res) : (closeFiring x f o).fvalid = x.fvalid := by
  simp [closeFiring]
@[simp] theorem closeFiring_last (x : Elem) (f : Fields) (o : Res) : (closeFiring x f o).last = x.last := by
  simp [closeFiring]
@[simp] theorem closeFiring_wsel (x : Elem) (f : Fields) (o : Res) : (closeFiring x f o).wsel = x.wsel := by
  simp [closeFiring]
@[simp] theorem closeFiring_wlo (x : Elem) (f : Fields) (o : Res) : (closeFiring x f o).wlo = x.wlo := by
  simp [closeFiring]
@[simp] theorem closeFiring_whi (x : Elem) (f : Fields) (o : Res) : (closeFiring x f o).whi = x.whi := by
  simp [closeFiring]
@[simp] theorem closeFiring_dcred (x : Elem) (f : Fields) (o : Res) : (closeFiring x f o).dcred = x.dcred := by
  simp [closeFiring]
@[simp] theorem closeFiring_trk (x : Elem) (f : Fields) (o : Res) : (closeFiring x f o).trk = x.trk := by
  simp [closeFiring]
@[simp] theorem closeFiring_su (x : Elem) (f : Fields) (o : Res) : (closeFiring x f o).su = x.su := by
  simp [closeFiring]
@[simp] theorem closeFiring_port (x : Elem) (f : Fields) (o : Res) : (closeFiring x f o).port = x.port := by
  simp [closeFiring]
@[simp] theorem closeFiring_rbuf (x : Elem) (f : Fields) (o : Res) : (closeFiring x f o).rbuf = x.rbuf := by
  simp [closeFiring]
@[simp] theorem closeFiring_away (x : Elem) (f : Fields) (o : Res) : (closeFiring x f o).away = x.away := by
  simp [closeFiring]
@[simp] theorem closeFiring_spare (x : Elem) (f : Fields) (o : Res) : (closeFiring x f o).spare = x.spare := by
  simp [closeFiring]
@[simp] theorem closeFiring_spareSel (x : Elem) (f : Fields) (o : Res) : (closeFiring x f o).spareSel = x.spareSel := by
  simp [closeFiring]

/-- The registers of an element whose field of registers is another's. -/
theorem Elem.reg_congr {x y : Elem} (h : x.regs = y.regs) (k : Nat) : x.reg k = y.reg k := by simp [Elem.reg, h]

/-- A register written is read back. -/
@[simp] theorem Elem.reg_setReg (x : Elem) (k : Nat) (v : Oct Word) : (x.setReg k v).reg k = v := SMap.get_set_same _ _ _ _

/-- Writing a register leaves every other register. -/
theorem Elem.reg_setReg_ne (x : Elem) {k k' : Nat} (v : Oct Word) (h : k' ≠ k) : (x.setReg k v).reg k' = x.reg k' :=
  SMap.get_set_ne _ _ _ h

/-- A write under a mask gives the lanes of the mask and leaves the others (R21). -/
theorem Elem.reg_writeLanes (x : Elem) (k : Nat) (m : Byte) (v : Oct Word) {l : Nat} (h : l < 8) :
    ((x.writeLanes k m v).reg k).get l = if m.getLsbD l then v.get l else (x.reg k).get l := by
  simp [Elem.writeLanes, Oct.get_ofFn _ h]

/-- A write under a mask leaves every other register. -/
theorem Elem.reg_writeLanes_ne (x : Elem) {k k' : Nat} (m : Byte) (v : Oct Word) (h : k' ≠ k) :
    (x.writeLanes k m v).reg k' = x.reg k' :=
  Elem.reg_setReg_ne _ _ h

/-- A channel whose head is removed. -/
@[simp] theorem Elem.inQ_dequeue (x : Elem) (k : Nat) : (x.dequeue k).inQ k = (x.inQ k).drop 1 := SMap.get_set_same _ _ _ _

/-- Removing a head leaves every other channel. -/
theorem Elem.inQ_dequeue_ne (x : Elem) {k k' : Nat} (h : k' ≠ k) : (x.dequeue k).inQ k' = x.inQ k' := SMap.get_set_ne _ _ _ h

/-- Channels that no removal names stand as they were. -/
theorem Elem.inQ_dequeueAll_of_notMem (x : Elem) (ks : List Nat) {k : Nat} (h : k ∉ ks) : (x.dequeueAll ks).inQ k = x.inQ k := by
  induction ks generalizing x with
  | nil => rfl
  | cons j ks ih =>
    rw [List.mem_cons, not_or] at h
    exact (ih (x.dequeue j) h.2).trans (x.inQ_dequeue_ne h.1)

/-- A channel named once loses its head. -/
theorem Elem.inQ_dequeueAll_of_mem (x : Elem) (ks : List Nat) (hn : ks.Nodup) {k : Nat} (h : k ∈ ks) :
    (x.dequeueAll ks).inQ k = (x.inQ k).drop 1 := by
  induction ks generalizing x with
  | nil => simp at h
  | cons j ks ih =>
    have hn' := List.nodup_cons.mp hn
    by_cases hk : k = j
    · subst hk
      exact (Elem.inQ_dequeueAll_of_notMem (x.dequeue k) ks hn'.1).trans (x.inQ_dequeue k)
    · have hm : k ∈ ks := (List.mem_cons.mp h).resolve_left hk
      exact (ih (x.dequeue j) hn'.2 hm).trans (by rw [x.inQ_dequeue_ne hk])

/-- The channels of a mask are named once each. -/
theorem chansIn_nodup (m : BitVec 4) : (chansIn m).Nodup := List.Pairwise.filter _ (by decide)

/-- The channels of a mask. -/
theorem mem_chansIn {m : BitVec 4} {k : Nat} : k ∈ chansIn m ↔ k < 4 ∧ m.getLsbD k = true := by
  simp only [chansIn, List.mem_filter, List.mem_cons, List.not_mem_nil, or_false]
  constructor
  · rintro ⟨h, g⟩; exact ⟨by omega, g⟩
  · rintro ⟨h, g⟩; exact ⟨by omega, g⟩

/-- A token pushed stands behind the tokens of its channel. -/
@[simp] theorem Elem.outQ_push (x : Elem) (c : Nat) (t : Token) : (x.push c t).outQ c = x.outQ c ++ [t] := SMap.get_set_same _ _ _ _

/-- A push leaves every other output. -/
theorem Elem.outQ_push_ne (x : Elem) {c c' : Nat} (t : Token) (h : c' ≠ c) : (x.push c t).outQ c' = x.outQ c' :=
  SMap.get_set_ne _ _ _ h

/-- A push increments the sequence counter of its channel (R11). -/
@[simp] theorem Elem.seqOut_push (x : Elem) (c : Nat) (t : Token) : (x.push c t).seqOut c = x.seqOut c + 1 := SMap.get_set_same _ _ _ _

/-- A push leaves the sequence counter of every other output. -/
theorem Elem.seqOut_push_ne (x : Elem) {c c' : Nat} (t : Token) (h : c' ≠ c) : (x.push c t).seqOut c' = x.seqOut c' :=
  SMap.get_set_ne _ _ _ h

/-- The input channels after the close of a firing: those of DEQ lose their heads (R21). -/
theorem closeFiring_inQ (x : Elem) (f : Fields) (o : Res) (k : Nat) :
    (closeFiring x f o).inQ k = if k < 4 ∧ f.deq.getLsbD k = true then (x.inQ k).drop 1 else x.inQ k := by
  have e : (closeFiring x f o).inQ k = (x.dequeueAll (chansIn f.deq)).inQ k := by
    simp [closeFiring, Elem.inQ]
  rw [e]
  split
  · next h => exact x.inQ_dequeueAll_of_mem _ (chansIn_nodup _) (mem_chansIn.mpr h)
  · next h => exact x.inQ_dequeueAll_of_notMem _ (fun g => h (mem_chansIn.mp g))

/-- The sticky flags after the close of a firing (R24). -/
theorem closeFiring_sflags (x : Elem) (f : Fields) (o : Res) : (closeFiring x f o).sflags = x.sflags ||| o.ev := by
  simp [closeFiring, Elem.flag]

end Sys2Proof.Machine
end

