-- ==== Sys2Proof/Laws/Exec.lean ====
section
/-!
SUPPORT. The meaning that each instruction runs: `exec` unfolded once per constructor.
-/
namespace Sys2Proof.Machine

theorem exec_nop (f : Fields) (s : State) : exec (.nop f) s = execNop f s := rfl
theorem exec_pass (f : Fields) (s : State) : exec (.pass f) s = execPass f s := rfl
theorem exec_emit (f : Fields) (s : State) : exec (.emit f) s = execEmit f s := rfl
theorem exec_tagset (f : Fields) (s : State) : exec (.tagset f) s = execTagset f s := rfl
theorem exec_seqset (f : Fields) (s : State) : exec (.seqset f) s = execSeqset f s := rfl
theorem exec_seqget (f : Fields) (s : State) : exec (.seqget f) s = execSeqget f s := rfl
theorem exec_demand (f : Fields) (s : State) : exec (.demand f) s = execDemand f s := rfl
theorem exec_drop (f : Fields) (s : State) : exec (.drop f) s = execDrop f s := rfl
theorem exec_fwdsel (f : Fields) (s : State) : exec (.fwdsel f) s = execFwdsel f s := rfl
theorem exec_add (f : Fields) (s : State) : exec (.add f) s = execAdd f s := rfl
theorem exec_sub (f : Fields) (s : State) : exec (.sub f) s = execSub f s := rfl
theorem exec_mul (f : Fields) (s : State) : exec (.mul f) s = execMul f s := rfl
theorem exec_mulh (f : Fields) (s : State) : exec (.mulh f) s = execMulh f s := rfl
theorem exec_mulhu (f : Fields) (s : State) : exec (.mulhu f) s = execMulhu f s := rfl
theorem exec_mad (f : Fields) (s : State) : exec (.mad f) s = execMad f s := rfl
theorem exec_abs (f : Fields) (s : State) : exec (.abs f) s = execAbs f s := rfl
theorem exec_neg (f : Fields) (s : State) : exec (.neg f) s = execNeg f s := rfl
theorem exec_min (f : Fields) (s : State) : exec (.min f) s = execMin f s := rfl
theorem exec_max (f : Fields) (s : State) : exec (.max f) s = execMax f s := rfl
theorem exec_minu (f : Fields) (s : State) : exec (.minu f) s = execMinu f s := rfl
theorem exec_maxu (f : Fields) (s : State) : exec (.maxu f) s = execMaxu f s := rfl
theorem exec_and (f : Fields) (s : State) : exec (.and f) s = execAnd f s := rfl
theorem exec_or (f : Fields) (s : State) : exec (.or f) s = execOr f s := rfl
theorem exec_xor (f : Fields) (s : State) : exec (.xor f) s = execXor f s := rfl
theorem exec_andn (f : Fields) (s : State) : exec (.andn f) s = execAndn f s := rfl
theorem exec_shl (f : Fields) (s : State) : exec (.shl f) s = execShl f s := rfl
theorem exec_shr (f : Fields) (s : State) : exec (.shr f) s = execShr f s := rfl
theorem exec_sar (f : Fields) (s : State) : exec (.sar f) s = execSar f s := rfl
theorem exec_rot (f : Fields) (s : State) : exec (.rot f) s = execRot f s := rfl
theorem exec_clz (f : Fields) (s : State) : exec (.clz f) s = execClz f s := rfl
theorem exec_popc (f : Fields) (s : State) : exec (.popc f) s = execPopc f s := rfl
theorem exec_brev (f : Fields) (s : State) : exec (.brev f) s = execBrev f s := rfl
theorem exec_bfx (f : Fields) (s : State) : exec (.bfx f) s = execBfx f s := rfl
theorem exec_bfi (f : Fields) (s : State) : exec (.bfi f) s = execBfi f s := rfl
theorem exec_sel (f : Fields) (s : State) : exec (.sel f) s = execSel f s := rfl
theorem exec_cmp (f : Fields) (s : State) : exec (.cmp f) s = execCmp f s := rfl
theorem exec_test (f : Fields) (s : State) : exec (.test f) s = execTest f s := rfl
theorem exec_mov (f : Fields) (s : State) : exec (.mov f) s = execMov f s := rfl
theorem exec_movi (f : Fields) (s : State) : exec (.movi f) s = execMovi f s := rfl
theorem exec_movh (f : Fields) (s : State) : exec (.movh f) s = execMovh f s := rfl
theorem exec_addr (f : Fields) (s : State) : exec (.addr f) s = execAddr f s := rfl
theorem exec_idx2 (f : Fields) (s : State) : exec (.idx2 f) s = execIdx2 f s := rfl
theorem exec_pand (f : Fields) (s : State) : exec (.pand f) s = execPand f s := rfl
theorem exec_por (f : Fields) (s : State) : exec (.por f) s = execPor f s := rfl
theorem exec_pxor (f : Fields) (s : State) : exec (.pxor f) s = execPxor f s := rfl
theorem exec_pnot (f : Fields) (s : State) : exec (.pnot f) s = execPnot f s := rfl
theorem exec_pmov (f : Fields) (s : State) : exec (.pmov f) s = execPmov f s := rfl
theorem exec_preg (f : Fields) (s : State) : exec (.preg f) s = execPreg f s := rfl
theorem exec_pregSet (f : Fields) (s : State) : exec (.pregSet f) s = execPregSet f s := rfl
theorem exec_bcast (f : Fields) (s : State) : exec (.bcast f) s = execBcast f s := rfl
theorem exec_perm (f : Fields) (s : State) : exec (.perm f) s = execPerm f s := rfl
theorem exec_shuf (f : Fields) (s : State) : exec (.shuf f) s = execShuf f s := rfl
theorem exec_lred (f : Fields) (s : State) : exec (.lred f) s = execLred f s := rfl
theorem exec_lscan (f : Fields) (s : State) : exec (.lscan f) s = execLscan f s := rfl
theorem exec_pcount (f : Fields) (s : State) : exec (.pcount f) s = execPcount f s := rfl
theorem exec_first (f : Fields) (s : State) : exec (.first f) s = execFirst f s := rfl
theorem exec_fadd (f : Fields) (s : State) : exec (.fadd f) s = execFadd f s := rfl
theorem exec_fsub (f : Fields) (s : State) : exec (.fsub f) s = execFsub f s := rfl
theorem exec_fmul (f : Fields) (s : State) : exec (.fmul f) s = execFmul f s := rfl
theorem exec_fma (f : Fields) (s : State) : exec (.fma f) s = execFma f s := rfl
theorem exec_fnma (f : Fields) (s : State) : exec (.fnma f) s = execFnma f s := rfl
theorem exec_fma3 (f : Fields) (s : State) : exec (.fma3 f) s = execFma3 f s := rfl
theorem exec_fmin (f : Fields) (s : State) : exec (.fmin f) s = execFmin f s := rfl
theorem exec_fmax (f : Fields) (s : State) : exec (.fmax f) s = execFmax f s := rfl
theorem exec_fabs (f : Fields) (s : State) : exec (.fabs f) s = execFabs f s := rfl
theorem exec_fneg (f : Fields) (s : State) : exec (.fneg f) s = execFneg f s := rfl
theorem exec_fcmp (f : Fields) (s : State) : exec (.fcmp f) s = execFcmp f s := rfl
theorem exec_fclass (f : Fields) (s : State) : exec (.fclass f) s = execFclass f s := rfl
theorem exec_frint (f : Fields) (s : State) : exec (.frint f) s = execFrint f s := rfl
theorem exec_ftoi (f : Fields) (s : State) : exec (.ftoi f) s = execFtoi f s := rfl
theorem exec_itof (f : Fields) (s : State) : exec (.itof f) s = execItof f s := rfl
theorem exec_frcp (f : Fields) (s : State) : exec (.frcp f) s = execFrcp f s := rfl
theorem exec_frsq (f : Fields) (s : State) : exec (.frsq f) s = execFrsq f s := rfl
theorem exec_fexpf (f : Fields) (s : State) : exec (.fexpf f) s = execFexpf f s := rfl
theorem exec_flogf (f : Fields) (s : State) : exec (.flogf f) s = execFlogf f s := rfl
theorem exec_fexpins (f : Fields) (s : State) : exec (.fexpins f) s = execFexpins f s := rfl
theorem exec_fexpext (f : Fields) (s : State) : exec (.fexpext f) s = execFexpext f s := rfl
theorem exec_fmant (f : Fields) (s : State) : exec (.fmant f) s = execFmant f s := rfl
theorem exec_fdot2 (f : Fields) (s : State) : exec (.fdot2 f) s = execFdot2 f s := rfl
theorem exec_fdot4 (f : Fields) (s : State) : exec (.fdot4 f) s = execFdot4 f s := rfl
theorem exec_ftri (f : Fields) (s : State) : exec (.ftri f) s = execFtri f s := rfl
theorem exec_cvt (f : Fields) (s : State) : exec (.cvt f) s = execCvt f s := rfl
theorem exec_pack (f : Fields) (s : State) : exec (.pack f) s = execPack f s := rfl
theorem exec_unpk (f : Fields) (s : State) : exec (.unpk f) s = execUnpk f s := rfl
theorem exec_gscale (f : Fields) (s : State) : exec (.gscale f) s = execGscale f s := rfl
theorem exec_qscale (f : Fields) (s : State) : exec (.qscale f) s = execQscale f s := rfl
theorem exec_cvtov (f : Fields) (s : State) : exec (.cvtov f) s = execCvtov f s := rfl
theorem exec_scan (f : Fields) (s : State) : exec (.scan f) s = execScan f s := rfl
theorem exec_intsc (f : Fields) (s : State) : exec (.intsc f) s = execIntsc f s := rfl
theorem exec_union (f : Fields) (s : State) : exec (.union f) s = execUnion f s := rfl
theorem exec_join (f : Fields) (s : State) : exec (.join f) s = execJoin f s := rfl
theorem exec_rept (f : Fields) (s : State) : exec (.rept f) s = execRept f s := rfl
theorem exec_reds (f : Fields) (s : State) : exec (.reds f) s = execReds f s := rfl
theorem exec_crddrop (f : Fields) (s : State) : exec (.crddrop f) s = execCrddrop f s := rfl
theorem exec_stoplvLower (f : Fields) (s : State) : exec (.stoplvLower f) s = execStoplvLower f s := rfl
theorem exec_stoplvWrap (f : Fields) (s : State) : exec (.stoplvWrap f) s = execStoplvWrap f s := rfl
theorem exec_zip (f : Fields) (s : State) : exec (.zip f) s = execZip f s := rfl
theorem exec_gchk (f : Fields) (s : State) : exec (.gchk f) s = execGchk f s := rfl
theorem exec_gchkArm (f : Fields) (s : State) : exec (.gchkArm f) s = execGchkArm f s := rfl
theorem exec_selk (f : Fields) (s : State) : exec (.selk f) s = execSelk f s := rfl
theorem exec_selo (f : Fields) (s : State) : exec (.selo f) s = execSelo f s := rfl
theorem exec_seloClr (f : Fields) (s : State) : exec (.seloClr f) s = execSeloClr f s := rfl
theorem exec_sort8 (f : Fields) (s : State) : exec (.sort8 f) s = execSort8 f s := rfl
theorem exec_decomp (f : Fields) (s : State) : exec (.decomp f) s = execDecomp f s := rfl
theorem exec_comp (f : Fields) (s : State) : exec (.comp f) s = execComp f s := rfl
theorem exec_transp (f : Fields) (s : State) : exec (.transp f) s = execTransp f s := rfl
theorem exec_mrg (f : Fields) (s : State) : exec (.mrg f) s = execMrg f s := rfl
theorem exec_steer (f : Fields) (s : State) : exec (.steer f) s = execSteer f s := rfl
theorem exec_fanout (f : Fields) (s : State) : exec (.fanout f) s = execFanout f s := rfl
theorem exec_gsel (f : Fields) (s : State) : exec (.gsel f) s = execGsel f s := rfl
theorem exec_mmodeOn (f : Fields) (s : State) : exec (.mmodeOn f) s = execMmodeOn f s := rfl
theorem exec_mmodeOff (f : Fields) (s : State) : exec (.mmodeOff f) s = execMmodeOff f s := rfl
theorem exec_wload (f : Fields) (s : State) : exec (.wload f) s = execWload f s := rfl
theorem exec_wrow (f : Fields) (s : State) : exec (.wrow f) s = execWrow f s := rfl
theorem exec_accz (f : Fields) (s : State) : exec (.accz f) s = execAccz f s := rfl
theorem exec_accrd (f : Fields) (s : State) : exec (.accrd f) s = execAccrd f s := rfl
theorem exec_idxset (f : Fields) (s : State) : exec (.idxset f) s = execIdxset f s := rfl
theorem exec_tconK64n32 (f : Fields) (s : State) : exec (.tconK64n32 f) s = execTconK64n32 f s := rfl
theorem exec_tconK32n64 (f : Fields) (s : State) : exec (.tconK32n64 f) s = execTconK32n64 f s := rfl
theorem exec_tconK128n16 (f : Fields) (s : State) : exec (.tconK128n16 f) s = execTconK128n16 f s := rfl
theorem exec_tconK16n128 (f : Fields) (s : State) : exec (.tconK16n128 f) s = execTconK16n128 f s := rfl
theorem exec_tconK256n8 (f : Fields) (s : State) : exec (.tconK256n8 f) s = execTconK256n8 f s := rfl
theorem exec_tconK8n256 (f : Fields) (s : State) : exec (.tconK8n256 f) s = execTconK8n256 f s := rfl
theorem exec_tconK64n16x (f : Fields) (s : State) : exec (.tconK64n16x f) s = execTconK64n16x f s := rfl
theorem exec_tconK32n32x (f : Fields) (s : State) : exec (.tconK32n32x f) s = execTconK32n32x f s := rfl
theorem exec_ld (f : Fields) (s : State) : exec (.ld f) s = execLd f s := rfl
theorem exec_st (f : Fields) (s : State) : exec (.st f) s = execSt f s := rfl
theorem exec_lds (f : Fields) (s : State) : exec (.lds f) s = execLds f s := rfl
theorem exec_stf (f : Fields) (s : State) : exec (.stf f) s = execStf f s := rfl
theorem exec_sete (f : Fields) (s : State) : exec (.sete f) s = execSete f s := rfl
theorem exec_agsrc (f : Fields) (s : State) : exec (.agsrc f) s = execAgsrc f s := rfl
theorem exec_agsnk (f : Fields) (s : State) : exec (.agsnk f) s = execAgsnk f s := rfl
theorem exec_gath (f : Fields) (s : State) : exec (.gath f) s = execGath f s := rfl
theorem exec_scat (f : Fields) (s : State) : exec (.scat f) s = execScat f s := rfl
theorem exec_waita (f : Fields) (s : State) : exec (.waita f) s = execWaita f s := rfl
theorem exec_atom (f : Fields) (s : State) : exec (.atom f) s = execAtom f s := rfl
theorem exec_vradd (f : Fields) (s : State) : exec (.vradd f) s = execVradd f s := rfl
theorem exec_vrmax (f : Fields) (s : State) : exec (.vrmax f) s = execVrmax f s := rfl
theorem exec_ldrow (f : Fields) (s : State) : exec (.ldrow f) s = execLdrow f s := rfl
theorem exec_fence (f : Fields) (s : State) : exec (.fence f) s = execFence f s := rfl
theorem exec_bxstart (f : Fields) (s : State) : exec (.bxstart f) s = execBxstart f s := rfl
theorem exec_wsrd (f : Fields) (s : State) : exec (.wsrd f) s = execWsrd f s := rfl
theorem exec_wsph (f : Fields) (s : State) : exec (.wsph f) s = execWsph f s := rfl
theorem exec_rowact (f : Fields) (s : State) : exec (.rowact f) s = execRowact f s := rfl
theorem exec_rowconSt (f : Fields) (s : State) : exec (.rowconSt f) s = execRowconSt f s := rfl
theorem exec_rowconStr (f : Fields) (s : State) : exec (.rowconStr f) s = execRowconStr f s := rfl
theorem exec_rowconWs (f : Fields) (s : State) : exec (.rowconWs f) s = execRowconWs f s := rfl
theorem exec_rowwr (f : Fields) (s : State) : exec (.rowwr f) s = execRowwr f s := rfl
theorem exec_rowpre (f : Fields) (s : State) : exec (.rowpre f) s = execRowpre f s := rfl
theorem exec_rowstat (f : Fields) (s : State) : exec (.rowstat f) s = execRowstat f s := rfl
theorem exec_phase (f : Fields) (s : State) : exec (.phase f) s = execPhase f s := rfl
theorem exec_tend (f : Fields) (s : State) : exec (.tend f) s = execTend f s := rfl
theorem exec_trig (f : Fields) (s : State) : exec (.trig f) s = execTrig f s := rfl
theorem exec_launch (f : Fields) (s : State) : exec (.launch f) s = execLaunch f s := rfl
theorem exec_trap (f : Fields) (s : State) : exec (.trap f) s = execTrap f s := rfl
theorem exec_brk (f : Fields) (s : State) : exec (.brk f) s = execBrk f s := rfl
theorem exec_prept (f : Fields) (s : State) : exec (.prept f) s = execPrept f s := rfl
theorem exec_sysrd (f : Fields) (s : State) : exec (.sysrd f) s = execSysrd f s := rfl
theorem exec_syswr (f : Fields) (s : State) : exec (.syswr f) s = execSyswr f s := rfl
theorem exec_wdenter (f : Fields) (s : State) : exec (.wdenter f) s = execWdenter f s := rfl
theorem exec_halt (f : Fields) (s : State) : exec (.halt f) s = execHalt f s := rfl
theorem exec_cntrd (f : Fields) (s : State) : exec (.cntrd f) s = execCntrd f s := rfl
theorem exec_cfgld (f : Fields) (s : State) : exec (.cfgld f) s = execCfgld f s := rfl
theorem exec_pgbegin (v : Half) (s : State) : exec (.pgbegin v) s = execPgbegin v s := rfl
theorem exec_patbegin (v : Half) (s : State) : exec (.patbegin v) s = execPatbegin v s := rfl
theorem exec_patend (v : Half) (s : State) : exec (.patend v) s = execPatend v s := rfl
theorem exec_crc (v : Half) (s : State) : exec (.crc v) s = execCrc v s := rfl
theorem exec_succlo (v : Half) (s : State) : exec (.succlo v) s = execSucclo v s := rfl
theorem exec_succhi (v : Half) (s : State) : exec (.succhi v) s = execSucchi v s := rfl
theorem exec_pgend (v : Half) (s : State) : exec (.pgend v) s = execPgend v s := rfl
theorem exec_rect (k : BitVec 4) (v : Half) (s : State) : exec (.rect k v) s = execRect k v s := rfl
theorem exec_elementFieldWrite (e : Byte) (fld : Byte) (v : Half) (s : State) : exec (.elementFieldWrite e fld v) s = execElementFieldWrite e fld v s := rfl
theorem exec_wsel (e : Byte) (v : Half) (s : State) : exec (.wsel e v) s = execWsel e v s := rfl
theorem exec_wlo (e : Byte) (v : Half) (s : State) : exec (.wlo e v) s = execWlo e v s := rfl
theorem exec_whi (e : Byte) (v : Half) (s : State) : exec (.whi e v) s = execWhi e v s := rfl
theorem exec_wctlNone (e : Byte) (v : Half) (s : State) : exec (.wctlNone e v) s = execWctlNone e v s := rfl
theorem exec_wctlWrite (e : Byte) (v : Half) (s : State) : exec (.wctlWrite e v) s = execWctlWrite e v s := rfl
theorem exec_wctlRead (e : Byte) (v : Half) (s : State) : exec (.wctlRead e v) s = execWctlRead e v s := rfl
theorem exec_tokenDepart (r e c : Nat) (s : State) : exec (.tokenDepart r e c) s = execTokenDepart r e c s := rfl
theorem exec_tokenArrival (r e k : Nat) (s : State) : exec (.tokenArrival r e k) s = execTokenArrival r e k s := rfl
theorem exec_sidePortCtrl (r e : Nat) (s : State) : exec (.sidePortCtrl r e) s = execSidePortCtrl r e s := rfl
theorem exec_reqAbsorb (r e k : Nat) (s : State) : exec (.reqAbsorb r e k) s = execReqAbsorb r e k s := rfl
theorem exec_loadPlacement (ld : Nat) (s : State) : exec (.loadPlacement ld) s = execLoadPlacement ld s := rfl
theorem exec_loadActivation (ld : Nat) (s : State) : exec (.loadActivation ld) s = execLoadActivation ld s := rfl
theorem exec_preloadCopy (ld i : Nat) (s : State) : exec (.preloadCopy ld i) s = execPreloadCopy ld i s := rfl
theorem exec_tileStart (ld : Nat) (s : State) : exec (.tileStart ld) s = execTileStart ld s := rfl
theorem exec_loadComplete (ld : Nat) (s : State) : exec (.loadComplete ld) s = execLoadComplete ld s := rfl
theorem exec_packetStart (q k : Nat) (s : State) : exec (.packetStart q k) s = execPacketStart q k s := rfl
theorem exec_packetFinish (q k : Nat) (s : State) : exec (.packetFinish q k) s = execPacketFinish q k s := rfl
theorem exec_trigRelease (q k : Nat) (s : State) : exec (.trigRelease q k) s = execTrigRelease q k s := rfl
theorem exec_launchAppend (n : Nat) (s : State) : exec (.launchAppend n) s = execLaunchAppend n s := rfl
theorem exec_commitPublish (ld : Nat) (s : State) : exec (.commitPublish ld) s = execCommitPublish ld s := rfl
theorem exec_accessComplete (r e id : Nat) (s : State) : exec (.accessComplete r e id) s = execAccessComplete r e id s := rfl
theorem exec_parkedWake (r e id : Nat) (s : State) : exec (.parkedWake r e id) s = execParkedWake r e id s := rfl
theorem exec_translationWalk (r e id : Nat) (s : State) : exec (.translationWalk r e id) s = execTranslationWalk r e id s := rfl
theorem exec_homeAtomic (r e id : Nat) (s : State) : exec (.homeAtomic r e id) s = execHomeAtomic r e id s := rfl
theorem exec_agsrcPush (r e : Nat) (s : State) : exec (.agsrcPush r e) s = execAgsrcPush r e s := rfl
theorem exec_agsnkTake (r e : Nat) (s : State) : exec (.agsnkTake r e) s = execAgsnkTake r e s := rfl
theorem exec_streamCmpl (r e : Nat) (s : State) : exec (.streamCmpl r e) s = execStreamCmpl r e s := rfl
theorem exec_gathStep (r e : Nat) (s : State) : exec (.gathStep r e) s = execGathStep r e s := rfl
theorem exec_scatStep (r e : Nat) (s : State) : exec (.scatStep r e) s = execScatStep r e s := rfl
theorem exec_rowBodyTake (r e : Nat) (s : State) : exec (.rowBodyTake r e) s = execRowBodyTake r e s := rfl
theorem exec_rowUpdateApply (n : Nat) (s : State) : exec (.rowUpdateApply n) s = execRowUpdateApply n s := rfl
theorem exec_ldrowPerform (r e id : Nat) (s : State) : exec (.ldrowPerform r e id) s = execLdrowPerform r e id s := rfl
theorem exec_wsrdPush (r e : Nat) (s : State) : exec (.wsrdPush r e) s = execWsrdPush r e s := rfl
theorem exec_rowOpIssue (r : Nat) (s : State) : exec (.rowOpIssue r) s = execRowOpIssue r s := rfl
theorem exec_rowBankAct (r : Nat) (s : State) : exec (.rowBankAct r) s = execRowBankAct r s := rfl
theorem exec_rowOpenExpiry (r h : Nat) (s : State) : exec (.rowOpenExpiry r h) s = execRowOpenExpiry r h s := rfl
theorem exec_rowconStrPush (r h : Nat) (s : State) : exec (.rowconStrPush r h) s = execRowconStrPush r h s := rfl
theorem exec_rowwrBodyTake (r : Nat) (s : State) : exec (.rowwrBodyTake r) s = execRowwrBodyTake r s := rfl
theorem exec_tconStepTake (r : Nat) (s : State) : exec (.tconStepTake r) s = execTconStepTake r s := rfl
theorem exec_tconStepWrite (r : Nat) (s : State) : exec (.tconStepWrite r) s = execTconStepWrite r s := rfl
theorem exec_wloadGroupTake (r : Nat) (s : State) : exec (.wloadGroupTake r) s = execWloadGroupTake r s := rfl
theorem exec_accrdPush (r : Nat) (s : State) : exec (.accrdPush r) s = execAccrdPush r s := rfl
theorem exec_copyAccept (x ch : Nat) (s : State) : exec (.copyAccept x ch) s = execCopyAccept x ch s := rfl
theorem exec_copyElement (x ch : Nat) (s : State) : exec (.copyElement x ch) s = execCopyElement x ch s := rfl
theorem exec_dfabPush (x ch : Nat) (s : State) : exec (.dfabPush x ch) s = execDfabPush x ch s := rfl
theorem exec_copyCompletion (x ch : Nat) (s : State) : exec (.copyCompletion x ch) s = execCopyCompletion x ch s := rfl
theorem exec_pralineFetch (r : Nat) (s : State) : exec (.pralineFetch r) s = execPralineFetch r s := rfl
theorem exec_loads (h : BlockHdr) (s : State) : exec (.loads h) s = execLoads h s := rfl
theorem exec_setscale (h : BlockHdr) (s : State) : exec (.setscale h) s = execSetscale h s := rfl
theorem exec_stream (h : BlockHdr) (s : State) : exec (.stream h) s = execStream h s := rfl
theorem exec_streamBlockPush (r : Nat) (s : State) : exec (.streamBlockPush r) s = execStreamBlockPush r s := rfl
theorem exec_contract (h : BlockHdr) (s : State) : exec (.contract h) s = execContract h s := rfl
theorem exec_zero (h : BlockHdr) (s : State) : exec (.zero h) s = execZero h s := rfl
theorem exec_drain (h : BlockHdr) (s : State) : exec (.drain h) s = execDrain h s := rfl
theorem exec_sync (h : BlockHdr) (s : State) : exec (.sync h) s = execSync h s := rfl
theorem exec_jump (h : BlockHdr) (s : State) : exec (.jump h) s = execJump h s := rfl
theorem exec_jumpif (h : BlockHdr) (s : State) : exec (.jumpif h) s = execJumpif h s := rfl
theorem exec_callt (h : BlockHdr) (s : State) : exec (.callt h) s = execCallt h s := rfl
theorem exec_rett (h : BlockHdr) (s : State) : exec (.rett h) s = execRett h s := rfl
theorem exec_endBlk (h : BlockHdr) (s : State) : exec (.endBlk h) s = execEndBlk h s := rfl
theorem exec_taskStop (ld : Nat) (s : State) : exec (.taskStop ld) s = execTaskStop ld s := rfl
theorem exec_preemptRequest (ld : Nat) (s : State) : exec (.preemptRequest ld) s = execPreemptRequest ld s := rfl
theorem exec_regionStop (r : Nat) (s : State) : exec (.regionStop r) s = execRegionStop r s := rfl
theorem exec_preptFallback (r : Nat) (s : State) : exec (.preptFallback r) s = execPreptFallback r s := rfl
theorem exec_scanOut (r : Nat) (s : State) : exec (.scanOut r) s = execScanOut r s := rfl
theorem exec_loadResume (ld : Nat) (s : State) : exec (.loadResume ld) s = execLoadResume ld s := rfl
theorem exec_budgetExhaust (q : Nat) (s : State) : exec (.budgetExhaust q) s = execBudgetExhaust q s := rfl
theorem exec_npIntervalEnd (ld : Nat) (s : State) : exec (.npIntervalEnd ld) s = execNpIntervalEnd ld s := rfl
theorem exec_bridgeFlitReceive (e : Nat) (fl : BridgeFlit) (s : State) : exec (.bridgeFlitReceive e fl) s = execBridgeFlitReceive e fl s := rfl
theorem exec_creditFlit (k : Nat) (s : State) : exec (.creditFlit k) s = execCreditFlit k s := rfl
theorem exec_remoteRequestPerform (dev stream tag : Nat) (s : State) : exec (.remoteRequestPerform dev stream tag) s = execRemoteRequestPerform dev stream tag s := rfl
theorem exec_remoteResponse (tag : Nat) (status : Byte) (data : List Byte) (s : State) : exec (.remoteResponse tag status data) s = execRemoteResponse tag status data s := rfl
theorem exec_remoteTimeout (tag : Nat) (s : State) : exec (.remoteTimeout tag) s = execRemoteTimeout tag s := rfl
theorem exec_lotteryDraw (s : State) : exec .lotteryDraw s = execLotteryDraw s := rfl
theorem exec_weightStoreRefresh (s : State) : exec .weightStoreRefresh s = execWeightStoreRefresh s := rfl
theorem exec_rowRefreshSlot (g : Nat) (s : State) : exec (.rowRefreshSlot g) s = execRowRefreshSlot g s := rfl
theorem exec_actBudgetPeriod (s : State) : exec .actBudgetPeriod s = execActBudgetPeriod s := rfl
theorem exec_budgetPeriodStart (s : State) : exec .budgetPeriodStart s = execBudgetPeriodStart s := rfl
theorem exec_qtailWrite (q : Nat) (v : Word) (s : State) : exec (.qtailWrite q v) s = execQtailWrite q v s := rfl
theorem exec_qcmdStop (q : Nat) (s : State) : exec (.qcmdStop q) s = execQcmdStop q s := rfl
theorem exec_qcmdResume (q : Nat) (s : State) : exec (.qcmdResume q) s = execQcmdResume q s := rfl
theorem exec_qfcmdRestart (q : Nat) (s : State) : exec (.qfcmdRestart q) s = execQfcmdRestart q s := rfl
theorem exec_qfcmdAbandon (q : Nat) (s : State) : exec (.qfcmdAbandon q) s = execQfcmdAbandon q s := rfl
theorem exec_qfcmdResume (q : Nat) (s : State) : exec (.qfcmdResume q) s = execQfcmdResume q s := rfl
theorem exec_schedSeedWrite (v : BitVec 64) (s : State) : exec (.schedSeedWrite v) s = execSchedSeedWrite v s := rfl
theorem exec_mmuInvGo (v : BitVec 64) (s : State) : exec (.mmuInvGo v) s = execMmuInvGo v s := rfl
theorem exec_mmuInvComplete (s : State) : exec .mmuInvComplete s = execMmuInvComplete s := rfl
theorem exec_mmuSvcMapped (v : BitVec 64) (s : State) : exec (.mmuSvcMapped v) s = execMmuSvcMapped v s := rfl
theorem exec_mmuSvcUnmappable (v : BitVec 64) (s : State) : exec (.mmuSvcUnmappable v) s = execMmuSvcUnmappable v s := rfl
theorem exec_hcwCmd (v : Word) (s : State) : exec (.hcwCmd v) s = execHcwCmd v s := rfl
theorem exec_hcwRd (s : State) : exec .hcwRd s = execHcwRd s := rfl
theorem exec_hcwGo (s : State) : exec .hcwGo s = execHcwGo s := rfl
theorem exec_tplDataWrite (v : BitVec 64) (s : State) : exec (.tplDataWrite v) s = execTplDataWrite v s := rfl
theorem exec_tplDataRead (s : State) : exec .tplDataRead s = execTplDataRead s := rfl
theorem exec_fwInstall (len : Word) (s : State) : exec (.fwInstall len) s = execFwInstall len s := rfl
theorem exec_fwAttest (s : State) : exec .fwAttest s = execFwAttest s := rfl
theorem exec_rbSelWrite (v : BitVec 64) (s : State) : exec (.rbSelWrite v) s = execRbSelWrite v s := rfl
theorem exec_rbDataRead (s : State) : exec .rbDataRead s = execRbDataRead s := rfl
theorem exec_staleClear (p k : Nat) (s : State) : exec (.staleClear p k) s = execStaleClear p k s := rfl
theorem exec_brgStatClear (e : Nat) (s : State) : exec (.brgStatClear e) s = execBrgStatClear e s := rfl
theorem exec_glStatWrite (k : Nat) (v : BitVec 64) (s : State) : exec (.glStatWrite k v) s = execGlStatWrite k v s := rfl
theorem exec_msixUnmask (n : Nat) (s : State) : exec (.msixUnmask n) s = execMsixUnmask n s := rfl
theorem exec_registerWrite (off : Nat) (bs : List Byte) (s : State) : exec (.registerWrite off bs) s = execRegisterWrite off bs s := rfl
theorem exec_hostBar2Read (x : Nat) (s : State) : exec (.hostBar2Read x) s = execHostBar2Read x s := rfl
theorem exec_hostBar2Write (x : Nat) (bytes : List Byte) (s : State) : exec (.hostBar2Write x bytes) s = execHostBar2Write x bytes s := rfl
theorem exec_deviceReset (s : State) : exec .deviceReset s = execDeviceReset s := rfl
theorem exec_supplySag (s : State) : exec .supplySag s = execSupplySag s := rfl
theorem exec_sagRecovery (s : State) : exec .sagRecovery s = execSagRecovery s := rfl
theorem exec_powerCapWindow (watts : Nat) (s : State) : exec (.powerCapWindow watts) s = execPowerCapWindow watts s := rfl
theorem exec_thermalLevelChange (st temp : Nat) (s : State) : exec (.thermalLevelChange st temp) s = execThermalLevelChange st temp s := rfl
theorem exec_thermalTrip (st : Nat) (s : State) : exec (.thermalTrip st) s = execThermalTrip st s := rfl
theorem exec_bridgeRetry (e : Nat) (seq : BitVec 12) (s : State) : exec (.bridgeRetry e seq) s = execBridgeRetry e seq s := rfl
theorem exec_bridgeRetrain (e : Nat) (ok : Bool) (s : State) : exec (.bridgeRetrain e ok) s = execBridgeRetrain e ok s := rfl
theorem exec_allowancePeriod (s : State) : exec .allowancePeriod s = execAllowancePeriod s := rfl
theorem exec_glFlitReceive (k : Nat) (bytes : List Byte) (s : State) : exec (.glFlitReceive k bytes) s = execGlFlitReceive k bytes s := rfl
theorem exec_glRetrain (k : Nat) (ok : Bool) (s : State) : exec (.glRetrain k ok) s = execGlRetrain k ok s := rfl
theorem exec_linkTrained (k : Nat) (s : State) : exec (.linkTrained k) s = execLinkTrained k s := rfl
theorem exec_eccInScrubbing (pa : Nat) (s : State) : exec (.eccInScrubbing pa) s = execEccInScrubbing pa s := rfl

end Sys2Proof.Machine
end

