-- ==== Sys2Proof/Laws/Fire.lean ====
section
/-!
SUPPORT. What the firing of a slot can do: it changes nothing, takes a fault, or takes effect as one step; and what a lane firing leaves.
-/
namespace Sys2Proof.Machine

/-- A firing answers a next state. -/
theorem fire_isNext (opc : Byte) (f : Fields) (k : Look) (act : Elem → Fired) (s : State) : ∃ t, fire opc f k act s = .next t := by
  simp only [fire]
  split
  · split <;> exact ⟨_, rfl⟩
  · exact ⟨_, rfl⟩

/-- A slot that is not ready changes nothing (R17, R19). -/
theorem fire_of_notReady {opc : Byte} {f : Fields} {k : Look} {act : Elem → Fired} {s : State}
    (h : s.slotReady s.cur.reg s.cur.elem s.cur.slot f k = false) : fire opc f k act s = .next s := by
  simp [fire, h]

/-- A firing that waits after all changes nothing (R145). -/
theorem fire_of_wait {opc : Byte} {f : Fields} {k : Look} {act : Elem → Fired} {s : State}
    (h : act (s.elem s.cur.reg s.cur.elem) = .wait) : fire opc f k act s = .next s := by
  simp only [fire, h]
  split <;> rfl

/-- A ready slot whose firing faults takes the fault (R25). -/
theorem fire_of_fault {opc : Byte} {f : Fields} {k : Look} {act : Elem → Fired} {s : State} {r : FaultRec}
    (hr : s.slotReady s.cur.reg s.cur.elem s.cur.slot f k = true) (h : act (s.elem s.cur.reg s.cur.elem) = .fault r) :
    fire opc f k act s = .next (s.raise s.cur.reg s.cur.elem s.cur.slot opc r) := by
  simp [fire, hr, h]

/-- A ready slot takes effect as one step (R21). -/
theorem fire_of_done {opc : Byte} {f : Fields} {k : Look} {act : Elem → Fired} {s : State} {y : Elem} {g : State → State}
    (hr : s.slotReady s.cur.reg s.cur.elem s.cur.slot f k = true) (h : act (s.elem s.cur.reg s.cur.elem) = .done y g) :
    fire opc f k act s = .next (g (s.fired y)) := by
  simp [fire, hr, h]

/-- Everything a firing can do: it changes nothing, takes a fault, or takes effect. -/
theorem fire_cases {opc : Byte} {f : Fields} {k : Look} {act : Elem → Fired} {s t : State} (h : fire opc f k act s = .next t) :
    t = s
    ∨ (s.slotReady s.cur.reg s.cur.elem s.cur.slot f k = true
        ∧ ((∃ r, act (s.elem s.cur.reg s.cur.elem) = .fault r ∧ t = s.raise s.cur.reg s.cur.elem s.cur.slot opc r)
          ∨ ∃ y g, act (s.elem s.cur.reg s.cur.elem) = .done y g
            ∧ t = g (s.fired y))) := by
  simp only [fire] at h
  split at h
  · next hr =>
    split at h
    · cases h; exact .inl rfl
    · next r hf => cases h; exact .inr ⟨hr, .inl ⟨r, hf, rfl⟩⟩
    · next y g hd => cases h; exact .inr ⟨hr, .inr ⟨y, g, hd, rfl⟩⟩
  · cases h; exact .inl rfl

/-- A slot of an element whose picker does not run changes nothing (R25, R183, R354, R355). -/
theorem slotReady_of_notPicks {s : State} {r e : Nat} (n : Nat) (f : Fields) (k : Look) (h : s.picks r e = false) :
    s.slotReady r e n f k = false := by
  simp [State.slotReady, h]

/-- The commit of a result to a register (R21). -/
theorem commitRes_reg {x : Elem} {f : Fields} {fmt : BitVec 3} {o : Res} {k : Nat} (ho : outOf f.dst = none) (h : regOf f.dst = some k) :
    commitRes x f fmt o = .done (closeFiring (x.writeLanes k o.m o.val) f o) id := by
  simp [commitRes, ho, h]

/-- The commit of a result to an output (R22). -/
theorem commitRes_out {x : Elem} {f : Fields} {fmt : BitVec 3} {o : Res} {c : Nat} (ho : outOf f.dst = some c)
    (hp : x.mayPush c f.okind = true) :
    commitRes x f fmt o = .done (closeFiring (x.push c (resToken f fmt o (seqFor x f c))) f o) id := by
  simp [commitRes, ho, hp]

/-- The commit of a result that goes nowhere (R55). -/
theorem commitRes_none {x : Elem} {f : Fields} {fmt : BitVec 3} {o : Res} (ho : outOf f.dst = none) (h : regOf f.dst = none) :
    commitRes x f fmt o = .done (closeFiring x f o) id := by
  simp [commitRes, ho, h]

/-- A lane firing takes effect: it is ready, owes no credit and meets no fault. -/
theorem fireLane_of_ready {opc : Byte} {f : Fields} {fmt : BitVec 3} {op : Elem → Byte → Res} {s : State}
    (hr : s.slotReady s.cur.reg s.cur.elem s.cur.slot f (Look.lane f) = true)
    (hc : owesCredit (s.elem s.cur.reg s.cur.elem) f = false) (hf : laneFault s (s.elem s.cur.reg s.cur.elem) f = none) :
    ∃ y, commitRes (s.elem s.cur.reg s.cur.elem) f fmt
        (op (s.elem s.cur.reg s.cur.elem) (execLanes (s.elem s.cur.reg s.cur.elem) f)) = .done y id
      ∧ fireLane opc f fmt op s = .next (s.fired y) := by
  generalize hx : s.elem s.cur.reg s.cur.elem = x at *
  generalize ho : op x (execLanes x f) = o
  have hd : ∃ y, commitRes x f fmt o = .done y id := by
    cases h1 : outOf f.dst with
    | some c =>
      have : x.mayPush c f.okind = true := by simpa [owesCredit, h1] using hc
      exact ⟨_, commitRes_out h1 this⟩
    | none =>
      cases h2 : regOf f.dst with
      | some k => exact ⟨_, commitRes_reg h1 h2⟩
      | none => exact ⟨_, commitRes_none h1 h2⟩
  obtain ⟨y, hy⟩ := hd
  refine ⟨y, hy, ?_⟩
  simp [fireLane, fire, hx, hr, hc, hf, ho, hy]

end Sys2Proof.Machine
end

