-- ==== Sys2Proof/Laws/Lane.lean ====
section
/-!
SUPPORT. What a lane firing leaves and where its result lands.
-/
namespace Sys2Proof.Machine

/-- Writing a predicate leaves every other. -/
theorem predAt_writePred_ne (x : Elem) (i : Nat) (m v : Byte) {l k : Nat} (hl : l < 8) (hk : k < 8) (h : k ≠ i) :
    predAt (x.writePred i m v) l k = predAt x l k := by
  have bit : (1#8 <<< i).getLsbD k = false := by
    simp only [BitVec.getLsbD_shiftLeft, BitVec.getLsbD_one]
    by_cases hlt : k < i
    · simp [hlt]
    · have : k - i ≠ 0 := by omega
      simp [this]
  simp only [predAt, Elem.writePred, Oct.get_ofFn _ hl]
  by_cases hm : m.getLsbD l = true
  · by_cases hv : v.getLsbD l = true
    · rw [if_pos hm, if_pos hv, BitVec.getLsbD_or, bit, Bool.or_false]
    · rw [if_pos hm, if_neg hv, BitVec.getLsbD_and, BitVec.getLsbD_not, bit]
      simp [hk]
  · rw [if_neg hm]

/-- A predicate written holds the bits given in the lanes of the mask (R23). -/
theorem predAt_writePred (x : Elem) {i : Nat} (m v : Byte) {l : Nat} (hl : l < 8) (hi : i < 8) :
    predAt (x.writePred i m v) l i = if m.getLsbD l then v.getLsbD l else predAt x l i := by
  have bit : (1#8 <<< i).getLsbD i = true := by
    simp [hi]
  simp only [predAt, Elem.writePred, Oct.get_ofFn _ hl]
  by_cases hm : m.getLsbD l = true
  · by_cases hv : v.getLsbD l = true
    · rw [if_pos hm, if_pos hv, if_pos hm, BitVec.getLsbD_or, bit, Bool.or_true, hv]
    · rw [if_pos hm, if_neg hv, if_pos hm, BitVec.getLsbD_and, BitVec.getLsbD_not, bit]
      simp [Bool.eq_false_iff.mpr hv]
  · rw [if_neg hm, if_neg hm]

/-- The predicates that a firing leaves (R23). -/
theorem predAt_predUpdate (x : Elem) (f : Fields) (m nz cmp : Byte) {l k : Nat} (hl : l < 8) (hk : k < 8)
    (h : f.pue = 0 ∨ k ≠ f.pidx.toNat) : predAt (predUpdate x f m nz cmp) l k = predAt x l k := by
  unfold predUpdate
  split
  · next hp =>
    rcases h with h | h
    · rw [h] at hp; exact absurd hp (by decide)
    · exact predAt_writePred_ne x _ _ _ hl hk h
  · rfl

/-- The close of a firing keeps what `Kept` says, from an element that differs from `x` in the destination alone. -/
theorem closeFiring_kept {x z : Elem} (f : Fields) (o : Res)
    (regs : ∀ k, regOf f.dst ≠ some k → z.reg k = x.reg k)
    (outs : ∀ c, outOf f.dst ≠ some c → z.outQ c = x.outQ c ∧ z.seqOut c = x.seqOut c ∧ z.credit c = x.credit c)
    (rest : z.inq = x.inq ∧ z.preds = x.preds ∧ z.sflags = x.sflags ∧ z.conf = x.conf ∧ z.resv = x.resv ∧ z.sel = x.sel
      ∧ z.halted = x.halted ∧ z.faulted = x.faulted ∧ z.fcyc = x.fcyc ∧ z.wsel = x.wsel ∧ z.wlo = x.wlo ∧ z.whi = x.whi
      ∧ z.trk = x.trk ∧ z.su = x.su ∧ z.port = x.port ∧ z.rbuf = x.rbuf ∧ z.away = x.away ∧ z.spare = x.spare
      ∧ z.spareSel = x.spareSel) : Kept f x (closeFiring z f o) := by
  obtain ⟨h1, h2, h3, h4, h5, h6, h7, h8, h9, h10, h11, h12, h13, h14, h15, h16, h17, h18, h19⟩ := rest
  constructor
  · intro k hk
    rw [← regs k hk]; exact Elem.reg_congr (by simp) k
  · intro c hc
    obtain ⟨a, b, d⟩ := outs c hc
    refine ⟨?_, ?_, ?_⟩
    · rw [← a]; simp [Elem.outQ]
    · rw [← b]; simp [Elem.seqOut]
    · rw [← d]; simp [Elem.credit]
  · intro k
    rw [closeFiring_inQ]; simp only [Elem.inQ, h1]
  · intro l k hl hk hp
    have e : predAt (closeFiring z f o) l k = predAt (predUpdate (z.dequeueAll (chansIn f.deq)) f o.m o.nz o.cmp) l k := rfl
    rw [e, predAt_predUpdate _ _ _ _ _ hl hk hp]
    simp [predAt, h2]
  · rw [closeFiring_sflags, h3, BitVec.or_assoc, BitVec.or_comm o.ev, ← BitVec.or_assoc, BitVec.or_self]
  · simp [h4]
  · simp [h5, h6, h7, h8, h9, h10, h11, h12, h13, h14, h15, h16, h17, h18, h19]

/-- The commit of a lane firing keeps what `Kept` says and lands its result. -/
theorem commitRes_kept {x y : Elem} {f : Fields} {fmt : BitVec 3} {o : Res} (h : commitRes x f fmt o = .done y id) :
    Kept f x y ∧ Lands f fmt o.m o.val.get x y := by
  cases h1 : outOf f.dst with
  | some c =>
    have hreg : regOf f.dst = none := by
      simp only [outOf] at h1
      simp only [regOf]
      split at h1
      · next g => split
                  · omega
                  · rfl
      · cases h1
    by_cases hp : x.mayPush c f.okind = true
    · rw [commitRes_out h1 hp] at h
      cases h
      refine ⟨closeFiring_kept f o (fun k _ => rfl) (fun d hd => ?_) ⟨rfl, rfl, rfl, rfl, rfl, rfl, rfl, rfl, rfl, rfl, rfl, rfl, rfl, rfl, rfl, rfl, rfl, rfl, rfl⟩,
        ⟨fun k hk => by simp [hreg] at hk, fun d hd => ?_⟩⟩
      · have hne : d ≠ c := fun e => hd (by rw [h1, e])
        refine ⟨Elem.outQ_push_ne _ _ hne, Elem.seqOut_push_ne _ _ hne, ?_⟩
        simp only [Elem.push, Elem.credit]
        split
        · exact SMap.get_set_ne _ _ _ hne
        · rfl
      · rw [h1] at hd; cases hd
        have e : ∀ z : Elem, (closeFiring z f o).outQ c = z.outQ c := fun z => by simp [Elem.outQ]
        rw [e, Elem.outQ_push]
        rfl
    · simp [commitRes, h1, hp] at h
  | none =>
    cases h2 : regOf f.dst with
    | some k =>
      rw [commitRes_reg h1 h2] at h
      cases h
      refine ⟨closeFiring_kept f o (fun j hj => ?_) (fun c _ => ⟨rfl, rfl, rfl⟩) ⟨rfl, rfl, rfl, rfl, rfl, rfl, rfl, rfl, rfl, rfl, rfl, rfl, rfl, rfl, rfl, rfl, rfl, rfl, rfl⟩,
        ⟨fun j hj l hl => ?_, fun c hc => by simp [h1] at hc⟩⟩
      · exact Elem.reg_writeLanes_ne _ _ _ (fun e => hj (by rw [h2, e]))
      · rw [h2] at hj; cases hj
        rw [Elem.reg_congr (x := closeFiring _ f o) (y := x.writeLanes k o.m o.val) (by simp), Elem.reg_writeLanes _ _ _ _ hl]
    | none =>
      rw [commitRes_none h1 h2] at h
      cases h
      exact ⟨closeFiring_kept f o (fun _ _ => rfl) (fun _ _ => ⟨rfl, rfl, rfl⟩) ⟨rfl, rfl, rfl, rfl, rfl, rfl, rfl, rfl, rfl, rfl, rfl, rfl, rfl, rfl, rfl, rfl, rfl, rfl, rfl⟩,
        ⟨fun k hk => by simp [h2] at hk, fun c hc => by simp [h1] at hc⟩⟩

/-- A lane firing that takes effect changes the element in hand alone, keeps what `Kept` says and lands its result. -/
theorem fireLane_kept {opc : Byte} {f : Fields} {fmt : BitVec 3} {op : Elem → Byte → Res} {s : State} (h : LaneReady f s) :
    ∃ y, fireLane opc f fmt op s = .next (s.fired y) ∧ Kept f s.here y
      ∧ Lands f fmt (op s.here (execLanes s.here f)).m (op s.here (execLanes s.here f)).val.get s.here y := by
  obtain ⟨hr, hc, hf⟩ := h
  obtain ⟨y, hy, hs⟩ := fireLane_of_ready (opc := opc) (fmt := fmt) (op := op) hr hc hf
  exact ⟨y, hs, commitRes_kept hy⟩

/-- A result given lane by lane lands as its lanes say. -/
theorem Lands.congr {f : Fields} {fmt : BitVec 3} {m : Byte} {v w : Nat → Word} {x y : Elem} (h : Lands f fmt m v x y)
    (e : ∀ l, l < 8 → m.getLsbD l = true → v l = w l) : Lands f fmt m w x y := by
  have e' : ∀ l, l < 8 → (if m.getLsbD l = true then v l else 0) = if m.getLsbD l = true then w l else 0 := fun l hl => by
    split
    · next g => exact e l hl g
    · rfl
  refine ⟨fun k hk l hl => ?_, fun c hc => ?_⟩
  · rw [h.reg k hk l hl]
    split
    · next g => exact e l hl g
    · rfl
  · rw [h.out c hc]
    have : (Oct.ofFn fun l => if m.getLsbD l = true then v l else 0) = Oct.ofFn fun l => if m.getLsbD l = true then w l else 0 :=
      Oct.ext_get fun l hl => by rw [Oct.get_ofFn _ hl, Oct.get_ofFn _ hl, e' l hl]
    rw [this]

end Sys2Proof.Machine
end

