-- ==== Sys2Proof/Laws/Memory.lean ====
section
/-!
SUPPORT. The laws of byte memory: a read after a write, what a write leaves, and that every operation on memory keeps the canonical form.
-/
namespace Sys2Proof.Machine

/-- Every address of the list lies above `a`. -/
def above (a : Nat) (m : List Host.Cell) : Prop := ∀ p ∈ m, a < p.1

/-- A canonical list, head first: its byte is not zero, it lies below the rest, and the rest is canonical. -/
theorem cellsWf_cons {a : Nat} {v : Byte} {m : List Host.Cell} :
    cellsWf ((a, v) :: m) = true ↔ v ≠ 0 ∧ above a m ∧ cellsWf m = true := by
  induction m generalizing a v with
  | nil => simp [cellsWf, above]
  | cons p m ih =>
    obtain ⟨b, w⟩ := p
    have hw : cellsWf ((b, w) :: m) = true ↔ w ≠ 0 ∧ above b m ∧ cellsWf m = true := ih
    simp only [cellsWf, Bool.and_eq_true, bne_iff_ne, decide_eq_true_eq]
    constructor
    · rintro ⟨⟨hv, hab⟩, hr⟩
      refine ⟨hv, ?_, hr⟩
      intro q hq
      rcases List.mem_cons.mp hq with h | h
      · subst h; exact hab
      · exact Nat.lt_trans hab ((hw.mp hr).2.1 q h)
    · rintro ⟨hv, hab, hr⟩
      exact ⟨⟨hv, hab (b, w) (List.mem_cons_self)⟩, hr⟩

/-- An address below every listed one reads as zero. -/
theorem cellsGet_of_above {a : Nat} {m : List Host.Cell} (h : above a m) : cellsGet m a = 0 := by
  cases m with
  | nil => rfl
  | cons p m =>
    obtain ⟨b, w⟩ := p
    have hb : a < b := h (b, w) List.mem_cons_self
    have hn : a ≠ b := by omega
    simp [cellsGet, SMap.get, hn, hb]

/-- A write keeps every address above a bound that its own address is above. -/
theorem above_cellsSet {b a : Nat} {v : Byte} {m : List Host.Cell} (h : above b m) (hb : b < a) : above b (cellsSet m a v) := by
  induction m with
  | nil =>
    simp only [cellsSet]
    split
    · exact h
    · intro q hq; simp only [List.mem_singleton] at hq; subst hq; exact hb
  | cons p m ih =>
    obtain ⟨c, w⟩ := p
    have hm : above b m := fun q hq => h q (List.mem_cons_of_mem _ hq)
    have hc : b < c := h (c, w) List.mem_cons_self
    have ha : ∀ r : List Host.Cell, above b r → above b ((a, v) :: r) := fun r hr q hq =>
      (List.mem_cons.mp hq).elim (fun e => by subst e; exact hb) (hr q)
    simp only [cellsSet]
    split
    · split
      · exact hm
      · exact ha _ hm
    · split
      · split
        · exact h
        · exact ha _ h
      · intro q hq
        rcases List.mem_cons.mp hq with e | e
        · subst e; exact hc
        · exact ih hm q e

/-- A write keeps the canonical form. -/
theorem cellsSet_wf {m : List Host.Cell} (a : Nat) (v : Byte) (h : cellsWf m = true) : cellsWf (cellsSet m a v) = true := by
  induction m with
  | nil =>
    simp only [cellsSet]
    split
    · rfl
    · next hv => simpa [cellsWf] using hv
  | cons p m ih =>
    obtain ⟨c, w⟩ := p
    obtain ⟨hw, hab, hm⟩ := cellsWf_cons.mp h
    simp only [cellsSet]
    split
    · next e =>
      split
      · exact hm
      · next hv => subst e; exact cellsWf_cons.mpr ⟨hv, hab, hm⟩
    · next hne =>
      split
      · next hlt =>
        split
        · exact h
        · next hv =>
          refine cellsWf_cons.mpr ⟨hv, fun q hq => ?_, h⟩
          rcases List.mem_cons.mp hq with e | e
          · subst e; exact hlt
          · exact Nat.lt_trans hlt (hab q e)
      · next hge => exact cellsWf_cons.mpr ⟨hw, above_cellsSet hab (by omega), ih hm⟩

/-- A byte written is read back. -/
theorem cellsGet_set_same {m : List Host.Cell} (a : Nat) (v : Byte) (h : cellsWf m = true) : cellsGet (cellsSet m a v) a = v := by
  induction m with
  | nil =>
    simp only [cellsSet]
    split
    · next e => subst e; rfl
    · simp [cellsGet, SMap.get]
  | cons p m ih =>
    obtain ⟨c, w⟩ := p
    obtain ⟨_, hab, hm⟩ := cellsWf_cons.mp h
    simp only [cellsSet]
    split
    · next e =>
      split
      · next hv => subst hv; exact cellsGet_of_above (e ▸ hab)
      · simp [cellsGet, SMap.get]
    · next hne =>
      split
      · next hlt =>
        split
        · next hv => subst hv; simp [cellsGet, SMap.get, hne, hlt]
        · simp [cellsGet, SMap.get]
      · next hge => simpa [cellsGet, SMap.get, hne, hge] using ih hm

/-- A write leaves every other byte. -/
theorem cellsGet_set_ne {m : List Host.Cell} {a b : Nat} (v : Byte) (h : cellsWf m = true) (hb : b ≠ a) :
    cellsGet (cellsSet m a v) b = cellsGet m b := by
  induction m with
  | nil =>
    simp only [cellsSet]
    split
    · rfl
    · by_cases hl : b < a <;> simp [cellsGet, SMap.get, hb, hl]
  | cons p m ih =>
    obtain ⟨c, w⟩ := p
    obtain ⟨_, hab, hm⟩ := cellsWf_cons.mp h
    simp only [cellsSet]
    split
    · next e =>
      subst e
      have hcons : cellsGet ((a, w) :: m) b = cellsGet m b ∨ b < a := by
        by_cases hl : b < a
        · exact .inr hl
        · exact .inl (by simp [cellsGet, SMap.get, hb, hl])
      split
      · rcases hcons with g | g
        · exact g.symm
        · have : above b m := fun q hq => Nat.lt_trans g (hab q hq)
          rw [cellsGet_of_above this]; simp [cellsGet, SMap.get, hb, g]
      · by_cases hl : b < a <;> simp [cellsGet, SMap.get, hb, hl]
    · next hne =>
      split
      · next hlt =>
        split
        · rfl
        · by_cases hl : b < a
          · have h1 : b ≠ c := by omega
            have h2 : b < c := by omega
            simp [cellsGet, SMap.get, hb, hl, h1, h2]
          · simp [cellsGet, SMap.get, hb, hl]
      · next hge =>
        by_cases h1 : b = c
        · subst h1; simp [cellsGet, SMap.get]
        · by_cases h2 : b < c
          · simp [cellsGet, SMap.get, h1, h2]
          · simpa [cellsGet, SMap.get, h1, h2] using ih hm

/-- A part of a canonical list is canonical. -/
theorem cellsWf_filter {m : List Host.Cell} (p : Host.Cell → Bool) (h : cellsWf m = true) : cellsWf (m.filter p) = true := by
  induction m with
  | nil => rfl
  | cons c m ih =>
    obtain ⟨a, v⟩ := c
    obtain ⟨hv, hab, hm⟩ := cellsWf_cons.mp h
    simp only [List.filter]
    split
    · exact cellsWf_cons.mpr ⟨hv, fun q hq => hab q (List.mem_filter.mp hq).1, ih hm⟩
    · exact ih hm

/- The operations on device memory. -/

/-- A byte written is read back. -/
theorem Mem.read_write_same {m : Mem} (a : Nat) (v : Byte) (h : Memory.wf m = true) : (m.write a v).read a = v :=
  cellsGet_set_same a v h

/-- A write leaves every other byte. -/
theorem Mem.read_write_ne {m : Mem} {a b : Nat} (v : Byte) (h : Memory.wf m = true) (hb : b ≠ a) : (m.write a v).read b = m.read b :=
  cellsGet_set_ne v h hb

/-- Writing a byte keeps the canonical form. -/
theorem Mem.write_wf {m : Mem} (a : Nat) (v : Byte) (h : Memory.wf m = true) : Memory.wf (m.write a v) = true := cellsSet_wf a v h

/-- Writing bytes keeps the canonical form. -/
theorem Mem.writeBytes_wf {m : Mem} (a : Nat) (bs : List Byte) (h : Memory.wf m = true) : Memory.wf (m.writeBytes a bs) = true := by
  induction bs generalizing m a with
  | nil => exact h
  | cons b bs ih => exact ih (a + 1) (m.write_wf a b h)

/-- Writing cells keeps the canonical form. -/
theorem Mem.foldl_write_wf {m : Mem} (cs : List Host.Cell) (h : Memory.wf m = true) :
    Memory.wf (cs.foldl (fun m c => m.write c.1 c.2) m) = true := by
  induction cs generalizing m with
  | nil => exact h
  | cons c cs ih => exact ih (m.write_wf c.1 c.2 h)

/-- A commit keeps the canonical form. -/
theorem Mem.commit_wf {m : Mem} (cs : List Host.Cell) (h : Memory.wf m = true) : Memory.wf (m.commit cs) = true :=
  m.foldl_write_wf cs h

/-- Setting words full keeps the canonical form. -/
theorem Mem.setFull_wf {m : Mem} (a n : Nat) (h : Memory.wf m = true) : Memory.wf (m.setFull a n) = true := h

/-- Setting words empty keeps the canonical form. -/
theorem Mem.setEmpty_wf {m : Mem} (a n : Nat) (h : Memory.wf m = true) : Memory.wf (m.setEmpty a n) = true := h

/-- Making words whole again keeps the canonical form. -/
theorem Mem.mend_wf {m : Mem} (a n : Nat) (h : Memory.wf m = true) : Memory.wf (m.mend a n) = true := h

/-- Memory after reset has the canonical form. -/
theorem Mem.reset_wf : Memory.wf State.reset.mem = true := rfl

/-- Bytes written away from an address leave it. -/
theorem Mem.read_writeBytes_ne {m : Mem} (a : Nat) (bs : List Byte) {b : Nat} (h : Memory.wf m = true)
    (hb : b < a ∨ a + bs.length ≤ b) : (m.writeBytes a bs).read b = m.read b := by
  induction bs generalizing m a with
  | nil => rfl
  | cons v bs ih =>
    have hl : (v :: bs).length = bs.length + 1 := rfl
    have h1 : b ≠ a := by omega
    exact (ih (a + 1) (m.write_wf a v h) (by omega)).trans (m.read_write_ne v h h1)

/-- Bytes written are read back. -/
theorem Mem.read_writeBytes {m : Mem} (a : Nat) (bs : List Byte) (h : Memory.wf m = true) {i : Nat} (hi : i < bs.length) :
    (m.writeBytes a bs).read (a + i) = bs[i] := by
  induction bs generalizing m a i with
  | nil => simp at hi
  | cons v bs ih =>
    cases i with
    | zero =>
      have := (m.write a v).read_writeBytes_ne (a + 1) bs (b := a) (m.write_wf a v h) (.inl (by omega))
      simpa [Mem.writeBytes, Mem.read_write_same a v h] using this
    | succ i =>
      have hi' : i < bs.length := by simpa using hi
      have e : a + (i + 1) = a + 1 + i := by omega
      rw [e]
      simpa [Mem.writeBytes] using ih (a + 1) (m.write_wf a v h) hi'

end Sys2Proof.Machine
end

