-- ==== Sys2Proof/Tests/Slice0.lean ====
section
/-!
SUPPORT. Tests of the model on small states, and for every statement states and operands that meet its hypotheses. Expected values are the
spec's own examples or were worked out from its rules by hand.
-/
namespace Sys2Proof.Tests

open Sys2Proof Sys2Proof.Machine Sys2Proof.Claims

set_option Elab.async false

/-- A slot with neither guard nor condition, no source, no destination and default rounding. -/
def z : Fields :=
  ⟨0, 0, 0, 0, 0, 0, 0, 0, 0, 0, 0, 0, 0, 0, 0, 0, 0, 0, 30, 30, 30, 30, 0, 0, 0, 0, 0, 0, 0, 7, 0, 0, 0, 0, 0, 0⟩

/-- A block header with every field zero but its opcode's. -/
def zb : BlockHdr := ⟨0, 0, 0, 0, 0, 0, 0, 0, 0, 0, 0, 0⟩

/-- An element with slot 0 enabled, all lanes enabled, and some registers. -/
def x0 (regs : SMap (Oct Word)) : Elem := { Elem.fresh [(160, 1), (161, 0xFF)] with regs := regs }

/-- A data token of format `fmt` with the lanes `v`. -/
def tok (v : Oct Word) : Token := ⟨7, 0xFF, 0, kData, 0, v⟩

/-- Element `e` of region 0 in hand as `x`, in a region that runs, with the region's other state from `g`. -/
def onIn (g : Region) (e : Nat) (x : Elem) : State :=
  { State.reset with regions := [(0, { g with rstate := 2, elems := SMap.set g.elems e x })], cur := ⟨0, e, 0, false⟩ }

/-- Element `e` of region 0 in hand as `x`, in a region in stream mode that runs. -/
def on (e : Nat) (x : Elem) : State := onIn Region.reset e x

/-- The lanes 1 to 8. -/
def up8 : Oct Word := ⟨1, 2, 3, 4, 5, 6, 7, 8⟩

/-- Register `k` of an element after an instruction has run. -/
def regAfter (i : Instr) (s : State) (k : Nat) : Option (Oct Word) :=
  match exec i s with
  | .next t => some (t.here.reg k)
  | _ => none

/-- The element in hand after an instruction has run. -/
def hereAfter (i : Instr) (s : State) : Option Elem :=
  match exec i s with
  | .next t => some t.here
  | _ => none

/-- The state after an instruction has run. -/
def after (i : Instr) (s : State) : Option State :=
  match exec i s with
  | .next t => some t
  | _ => none

/-- Whether a lane instruction takes effect, as a Bool. -/
def laneOk (f : Fields) (s : State) : Bool :=
  s.slotReady s.cur.reg s.cur.elem s.cur.slot f (Look.lane f) && !owesCredit s.here f && (laneFault s s.here f).isNone

theorem laneReady {f : Fields} {s : State} (h : laneOk f s = true) : LaneReady f s := by
  simp only [laneOk, Bool.and_eq_true, Bool.not_eq_true', Option.isNone_iff_eq_none] at h
  exact ⟨h.1.1, h.1.2, h.2⟩

/- Well-formedness: one ill-formed term for each check. -/

theorem test_wf_region : (Instr.rowOpIssue 768).wf = false := by decide
theorem test_wf_unit : (Instr.sidePortCtrl 0 148).wf = false := by decide
theorem test_wf_port : (Instr.agsrcPush 0 127).wf = false := by decide
theorem test_wf_chan : (Instr.tokenDepart 0 0 4).wf = false := by decide
theorem test_wf_queue : (Instr.qcmdStop 128).wf = false := by decide
theorem test_wf_elem : (Instr.wlo 148 0).wf = false ∧ (Instr.elementFieldWrite 0 240 0).wf = false := by decide
theorem test_wf_fields : (Instr.add { z with rsv90 := 1 }).wf = false ∧ (Instr.add { z with rsv80 := 2 }).wf = false := by decide
theorem test_wf_variant : (Instr.preg { z with var := 1 }).wf = false ∧ (Instr.rowconWs { z with var := 1 }).wf = false := by decide
theorem test_wf_block : (Instr.jump { zb with rsv104 := 1 }).wf = false ∧ (Instr.jump { zb with rsv71 := 1 }).wf = false
    ∧ (Instr.jump { zb with rsv68 := 1 }).wf = false := by decide
theorem test_wf_wctl : (Instr.wctlRead 0 1).wf = false ∧ (Instr.wctlWrite 0 0).wf = false ∧ (Instr.wctlNone 0 2).wf = false := by decide
theorem test_wf_bounds : (Instr.rowOpenExpiry 0 16).wf = false ∧ (Instr.rowconStrPush 0 2).wf = false ∧ (Instr.copyAccept 0 64).wf = false
    ∧ (Instr.bridgeFlitReceive 12 ⟨0, true, 0, 0, 0, [], none, []⟩).wf = false ∧ (Instr.linkTrained 16).wf = false ∧ (Instr.rowRefreshSlot 8).wf = false := by
  decide
theorem test_wf_device : (Instr.mmuInvGo 0).wf = false ∧ (Instr.mmuSvcMapped 2).wf = false ∧ (Instr.staleClear 16 0).wf = false
    ∧ (Instr.registerWrite 6 [0, 0, 0]).wf = false ∧ (Instr.registerWrite 0 []).wf = false ∧ (Instr.msixUnmask 136).wf = false ∧ (Instr.thermalTrip 4).wf = false := by decide
theorem test_wf_remote : (Instr.remoteTimeout 65536).wf = false ∧ (Instr.remoteRequestPerform 256 0 0).wf = false
    ∧ (Instr.glFlitReceive 0 []).wf = false := by decide

/- Decoding: words that the spec writes out, and words written out from its encodings, one or more for each family. -/

/-- The instruction of a slot word. -/
def slot? (w : BitVec 128) : Option Instr := (decodeSlot w).toOption

theorem test_decode_fmul : slot? 0x00004120004052510_8DE10000000E200 = some (.fmul
    { z with aEn := 1, aFchk := 1, aFmt := 1, room := 1, dst := 20, sa := 16, sb := 35, deq := 1, efmt := 1 }) := by decide
theorem test_decode_idx2 : slot? 0x0202610000803055205E402D0280E001 = some (.idx2
    { z with pm := 2, pv := 2, aEn := 1, aCh := 2, aFchk := 1, room := 2, dst := 21, sa := 18, sb := 1, deq := 4, pue := 1, pidx := 3,
             pmode := 1, imm := 640, var := 1 }) := by decide
theorem test_decode_intsc : slot? 0x0000000001C09179E79E00000000E007 = some (.intsc { z with room := 7, var := 7 }) := by decide
theorem test_decode_zip : slot? 0x0000000001C09879E79E00000001E001 = some (.zip { z with room := 7, imm := 1, var := 1 }) := by decide
theorem test_decode_ftri : ∃ f, slot? 0x00004154500068650452700000_00E400 = some (.ftri f) ∧ f.efmt = 2 ∧ f.deq = 7 := ⟨_, rfl, by decide, by decide⟩
theorem test_decode_fmax : slot? 0x0700C12000005701081E10230000E200 = some (.fmax
    { z with pm := 7, q := 1, aEn := 1, aFchk := 1, aFmt := 1, dst := 0, sa := 16, sb := 32, deq := 1, pue := 1, pmode := 3, efmt := 1 }) := by
  decide
theorem test_decode_pass : slot? 0x0700C400004001510_79E14000000E002 = some (.pass
    { z with pm := 7, q := 1, aEn := 1, aKind := 2, room := 1, dst := 20, sa := 16, deq := 1, okind := 2, var := 2 }) := by decide
theorem test_decode_tcon : slot? 0x070780000000BB79E79E00220002E400 = some (.tconK16n128
    { z with pm := 7, pv := 7, q := 1, pue := 1, pidx := 0, pmode := 2, imm := 2, efmt := 2 }) := by decide
theorem test_decode_agsrc : ∃ f, slot? 0x000051000040C551185E20000000E200 = some (.agsrc f) ∧ f.aEn = 1 ∧ f.aCh = 1 ∧ f.dst = 20 ∧ f.sa = 17
    ∧ f.sb = 33 ∧ f.deq = 2 ∧ f.efmt = 1 := ⟨_, rfl, by decide⟩
theorem test_decode_waita : slot? 0x7F2180000080C956006200270000E001 = some (.waita
    { z with pm := 0x7F, pv := 0x21, q := 1, room := 2, dst := 21, sa := 32, sb := 1, sc := 34, pue := 1, pidx := 1, pmode := 3, var := 1 }) := by
  decide
theorem test_decode_bxstart : slot? 0x010080000000CF78091E00230000E000 = some (.bxstart
    { z with pm := 1, q := 1, dst := 30, sa := 0, sb := 36, pue := 1, pidx := 0, pmode := 3 }) := by decide
theorem test_decode_rowcon : slot? 0x060280000080E154079E002B0000E401 = some (.rowconStr
    { z with pm := 6, pv := 2, q := 1, room := 2, dst := 21, sa := 0, pue := 1, pidx := 2, pmode := 3, efmt := 2, var := 1 }) := by decide
theorem test_decode_tend : ∃ f, slot? 0x000056000000E979E79E20000000E000 = some (.tend f) ∧ f.aEn = 1 ∧ f.aCh = 1 ∧ f.aKind = 3 ∧ f.deq = 2 :=
  ⟨_, rfl, by decide⟩
theorem test_decode_prept : slot? 0x030380000000EE79E79E0000000FE000 = some (.prept { z with pm := 3, pv := 3, q := 1, imm := 0xF }) := by decide
theorem test_decode_wdenter : slot? 0x0301F1000040F151379E80270000E000 = some (.wdenter
    { z with pm := 3, pv := 1, q := 1, aEn := 1, aCh := 3, aFchk := 1, room := 1, dst := 20, sa := 19, deq := 8, pue := 1, pidx := 1,
             pmode := 3 }) := by decide
theorem test_decode_steer : slot? 0x0000000003C09E79E79E00000024E000 = some (.steer { z with room := 15, imm := 0x24 }) := by decide
theorem test_decode_mrg : slot? 0x0000000000409D51E79E000000070201 = some (.mrg { z with room := 1, dst := 20, imm := 7, rnd := 0, efmt := 1, var := 1 }) := by
  decide
theorem test_decode_unknown : (decodeSlot 0x0000000000000079E79E00000000E000).toOption.isSome = true
    ∧ (decodeSlot 0x000000000000FF79E79E00000000E000).toOption.isSome = false
    ∧ (decodeSlot 0x0000000000004579E79E00000000E002).toOption.isSome = false := by decide
theorem test_decode_commands : (decodeCmd 0xFF000000).toOption = some (.pgbegin 0) ∧ (decodeCmd 0xFF1001CC).toOption = some (.rect 0 0x1CC)
    ∧ (decodeCmd 0x0080C000).toOption = some (.elementFieldWrite 0 0x80 0xC000)
    ∧ (decodeCmd 0x25F30002).toOption = some (.wctlRead 0x25 2) ∧ (decodeCmd 0x25F30003).toOption = none := by decide
theorem test_decode_block : (decodeBlock 0x12340000000001000000000000401F01).toOption
      = some (.loads { zb with crc := 0x1234, len := 1, fmt := 0, link := 0, route := 0x401F }) ∧
    (decodeBlock 0x123400000000006000000000000000FE).toOption = none := by decide

/- The lane instructions: states that meet the hypotheses, and values of the spec's rules and examples. -/

/-- Compute element 0 with two source registers, both in lanes 0 to 7. -/
def two (a b : Oct Word) : State := on 0 (x0 [(1, a), (2, b)])

/-- An instruction's fields that write D0 from D1 and D2. -/
def d12 : Fields := { z with dst := 0, sa := 1, sb := 2 }

/-- The same with 32-bit elements that saturate. -/
def d12s : Fields := { d12 with sat := 1 }

theorem witness_LaneFiringFrame : LaneReady d12 (two up8 up8) := laneReady (by decide)

/-- A slot that takes its source from I0, pushes on O0, and needs lane 3. -/
def thru : Fields := { z with dst := 20, sa := 16, deq := 1, room := 1, aEn := 1 }
/-- An element with a token on I0 and one in hand on O1. -/
def chanElem : Elem := { x0 [] with inq := [(0, [{ tok up8 with vmask := 0x0F }])], seqo := [(0, 9)] }

theorem witness_IntegerResults : LaneReady thru (on 0 chanElem) ∧ LaneReady { d12 with w64 := 1 } (two up8 up8)
    ∧ LaneReady { d12 with efmt := 5, sat := 1, uns := 1 } (two up8 up8) :=
  ⟨laneReady (by decide), laneReady (by decide), laneReady (by decide)⟩

/-- R83: the example of a sum in two 16-bit halves, wrapping and saturating. -/
theorem test_add_halves : regAfter (.add { d12 with efmt := 6 }) (two (Oct.all 0x7FFF0001) (Oct.all 0x0001FFFF)) 0 = some (Oct.all 0x80000000)
    ∧ regAfter (.add { d12s with efmt := 6 }) (two (Oct.all 0x7FFF0001) (Oct.all 0x0001FFFF)) 0 = some (Oct.all 0x7FFF0000) := by decide
theorem test_sub_saturates_unsigned : regAfter (.sub { d12s with uns := 1 }) (two up8 (Oct.all 4)) 0 = some ⟨0, 0, 0, 0, 1, 2, 3, 4⟩ := by decide
theorem test_mul_pairs : regAfter (.mul { d12 with w64 := 1 }) (two ⟨0, 1, 0, 0, 0, 0, 0, 0⟩ ⟨3, 0, 0, 0, 0, 0, 0, 0⟩) 0
    = some ⟨0, 3, 0, 0, 0, 0, 0, 0⟩ := by decide
theorem test_mulh_signed : regAfter (.mulh d12) (two (Oct.all 0xFFFFFFFF) (Oct.all 2)) 0 = some (Oct.all 0xFFFFFFFF)
    ∧ regAfter (.mulhu d12) (two (Oct.all 0xFFFFFFFF) (Oct.all 2)) 0 = some (Oct.all 1) := by decide
theorem test_mad_clamps_once : regAfter (.mad { d12s with sc := 2 }) (two (Oct.all 0x7FFFFFFF) (Oct.all 0xFFFFFFFF)) 0
    = some (Oct.all 0x80000000) := by decide
theorem test_abs_most_negative : regAfter (.abs d12) (two (Oct.all 0x80000000) up8) 0 = some (Oct.all 0x80000000)
    ∧ regAfter (.neg d12s) (two (Oct.all 0x80000000) up8) 0 = some (Oct.all 0x7FFFFFFF) := by decide
theorem test_min_signed : regAfter (.min d12) (two (Oct.all 0xFFFFFFFF) (Oct.all 1)) 0 = some (Oct.all 0xFFFFFFFF)
    ∧ regAfter (.maxu d12) (two (Oct.all 0xFFFFFFFF) (Oct.all 1)) 0 = some (Oct.all 0xFFFFFFFF)
    ∧ regAfter (.minu d12) (two (Oct.all 0xFFFFFFFF) (Oct.all 1)) 0 = some (Oct.all 1)
    ∧ regAfter (.max d12) (two (Oct.all 0xFFFFFFFF) (Oct.all 1)) 0 = some (Oct.all 1) := by decide
theorem test_shifts_full_width : regAfter (.shl d12) (two (Oct.all 0x80000001) ⟨0, 1, 31, 32, 33, 40, 4, 5⟩) 0
      = some ⟨0x80000001, 2, 0x80000000, 0, 0, 0, 0x10, 0x20⟩
    ∧ regAfter (.sar d12) (two (Oct.all 0x80000000) (Oct.all 100)) 0 = some (Oct.all 0xFFFFFFFF)
    ∧ regAfter (.rot d12) (two (Oct.all 0x80000001) (Oct.all 33)) 0 = some (Oct.all 3) := by decide
theorem test_counts : regAfter (.clz d12) (two ⟨0, 1, 0x80000000, 0, 0, 0, 0, 0⟩ up8) 0 = some ⟨32, 31, 0, 32, 32, 32, 32, 32⟩
    ∧ regAfter (.popc d12) (two (Oct.all 0xF0F0F0F0) up8) 0 = some (Oct.all 16)
    ∧ regAfter (.brev d12) (two (Oct.all 1) up8) 0 = some (Oct.all 0x80000000) := by decide
theorem test_andn_order : regAfter (.andn d12) (two (Oct.all 0xF) (Oct.all 5)) 0 = some (Oct.all 0xA) := by decide
theorem test_sel_and_test : regAfter (.sel { d12 with sc := 29 }) (two (Oct.all 7) (Oct.all 9)) 0 = some ⟨9, 7, 7, 7, 7, 7, 7, 7⟩
    ∨ regAfter (.sel { d12 with sc := 29 }) (two (Oct.all 7) (Oct.all 9)) 0 = some ⟨7, 9, 9, 9, 9, 9, 9, 9⟩ := by decide
theorem test_addr_scales : regAfter (.addr { d12 with var := 3, imm := 0xFFFF }) (two (Oct.all 100) (Oct.all 2)) 0 = some (Oct.all 115) := by
  decide

theorem witness_BitFieldsExtractAndInsert :
    LaneReady { d12 with imm := 0x3E0 } (two up8 up8) ∧ fieldPos { d12 with imm := 0x3E0 } + fieldLen { d12 with imm := 0x3E0 } = 32
    ∧ LaneReady { d12 with imm := 0x1F } (two up8 up8) ∧ fieldPos { d12 with imm := 0x1F } + fieldLen { d12 with imm := 0x1F } = 32 :=
  ⟨laneReady (by decide), by decide, laneReady (by decide), by decide⟩
theorem test_bfx_sign : regAfter (.bfx { d12 with imm := 0x64 }) (two (Oct.all 0xF0) up8) 0 = some (Oct.all 0xFFFFFFFF)
    ∧ regAfter (.bfx { d12 with imm := 0x64, uns := 1 }) (two (Oct.all 0xF0) up8) 0 = some (Oct.all 0xF)
    ∧ regAfter (.bfi { d12 with imm := 0x64 }) (two (Oct.all 0xF5) (Oct.all 0xFFFF)) 0 = some (Oct.all 0xFF5F) := by decide

theorem witness_ImmediateMovesGiveIMM16 : LaneReady { d12 with efmt := 7, imm := 0x8000 } (two up8 up8) ∧ LaneReady d12 (two up8 up8) :=
  ⟨laneReady (by decide), laneReady (by decide)⟩
/-- R86: the constant of its example, in two firings. -/
theorem test_movi_movh : regAfter (.movi { d12 with uns := 1, imm := 0x0FDB }) (two up8 up8) 0 = some (Oct.all 0x0FDB)
    ∧ regAfter (.movi { d12 with imm := 0x8000 }) (two up8 up8) 0 = some (Oct.all 0xFFFF8000)
    ∧ regAfter (.movh { d12 with imm := 0x3FC9 }) (two (Oct.all 0x0FDB) up8) 0 = some (Oct.all 0x3FC90FDB) := by decide

/-- The slot of R88's example. -/
def idxF : Fields := { z with
  pm := 2, pv := 2, aEn := 1, aCh := 2, aFchk := 1, room := 2, dst := 21, sa := 18, sb := 1, deq := 4, pue := 1, pidx := 3, pmode := 1, imm := 640, var := 1 }
/-- The element of R88's example: p1 set but in lane 6. -/
def idxX : Elem := { x0 [(1, ⟨0, 5, 639, 640, 700, 10, 1, 2⟩)] with
  preds := ⟨2, 2, 2, 2, 2, 2, 0, 2⟩, inq := [(2, [{ tok ⟨0, 1, 2, 3, 0, 1, 2, 3⟩ with seq := 0x01C }])] }
theorem witness_Idx2IndexesAndChecks : LaneReady idxF (on 0 idxX) := laneReady (by decide)
/-- R88: the whole example. -/
theorem test_idx2_example : (hereAfter (.idx2 idxF) (on 0 idxX)).map (fun y => (y.outQ 1, y.preds, y.inQ 2))
    = some ([⟨0x01C, 0xBF, 0, kData, 0, ⟨0, 645, 1919, 0xFFFFFFFF, 0xFFFFFFFF, 650, 0, 1922⟩⟩], ⟨10, 10, 10, 2, 2, 10, 0, 10⟩, []) := by decide

/-- Fields that set p4 from a comparison. -/
def setP4 : Fields := { z with dst := 0, sa := 1, sb := 2, pue := 1, pidx := 4, pmode := 1 }
/-- Predicates p0 in even lanes, p1 in the low half. -/
def pX : Elem := { x0 [(1, up8), (2, Oct.all 4)] with preds := ⟨3, 2, 3, 2, 1, 0, 1, 0⟩ }
theorem witness_PredicateInstructionsWriteOneBit : LaneReady { setP4 with imm := 0x48 } (on 0 pX) := laneReady (by decide)
theorem test_pand_inverts : (hereAfter (.pand { setP4 with imm := 0x48 }) (on 0 pX)).map (·.preds) = some ⟨3, 0x12, 3, 0x12, 1, 0, 1, 0⟩
    ∧ (hereAfter (.pxor { setP4 with imm := 0x08 }) (on 0 pX)).map (·.preds) = some ⟨3, 0x12, 3, 0x12, 0x11, 0, 0x11, 0⟩ := by decide
theorem witness_PregReadsAndWritesPredicates : LaneReady d12 (on 0 pX) ∧ d12.pue = 0 := ⟨laneReady (by decide), by decide⟩
theorem test_preg : regAfter (.preg d12) (on 0 pX) 0 = some ⟨3, 2, 3, 2, 1, 0, 1, 0⟩
    ∧ (hereAfter (.pregSet { d12 with var := 1 }) (on 0 { pX with regs := [(1, Oct.all 0x1A5)] })).map (·.preds) = some (Oct.all 0xA5) := by decide

theorem witness_LaneMovesPermuteLanes : LaneReady { d12 with var := 7, imm := 7 } (two up8 up8) ∧ LaneReady thru (on 0 chanElem) :=
  ⟨laneReady (by decide), laneReady (by decide)⟩
theorem test_shuf_forms : regAfter (.shuf { d12 with var := 1, imm := 3 }) (two up8 up8) 0 = some ⟨0, 0, 0, 1, 2, 3, 4, 5⟩
    ∧ regAfter (.shuf { d12 with var := 4 }) (two up8 (Oct.all 9)) 0 = some ⟨1, 9, 2, 9, 3, 9, 4, 9⟩
    ∧ regAfter (.shuf { d12 with var := 7 }) (two up8 up8) 0 = some ⟨2, 4, 6, 8, 2, 4, 6, 8⟩ := by decide
theorem test_perm_bcast : regAfter (.perm d12) (two up8 ⟨7, 6, 5, 4, 3, 2, 9, 0⟩) 0 = some ⟨8, 7, 6, 5, 4, 3, 2, 1⟩
    ∧ regAfter (.bcast { d12 with imm := 5 }) (two up8 up8) 0 = some (Oct.all 6) := by decide

theorem witness_ReductionsCombineLanesOfE : LaneReady { d12s with imm := 1 } (two up8 up8) ∧ LaneReady { thru with var := 7 } (on 0 chanElem) :=
  ⟨laneReady (by decide), laneReady (by decide)⟩
/-- R94: the scan of its example, E without lane 5. -/
theorem test_lscan_example :
    let x := { x0 [(1, ⟨3, 0, 2, 5, 1, 9, 4, 2⟩)] with conf := [(160, 1), (161, 0xDF)] }
    regAfter (.lscan { d12 with imm := 1 }) (on 0 x) 0 = some ⟨0, 3, 3, 5, 10, 0, 11, 15⟩
    ∧ regAfter (.lscan d12) (on 0 x) 0 = some ⟨3, 3, 5, 10, 11, 0, 15, 17⟩ := by decide
theorem test_lred_identity : regAfter (.lred { d12 with var := 2 }) (two (Oct.all 0x80000000) up8) 0 = some (Oct.all 0x80000000)
    ∧ regAfter (.lred d12s) (two (Oct.all 0x7FFFFFFF) up8) 0 = some (Oct.all 0x7FFFFFFF) := by decide

theorem witness_CountsOfPredicateLanes : LaneReady { setP4 with imm := 1 } (on 0 pX) := laneReady (by decide)
theorem test_pcount_first : regAfter (.pcount { d12 with imm := 0, var := 1 }) (on 0 pX) 0 = some ⟨0, 1, 1, 2, 2, 3, 3, 4⟩
    ∧ regAfter (.pcount { d12 with imm := 1 }) (on 0 pX) 0 = some (Oct.all 4) ∧ regAfter (.first { d12 with imm := 7 }) (on 0 pX) 0 = some (Oct.all 8) := by
  decide

theorem witness_EmitAndCounterReads : LaneReady { z with dst := 20, sa := 1, room := 1, okind := 1, olvl := 2 } (two up8 up8)
    ∧ LaneReady { d12 with var := 3 } (two up8 up8) := ⟨laneReady (by decide), laneReady (by decide)⟩
theorem test_emit : (hereAfter (.emit { z with dst := 20, sa := 1, room := 1, okind := 1, olvl := 2 }) (two up8 up8)).map (·.outQ 0)
    = some [⟨0, 0xFF, 0, 1, 2, up8⟩] := by decide
theorem test_seqget : regAfter (.seqget d12) (on 0 chanElem) 0 = some (Oct.all 9) ∧ regAfter (.wsph d12) (on 129 (x0 [])) 0 = some (Oct.all 0) := by
  decide

theorem witness_Sort8OrdersLanesStably : LaneReady { d12 with var := 1, efmt := 1 } (two up8 up8) := laneReady (by decide)
theorem test_sort8 : regAfter (.sort8 { d12 with var := 3 }) (two ⟨5, 1, 5, 0xFFFFFFFF, 2, 2, 0, 9⟩ up8) 0 = some ⟨7, 0, 2, 4, 5, 1, 6, 3⟩
    ∧ regAfter (.sort8 { d12 with efmt := 1 }) (two ⟨0x80000000, 0, 0x7FC00000, 0xFF800000, 0x3F800000, 0xBF800000, 0x7F800000, 0⟩ up8) 0
      = some ⟨0xFF800000, 0xBF800000, 0x80000000, 0, 0, 0x3F800000, 0x7F800000, 0x7FC00000⟩ := by decide
theorem witness_GselSelectsBestGroups : LaneReady { setP4 with imm := 5 } (on 0 pX) ∧ LaneReady { setP4 with imm := 7, efmt := 1, var := 1 } (on 0 pX) :=
  ⟨laneReady (by decide), laneReady (by decide)⟩
theorem test_gsel_best_pair : (hereAfter (.gsel { setP4 with imm := 5 }) (on 0 { pX with regs := [(1, ⟨1, 2, 9, 0, 9, 9, 3, 3⟩)] })).map
    (fun y => y.reg 0) = some ⟨0, 0, 1, 1, 0, 0, 0, 0⟩ := by decide

/- Predicate updates, faults, and the token instructions. -/

theorem witness_PredicateUpdateModes : LaneReady { setP4 with pmode := 0 } (on 0 pX) ∧ LaneReady setP4 (on 0 pX) :=
  ⟨laneReady (by decide), laneReady (by decide)⟩
theorem test_predicate_from_nonzero : (hereAfter (.mov { setP4 with pmode := 0 }) (on 0 { pX with regs := [(1, ⟨0, 1, 0, 1, 0, 1, 0, 1⟩)] })).map (·.preds)
    = some ⟨3, 0x12, 3, 0x12, 1, 0x10, 1, 0x10⟩ := by decide
theorem test_cmp_signed : (hereAfter (.cmp { setP4 with cc := 2 }) (on 0 { pX with regs := [(1, Oct.all 0xFFFFFFFF), (2, Oct.all 0)] })).map (·.preds)
    = some ⟨0x13, 0x12, 0x13, 0x12, 0x11, 0x10, 0x11, 0x10⟩ := by decide

theorem witness_SaturationSetsSAT : LaneReady { d12s with uns := 1 } (two up8 up8) ∧ LaneReady d12s (two up8 up8) :=
  ⟨laneReady (by decide), laneReady (by decide)⟩
theorem test_sat_flag : (hereAfter (.add d12s) (two (Oct.all 0x7FFFFFFF) ⟨0, 0, 0, 0, 0, 0, 0, 1⟩)).map (·.sflags) = some 0x20
    ∧ (hereAfter (.add d12) (two (Oct.all 0x7FFFFFFF) (Oct.all 1))).map (·.sflags) = some 0 := by decide

/-- A load that owns region 0 and runs its first task. -/
def ld0 : Load :=
  ⟨0, 0, 0, 0, 1, 4, .running, [⟨some 0, 0, 0, true, none⟩], 0, false, some ⟨1, 0⟩, false, true, 0, [], [], [], .none, [], 0, false, 0, 0, none,
    false, none, [], [], [], [], false, []⟩

/-- The element in hand in region 0, which a load owns. -/
def owned (e : Nat) (x : Elem) : State := { onIn { Region.reset with owner := some 0 } e x with loads := [(0, ld0)] }

/-- An element whose I0 holds a POISON token. -/
def poisoned : Elem := { x0 [] with inq := [(0, [{ tok up8 with kind := kPoison }])] }

theorem witness_FaultsBeginTheStopOfTheLoad :
    (owned 0 poisoned).Ready thru (Look.lane thru) ∧ owesCredit poisoned thru = false
      ∧ (∃ k ∈ srcChans thru ++ chansIn thru.deq, ∃ t, (owned 0 poisoned).here.head k = some t ∧ t.kind = kPoison)
      ∧ ((owned 0 poisoned).region 0).owner = some 0 ∧ (owned 0 poisoned).load 0 = some ld0 ∧ ld0.ph ≠ .faulted :=
  ⟨by show _ = true; decide, by decide, ⟨0, by decide, { tok up8 with kind := kPoison }, by decide, by decide⟩, by decide, by decide, by decide⟩
/-- R14: the record names the channel and the sequence number of the POISON token. -/
theorem test_poison_record :
    (after (.mov thru) (owned 0 poisoned)).bind (fun t => (t.load 0).bind fun l => l.frecs.head?.map fun g => (g.cls, g.det, g.hseq, g.opc))
      = some (0x03, 0x06, 7, 0x2C)
    ∧ (after (.mov thru) (owned 0 poisoned)).map (fun t => (t.here.faulted, t.here.inQ 0)) = some (true, [{ tok up8 with kind := kPoison }]) := by decide

/-- An AGSRC stream to O0. -/
def eng0 : StreamEngine := { kind := 1, slot := 0, opc := 0xC5, f := z, ch := 0, ch2 := 0, out := 0, i := 0, r := 0, n := 4, base := 0, first := none, body := [], ended := false, seq := none, born := 0, conv := 0 }
theorem witness_UnreadySlotChangesNothing :
    (∃ r, slotParts (.add d12) = some r) ∧ guardOk (two up8 up8).here { d12 with pm := 1, pv := 1 } = false
    ∧ roomOk { x0 [] with outq := [(0, [tok up8, tok up8, tok up8, tok up8])] } { z with room := 1 } = false
    ∧ explicitOk (x0 []) thru = false ∧ (State.reset.picks 0 0 = false) ∧ ((Elem.fresh []).field 160).getLsbD 0 = false
    ∧ (∃ k ∈ srcChans { d12 with sa := 16 } ++ chansIn 0, k ∉ condChans { d12 with sa := 16 }
      ∧ ∀ t, (on 0 { x0 [] with inq := [(0, [{ tok up8 with kind := kDone }])] }).here.head k = some t → t.kind ≠ kData ∧ t.kind ≠ kPoison)
    ∧ (16 - 16 ∈ srcChans { d12 with sa := 16 } ∧ TakenIn (onIn { Region.reset with mode := 1, arr := { MArray.idle with op := 2 } } 0 (x0 [])) 0)
    ∧ (outOf 20 = some 0 ∧ TakenOut (on 128 { x0 [] with port := ⟨0, [], some eng0, 0⟩ }) 0)
    ∧ (on 128 { x0 [] with port := ⟨0, [], some eng0, 0⟩ }).here.port.eng ≠ none
    ∧ (let s := onIn { Region.reset with mode := 1, arr := { MArray.idle with op := 2 } } 0 (x0 [])
       (s.region 0).mode ≠ 0 ∧ (s.region 0).arr.op ≠ 0) := by
  refine ⟨⟨_, rfl⟩, by decide, by decide, by decide, by decide, by decide, ⟨0, by decide, by decide, fun t h => ?_⟩, ⟨by decide, .inl (by decide)⟩,
    ⟨by decide, by decide, eng0, rfl, by decide⟩, by decide, by decide⟩
  cases h
  decide

/-- Whether a firing that the instruction's own rule forms is ready. -/
def ownOk (f : Fields) (s : State) : Bool :=
  s.slotReady s.cur.reg s.cur.elem s.cur.slot f (Look.lane f) && (laneFault s s.here f).isNone

theorem ownReady {f : Fields} {s : State} (h : ownOk f s = true) : OwnReady f s := by
  simp only [ownOk, Bool.and_eq_true, Option.isNone_iff_eq_none] at h
  exact ⟨h.1, h.2⟩

/-- PASS of I0 to O0 with the guard p0. -/
def passF : Fields := { thru with pm := 1, pv := 1, var := 3, okind := 3, olvl := 5 }
/-- An element with p0 in even lanes and a token on I0. -/
def passX : Elem := { pX with inq := [(0, [tok up8])], preds := ⟨1, 0, 1, 0, 1, 0, 1, 0⟩ }

theorem witness_TokenForwarding : OwnReady passF (on 0 passX) ∧ chanOf passF.sa = some 0 ∧ passX.head 0 = some (tok up8)
    ∧ outOf passF.dst = some 0 ∧ passX.mayPush 0 passF.okind = true ∧ passX.mayPush 0 kData = true :=
  ⟨ownReady (by decide), by decide, by decide, by decide, by decide, by decide⟩
theorem test_pass_masks : (hereAfter (.pass passF) (on 0 passX)).map (fun y => (y.outQ 0, y.inQ 0, y.seqOut 0))
    = some ([⟨7, 0x55, 0, 3, 5, ⟨1, 0, 3, 0, 5, 0, 7, 0⟩⟩], [], 1) := by decide
theorem test_tagset : (hereAfter (.tagset { thru with efmt := 4, deq := 0, aEn := 0 }) (on 0 passX)).map (fun y => (y.outQ 0, y.inQ 0))
    = some ([⟨0, 0xFF, 4, kData, 0, up8⟩], [tok up8]) := by decide

/-- DEMAND on O1 of D1. -/
def demF : Fields := { z with dst := 21, sa := 1, room := 2, okind := 5 }
theorem witness_NopDemandAndSeqset : OwnReady { z with deq := 1 } (on 0 chanElem) ∧ OwnReady demF (two up8 up8) ∧ outOf demF.dst = some 1
    ∧ demF.okind = kReq ∧ OwnReady { z with sa := 1, var := 2 } (two up8 up8) :=
  ⟨ownReady (by decide), ownReady (by decide), by decide, by decide, ownReady (by decide)⟩
theorem test_demand : (hereAfter (.demand demF) (two up8 up8)).map (fun y => y.outQ 1) = some [⟨0, 1, 0, 5, 0, ⟨1, 0, 0, 0, 0, 0, 0, 0⟩⟩] := by decide
theorem test_seqset : (hereAfter (.seqset { z with sa := 1, var := 2, pm := 1, pv := 1 }) (on 0 { passX with regs := [(1, ⟨0xFFFF1, 2, 3, 4, 5, 6, 7, 8⟩)] })).map
    (fun y => (y.seqOut 2, y.seqOut 0)) = some (0xFF1, 0) := by decide

/-- FWDSEL of I0 to O0 or O3 by p0. -/
def fwdF : Fields := { thru with room := 9, imm := 3, aEn := 0 }
theorem witness_DropAndFwdsel : OwnReady { thru with dst := 0, room := 0 } (on 0 chanElem)
    ∧ (on 0 passX).Ready fwdF { Look.lane fwdF with outs := (outOf fwdF.dst).toList ++ [(fwdF.imm.extractLsb' 0 2).toNat] }
    ∧ laneFault (on 0 passX) passX fwdF = none ∧ chanOf fwdF.sa = some 0 ∧ passX.mayPush 0 kData = true ∧ passX.mayPush 3 kData = true :=
  ⟨ownReady (by decide), by show _ = true; decide, by decide, by decide, by decide, by decide⟩
theorem test_drop_header : regAfter (.drop { thru with dst := 0, room := 0 }) (on 0 chanElem) 0 = some (Oct.all 0x0070F000) := by decide
theorem test_fwdsel : (hereAfter (.fwdsel fwdF) (on 0 passX)).map (fun y => (y.outQ 0, y.outQ 3)) = some ([{ tok up8 with seq := 0 }], [])
    ∧ (hereAfter (.fwdsel { fwdF with var := 5 }) (on 0 passX)).map (fun y => (y.outQ 0, y.outQ 3)) = some ([], [{ tok up8 with seq := 0 }]) := by
  decide

/- The stream and routing instructions: for every row of their tables a firing that takes it. -/

/-- Whether a step is taken, as a Bool. -/
def stepOk (p : StepRow) (f : Fields) (s : State) : Bool :=
  s.slotReady s.cur.reg s.cur.elem s.cur.slot f ⟨chansIn f.deq, p.reads f s.here, p.outs f⟩
    && (laneFault s s.here { f with sa := 30, sb := if 16 ≤ f.sb.toNat ∧ f.sb.toNat ≤ 19 then 30 else f.sb, sc := 30 }).isNone
    && (headFault s.here (p.reads f s.here)).isNone
    && ((p.deq f s.here).all fun q => match s.here.head q.1 with | some t => (trackFault (s.here.tracker q.1) t q.2).isNone | none => true)
    && (p.out f s.here).all fun q => s.here.mayPush q.1 q.2.kind

theorem stepReady {p : StepRow} {f : Fields} {s : State} (h : stepOk p f s = true) : StepReady p f s := by
  simp only [stepOk, Bool.and_eq_true, Option.isNone_iff_eq_none, List.all_eq_true] at h
  obtain ⟨⟨⟨⟨h1, h2⟩, h3⟩, h4⟩, h5⟩ := h
  refine ⟨h1, h2, h3, fun q hq t ht => ?_, h5⟩
  have := h4 q hq
  rw [ht] at this
  exact Option.isNone_iff_eq_none.mp this

/-- What a statement about a row asks of a state, with the readiness as a Bool. -/
def Takes (p : StepRow) (w : Fields × State) : Prop :=
  stepOk p w.1 w.2 = true ∧ p.applies w.1 w.2.here ∧ ((p.deq w.1 w.2.here).map (·.1)).Nodup ∧ ((p.out w.1 w.2.here).map (·.1)).Nodup

/-- Each row of a table is taken in the state beside it. -/
def AllTake : List StepRow → List (Fields × State) → Prop
  | [], [] => True
  | p :: ps, w :: ws => Takes p w ∧ AllTake ps ws
  | _, _ => False

/-- For every row of a table some state meets the hypotheses of its statement. -/
def RowsMet (rows : List StepRow) : Prop :=
  ∀ p ∈ rows, ∃ f s, StepReady p f s ∧ p.applies f s.here ∧ ((p.deq f s.here).map (·.1)).Nodup ∧ ((p.out f s.here).map (·.1)).Nodup

theorem allTake_met {rows : List StepRow} {ws : List (Fields × State)} (h : AllTake rows ws) : RowsMet rows := by
  induction rows generalizing ws with
  | nil => intro p hp; simp at hp
  | cons r rs ih =>
    cases ws with
    | nil => exact absurd h (by simp [AllTake])
    | cons w ws =>
      intro p hp
      rcases List.mem_cons.mp hp with rfl | hp
      · exact ⟨w.1, w.2, stepReady h.1.1, h.1.2⟩
      · exact ih h.2 p hp

/-- A token of a kind and level with the lanes `v`. -/
def tk (kind lvl : BitVec 3) (v : Oct Word) : Token := ⟨3, 0xFF, 0, kind, lvl, v⟩
/-- A stream token of level `l`. -/
def st (l : BitVec 3) : Token := tk kStop l (Oct.all 0)
/-- The end of a stream. -/
def dn : Token := tk kDone 0 (Oct.all 0)
/-- A DATA token with coordinate `c`. -/
def co (c : Word) : Token := tk kData 0 ⟨c, 3, 2, 0, 0, 0, 0, 0⟩

/-- Compute element 0 with the given heads and stream unit; the trackers of its inputs have taken a STOP at level `l`. -/
def walker (l : BitVec 3) (su : StreamUnit) (heads : List (Nat × Token)) : State :=
  on 0 { x0 [(1, up8)] with
    inq := heads.map fun p => (p.1, [p.2]), su := su
    trk := if l = 7 then [] else [(0, ⟨2, l, false, 0⟩), (1, ⟨2, l, false, 0⟩), (2, ⟨2, l, false, 0⟩), (3, ⟨2, l, false, 0⟩)] }

/-- A stream unit with the flag set. -/
def flagged : StreamUnit := { StreamUnit.zero with flag := true }
/-- A stream unit in a phase, with FF scale bytes behind it. -/
def phased (p : BitVec 5) : StreamUnit := { StreamUnit.zero with phase := p }

/-- Fields of a walker of I0 to O0 with IMM16. -/
def one0 (imm : Half) (var : BitVec 3) : Fields := { z with dst := 20, sa := 16, room := 1, imm := imm, var := var }
/-- Fields of a walker of I0 and I1 to O0. -/
def two0 (imm : Half) (var : BitVec 3) : Fields := { one0 imm var with sb := 17 }

/-- One state for each row of the fiber table, in its order. -/
def fiberStates : List (Fields × State) :=
  let w := walker 7 StreamUnit.zero
  [(one0 0 0, w [(0, co 5)]),
   (one0 0 2, w [(0, tk kData 0 (Oct.all 0))]),
   (one0 0 2, walker 7 flagged [(0, co 5)]),
   (one0 1 2, w [(0, st 1)]),
   (one0 2 0, walker 2 StreamUnit.zero [(0, dn)]),
   (two0 1 0, w [(0, co 5), (1, co 9)]),
   (two0 1 0, w [(0, co 5), (1, st 0)]),
   (two0 2 0, w [(0, st 0), (1, st 1)]),
   (two0 1 0, { walker 1 StreamUnit.zero [(0, dn), (1, dn)] with regions := [(0, { Region.reset with rstate := 2, elems := [(0,
      { x0 [] with inq := [(0, [dn]), (1, [dn])], trk := [(0, ⟨2, 0, false, 0⟩), (1, ⟨2, 1, false, 0⟩)] })] })] }),
   ({ one0 0x09 0 with sb := 1 }, w [(0, co 5)]),
   ({ one0 0x09 0 with sb := 1 }, w [(0, st 1)]),
   ({ one0 0x10 0 with sb := 1 }, w [(0, st 2)]),
   ({ one0 0x09 0 with sb := 1 }, w [(0, st 0)]),
   ({ one0 0x08 0 with sb := 1 }, walker 1 StreamUnit.zero [(0, dn)]),
   (one0 0x0A 0, w [(0, st 1)]),
   (one0 0x0A 0, w [(0, st 0)]),
   (one0 0x0A 0, w [(0, co 5)]),
   (one0 0 1, w [(0, co 5)]),
   (one0 0 1, walker 7 flagged [(0, co 5)]),
   (one0 1 1, w [(0, st 1)]),
   (one0 1 1, walker 1 StreamUnit.zero [(0, dn)]),
   (one0 0 0, w [(0, co 5)]),
   ({ z with room := 7, var := 1, imm := 1 }, w [(0, co 1), (1, co 2), (2, co 3)])]

theorem fiber_rows_taken : AllTake fiberTable fiberStates := by
  dsimp only [AllTake, Takes, fiberTable, fiberStates]
  repeat' apply And.intro
  all_goals decide

theorem witness_FiberInstructionsTakeTheirSteps : RowsMet fiberTable := allTake_met fiber_rows_taken

/-- CRDDROP of I0 (the outer stream) and I1 to O0 and O1. -/
def crd (l : Half) : Fields := { z with dst := 20, sa := 16, sb := 17, room := 3, imm := 8 + l }
/-- STEER by bit 4, or of a key alone. -/
def steerF (var : BitVec 3) : Fields := { z with room := 15, imm := 0x24, var := var }
/-- FANOUT to O2 and O3. -/
def fanF : Fields := { z with room := 12, imm := 0x1C }
/-- MRG of I0 and I1. -/
def mrgF : Fields := { z with dst := 20, room := 1, imm := 0x13 }

/-- One state for each row of the routing tables, in their order. -/
def routeStates : List (Fields × State) :=
  let w := walker 7 StreamUnit.zero
  [(crd 0, w [(0, co 5), (1, co 9)]),
   (crd 1, w [(0, co 5), (1, st 0)]),
   (crd 1, w [(0, st 0), (1, st 1)]),
   (crd 0, { w [] with regions := [(0, { Region.reset with rstate := 2, elems := [(0,
      { x0 [] with inq := [(0, [dn]), (1, [dn])], trk := [(0, ⟨2, 0, false, 0⟩), (1, ⟨2, 1, false, 0⟩)] })] })] }),
   (steerF 0, w [(0, co 5), (1, co 16)]),
   (steerF 0, w [(0, st 1), (1, st 1)]),
   (fanF, w [(0, co 5), (1, co 9)]),
   (fanF, walker 1 StreamUnit.zero [(0, dn), (1, dn)]),
   (mrgF, w [(0, co 5), (1, st 0)]),
   ({ mrgF with var := 1 }, w [(0, co 5), (1, co 9)]),
   (mrgF, w [(0, st 1), (1, st 1)])]

theorem route_rows_taken : AllTake (dropTable ++ routeTable) routeStates := by
  dsimp only [AllTake, Takes, dropTable, routeTable, routeStates, List.cons_append, List.nil_append]
  repeat' apply And.intro
  all_goals decide

theorem witness_RoutingTakesItsSteps : RowsMet (dropTable ++ routeTable) := allTake_met route_rows_taken
/-- R401: the posies 2 and 1 of a key, each to the output of its bit. -/
theorem test_steer_by_key : (hereAfter (.steer (steerF 0)) (walker 7 StreamUnit.zero [(0, co 5), (1, co 16)])).map
    (fun y => (y.outQ 0, y.outQ 1, y.outQ 2, y.outQ 3)) = some ([], [co 5], [], [co 16]) := by decide

/-- A line of the lossless format: format 1 with group mask 0x0F. -/
def lineTok : Token := tk kData 0 ⟨0, 0x01000000, 0x0F, 0, 0, 0, 0, 0⟩
/-- DECOMP of I0 to O0 and O1. -/
def decF : Fields := { z with dst := 20, sa := 16, room := 3, imm := 1 }
/-- COMP of I0 and I1 to O0. -/
def compF : Fields := { z with dst := 20, sa := 16, sb := 17, room := 1 }

/-- One state for each row of the block table, in its order. -/
def blockStates : List (Fields × State) :=
  [(decF, walker 7 StreamUnit.zero [(0, lineTok)]),
   ({ decF with imm := 5 }, walker 7 StreamUnit.zero [(0, st 1)]),
   (decF, walker 7 (phased 3) [(0, co 5)]),
   (decF, walker 7 (phased 4) []),
   (compF, walker 7 (phased 2) [(0, co 5), (1, co 9)]),
   ({ compF with imm := 1 }, walker 7 StreamUnit.zero [(0, st 1), (1, st 1)]),
   (compF, walker 7 (phased 4) []),
   (one0 0 0, walker 7 (phased 6) [(0, co 5)]),
   (one0 1 0, walker 7 StreamUnit.zero [(0, st 1)]),
   (one0 0 0, walker 7 (phased 8) [])]

theorem block_rows_taken : AllTake blockTable blockStates := by
  dsimp only [AllTake, Takes, blockTable, blockStates]
  repeat' apply And.intro
  all_goals decide

theorem witness_BlockInstructionsTakeTheirSteps : RowsMet blockTable := allTake_met block_rows_taken

/-- A merge of coordinates and both values, at level 1. -/
def merF : Fields := { z with room := 7, var := 7, imm := 1 }
/-- Four heads of a merge. -/
def four (a b : Token) : List (Nat × Token) := [(0, a), (1, a), (2, b), (3, b)]

/-- One state for each row of the merge table, in its order. -/
def mergeStates : List (Fields × State) :=
  let w := walker 7 StreamUnit.zero
  let each := fun (s : State) => [(merF, s), (merF, s), (merF, s)]
  each (w (four (co 5) (co 5))) ++ each (w (four (co 4) (co 5))) ++ each (w (four (st 0) (co 5)))
    ++ each (w (four (st 1) (st 1))) ++ each (walker 1 StreamUnit.zero (four dn dn))

theorem merge_rows_taken : AllTake mergeTable mergeStates := by
  dsimp only [AllTake, Takes, mergeTable, mergeRow, mergeStates, mergeVals, onlyA, onlyB, bothMatch, bothStop, bothAre, List.cons_append,
    List.nil_append]
  repeat' apply And.intro
  all_goals decide

theorem witness_MergesTakeTheirSteps : RowsMet mergeTable
    ∧ (let s := walker 7 StreamUnit.zero (four (co 4) (st 1))
       s.Ready merF ⟨chansIn merF.deq, mergeReads merF, mergeOuts merF⟩
       ∧ laneFault s s.here { merF with sa := 30, sb := if 16 ≤ merF.sb.toNat ∧ merF.sb.toNat ≤ 19 then 30 else merF.sb, sc := 30 } = none
       ∧ headFault s.here (mergeReads merF) = none ∧ (headOf s.here 0).kind = kData
       ∧ (headOf s.here 2).kind = kStop ∧ (headOf s.here 2).lvl ≠ 0)
    ∧ (headOf (walker 1 StreamUnit.zero (four (co 4) dn)).here 2).kind = kDone :=
  ⟨allTake_met merge_rows_taken, ⟨by show _ = true; decide, by decide, by decide, by decide, by decide, by decide⟩, by decide⟩
theorem test_union_pads : (hereAfter (.union merF) (walker 7 StreamUnit.zero (four (co 4) (co 5)))).map
    (fun y => ((y.outQ 0).map (·.lanes.l0), (y.outQ 1).map (·.lanes.l1), (y.outQ 2).map (·.lanes.l1), y.inQ 2)) = some ([4], [3], [0], [co 5]) := by
  decide

/-- An element with entries in its select lists and p0 in even lanes. -/
def selX : Elem := { passX with
  sel := Oct.all [(0x40000000, 1), (0x3F800000, 2)], regs := [(1, Oct.all 0x40400000), (2, Oct.all 9)] }
/-- SELO of the best entry to O0 and O1. -/
def seloF : Fields := { z with dst := 20, room := 3, imm := 1, efmt := 1 }
theorem witness_SelectionListsAndTrackers :
    (on 0 selX).Ready { z with imm := 0x18, var := 1 } ⟨chansIn 0, [], []⟩ ∧ laneFault (on 0 selX) selX z = none
    ∧ OwnReady { d12 with imm := 2, efmt := 1, pm := 1, pv := 1 } (on 0 selX)
    ∧ outOf seloF.dst = some 0 ∧ (on 0 selX).Ready seloF { Look.lane seloF with outs := [0, 1] } ∧ laneFault (on 0 selX) selX seloF = none
    ∧ selX.mayPush 0 kData = true ∧ selX.mayPush 1 kData = true :=
  ⟨by show _ = true; decide, by decide, ownReady (by decide), by decide, by show _ = true; decide, by decide, by decide, by decide⟩
theorem test_selk_keeps_best : (hereAfter (.selk { d12 with imm := 2, efmt := 1, pm := 1, pv := 1 }) (on 0 selX)).map (fun y => (y.sel.l0, y.sel.l1))
    = some ([(0x40400000, 9), (0x40000000, 1)], [(0x40000000, 1), (0x3F800000, 2)]) := by decide
theorem test_selo_takes_best : (hereAfter (.selo seloF) (on 0 selX)).map (fun y => ((y.outQ 0).map (·.lanes.l3), (y.outQ 1).map (·.lanes.l3), y.sel.l0))
    = some ([0x40000000], [1], [(0x3F800000, 2)]) := by decide

/- The floating-point and conversion instructions. -/

/-- Fields of a binary FP32 instruction from D1 and D2 to D0. -/
def fp : Fields := { d12 with efmt := 1, sc := 0 }

theorem witness_RoundingGivesTheNeighbour : inRange .fp32 1 3 ∧ inRange .bf16 1 3 ∧ inRange .rn8 1 3 ∧ inRange .f4 3 1 := by
  refine ⟨?_, ?_, ?_, ?_⟩ <;> show _ ≤ _ <;> decide
/-- R43: a tie goes to the even neighbour or away from zero, one half of the last place of FP32. -/
theorem test_round_ties : (roundFin .fp32 .rne false false (2 ^ 24 + 1) (2 ^ 24)).bits = 0x3F800000
    ∧ (roundFin .fp32 .rna false true (2 ^ 24 + 1) (2 ^ 24)).bits = 0xBF800001
    ∧ (roundFin .fp32 .rtz false true (2 ^ 25 - 1) (2 ^ 24)).bits = 0xBFFFFFFF := by decide

theorem witness_FloatingResultsRoundOnce : LaneReady fp (two up8 up8) ∧ IsFloat fp
    ∧ LaneReady { fp with efmt := 3, rnd := 1 } (two up8 up8) ∧ IsFloat { fp with efmt := 3, rnd := 1 }
    ∧ LaneReady { fp with efmt := 2, sat := 1 } (two up8 up8) ∧ IsFloat { fp with efmt := 2, sat := 1 } :=
  ⟨laneReady (by decide), .inl rfl, laneReady (by decide), .inr (.inr rfl), laneReady (by decide), .inr (.inl rfl)⟩
theorem test_fadd_fmul : regAfter (.fadd fp) (two (Oct.all 0x3F800000) ⟨0x40000000, 0xBF800000, 0x7F800000, 0xFF7FFFFF, 0, 0x33800000, 0x33800001, 0xC0000000⟩) 0
      = some ⟨0x40400000, 0, 0x7F800000, 0xFF7FFFFF, 0x3F800000, 0x3F800000, 0x3F800001, 0xBF800000⟩
    ∧ regAfter (.fmul { fp with efmt := 2 }) (two (Oct.all 0x40003F80) (Oct.all 0x40403F80)) 0 = some (Oct.all 0x40C03F80) := by decide
theorem test_fma_rounds_once : regAfter (.fma { fp with sc := 1 }) (two (Oct.all 0x3F800001) (Oct.all 0x3F800001)) 0 = some (Oct.all 0x40000002)
    ∧ regAfter (.fsub fp) (two (Oct.all 0x3F800000) (Oct.all 0x40000000)) 0 = some (Oct.all 0xBF800000)
    ∧ regAfter (.fnma { fp with sc := 2 }) (two (Oct.all 0x3F800000) (Oct.all 0x40000000)) 0 = some (Oct.all 0) := by decide
theorem test_fma3 : regAfter (.fma3 { fp with sc := 2 }) (on 0 (x0 [(0, Oct.all 0x3F800000), (1, Oct.all 0x40000000), (2, Oct.all 0x40400000)])) 0
    = some (Oct.all 0x41980000) := by decide

theorem witness_FloatingElementFunctions : LaneReady fp (two (Oct.all 0x40000000) up8) ∧ IsFloat fp ∧ fp.efmt = 1
    ∧ ∃ n d, decodeFp32 (srcLane (two (Oct.all 0x40000000) up8).here fp fp.sa 7) = .fin false n d ∧ n ≠ 0 :=
  ⟨laneReady (by decide), .inl rfl, rfl, _, _, rfl, by decide⟩
theorem test_fmin_fabs : regAfter (.fmin fp) (two (Oct.all 0x80000000) (Oct.all 0)) 0 = some (Oct.all 0x80000000)
    ∧ regAfter (.fmax fp) (two (Oct.all 0x80000000) (Oct.all 0)) 0 = some (Oct.all 0)
    ∧ regAfter (.fabs { fp with efmt := 2 }) (two (Oct.all 0xBF80C000) up8) 0 = some (Oct.all 0x3F804000)
    ∧ regAfter (.fneg fp) (two (Oct.all 0) up8) 0 = some (Oct.all 0x80000000) := by decide
/-- R106: exact values, and operands outside the domains. -/
theorem test_functions : regAfter (.frcp fp) (two ⟨0x40000000, 0, 0x7F800000, 0x40400000, 0xC0000000, 0x3F800000, 0x80000000, 0x41200000⟩ up8) 0
      = some ⟨0x3F000000, 0x7F800000, 0, 0x3EAAAAAB, 0xBF000000, 0x3F800000, 0xFF800000, 0x3DCCCCCD⟩
    ∧ regAfter (.frsq fp) (two ⟨0x40800000, 0x41100000, 0, 0x7F800000, 0x3F800000, 0x3E800000, 0x40800000, 0x40800000⟩ up8) 0
      = some ⟨0x3F000000, 0x3EAAAAAB, 0x7F800000, 0, 0x3F800000, 0x40000000, 0x3F000000, 0x3F000000⟩ := by decide +kernel
theorem test_fexpf_flogf : regAfter (.fexpf fp) (two (Oct.all 0x3F800000) up8) 0 = some (Oct.all 0x40000000)
    ∧ regAfter (.fexpf fp) (two (Oct.all 0xBF800000) up8) 0 = some (Oct.all 0x3F000000)
    ∧ regAfter (.flogf fp) (two (Oct.all 0x40000000) up8) 0 = some (Oct.all 0x3F800000)
    ∧ regAfter (.flogf fp) (two (Oct.all 0x3F800000) up8) 0 = some (Oct.all 0) := by decide +kernel

theorem witness_SignallingNaNsAreQuieted : LaneReady fp (two (Oct.all 0x7F800001) up8) ∧ fp.efmt = 1
    ∧ (execLanes (two (Oct.all 0x7F800001) up8).here fp).getLsbD 7 = true
    ∧ isSigBits (srcLane (two (Oct.all 0x7F800001) up8).here fp fp.sa 7) = true ∧ regOf fp.dst = some 0 :=
  ⟨laneReady (by decide), rfl, by decide, by decide, by decide⟩
theorem test_signalling : (hereAfter (.fadd fp) (two (Oct.all 0x7F800001) up8)).map (fun y => ((y.reg 0).l7, y.sflags)) = some (0x7FC00001, 1) := by
  decide

theorem witness_ConversionsAndDotProducts : LaneReady fp (two up8 up8) ∧ LaneReady { fp with efmt := 0 } (two up8 up8)
    ∧ LaneReady { fp with efmt := 2 } (two up8 up8) ∧ LaneReady { fp with efmt := 3 } (two up8 up8) ∧ fp.var = 0
    ∧ ∀ p ∈ convertPairs ++ packPairs ++ unpackPairs ++ [(6, 2), (0, 1)],
      LaneReady { fp with efmt := BitVec.ofNat 3 p.1, var := BitVec.ofNat _ p.2 } (two up8 up8) :=
  ⟨laneReady (by decide), laneReady (by decide), laneReady (by decide), laneReady (by decide), rfl, fun p h => laneReady (by revert p; decide)⟩
theorem test_ftoi_itof : regAfter (.ftoi { fp with sat := 1, rnd := 1 }) (two ⟨0x40200000, 0xC0200000, 0x4F000000, 0x7FC00000, 0xCF000000, 0x3F000000, 0, 0xFF800000⟩ up8) 0
      = some ⟨2, 0xFFFFFFFE, 0x7FFFFFFF, 0, 0x80000000, 0, 0, 0x80000000⟩
    ∧ regAfter (.itof { fp with efmt := 0 }) (two ⟨1, 0xFFFFFFFF, 0x80000000, 0, 0x1000001, 2, 3, 4⟩ up8) 0
      = some ⟨0x3F800000, 0xBF800000, 0xCF000000, 0, 0x4B800000, 0x40000000, 0x40400000, 0x40800000⟩ := by decide
theorem test_fdot2 : regAfter (.fdot2 { fp with efmt := 2 }) (on 0 (x0 [(0, Oct.all 0x3F800000), (1, Oct.all 0x40003F80), (2, Oct.all 0x40404000)])) 0
    = some (Oct.all 0x41100000) := by decide
theorem test_fcmp_fclass : regAfter (.fcmp { fp with cc := 2 }) (two (Oct.all 0x3F800000) ⟨0x40000000, 0x3F800000, 0, 0x7FC00000, 0x7F800000, 0, 0, 0⟩) 0
    = some ⟨1, 0, 0, 0, 1, 0, 0, 0⟩ := by decide

/-- `qscale.rne D3, D1, D5, #0`. -/
def qsF : Fields := { z with dst := 3, sa := 1, sb := 5, rnd := 0 }
/-- The eight values of R114's example and the scale 0x6B. -/
def qsX : Elem := x0 [(1, ⟨0x40A00000, 0xC0000000, 0x3ECCCCCD, 0x3F800000, 0, 0xBDCCCCCD, 0x40400000, 0x40220000⟩), (5, Oct.all 0x6B)]
/-- CVTOV with an F4 target, lane 3 and notices on O1. -/
def cvF : Fields := { qsF with var := 4, imm := 0x1D, room := 2 }
/-- CVTOV of FP32 pairs to BF16 on O0, with notices on O1. -/
def cvB : Fields := { qsF with var := 2, efmt := 1, imm := 5, dst := 20, room := 3 }
/-- Whether an instruction's slot is ready with a look of its own and meets no fault. -/
def lookOk (f : Fields) (k : Look) (s : State) : Bool :=
  s.slotReady s.cur.reg s.cur.elem s.cur.slot f k && (laneFault s s.here f).isNone

theorem lookReady {f : Fields} {k : Look} {s : State} (h : lookOk f k s = true) : s.Ready f k ∧ laneFault s s.here f = none := by
  simp only [lookOk, Bool.and_eq_true, Option.isNone_iff_eq_none] at h
  exact h

theorem witness_ScaledCodesGoToOneLane : (regOf qsF.dst = some 3 ∧ (on 0 qsX).Ready qsF (Look.lane qsF) ∧ laneFault (on 0 qsX) (on 0 qsX).here qsF = none)
    ∧ (cvF.var = 4 ∧ regOf cvF.dst = some 3 ∧ (on 0 qsX).Ready cvF (noticeLook cvF) ∧ laneFault (on 0 qsX) (on 0 qsX).here cvF = none)
    ∧ ((on 0 qsX).Ready cvB (noticeLook cvB) ∧ laneFault (on 0 qsX) (on 0 qsX).here cvB = none)
    ∧ cvB.var = 2 ∧ cvB.efmt = 1 ∧ owesCredit qsX cvB = false ∧ ovfEn cvB = true ∧ outOf cvB.dst ≠ some (noticeOut cvB) :=
  ⟨⟨by decide, lookReady (by decide)⟩, ⟨by decide, by decide, lookReady (by decide)⟩, lookReady (by decide), by decide⟩
/-- R115: an FP32 value above the largest BF16 value saturates and is noticed with its bit. -/
theorem test_cvtov_notice : (hereAfter (.cvtov cvB) (on 0 (x0 [(1, Oct.all 0x7F7FFFFF), (5, Oct.all 0x3F800000)]))).map
    (fun y => ((y.outQ 0).map (·.lanes.l0), y.outQ 1, y.seqOut 1)) = some ([0x3F807F7F], [⟨0, 0xFF, 0, kOvf, 0, Oct.all 1⟩], 1) := by decide
/-- R114: the whole example. -/
theorem test_qscale_example : (hereAfter (.qscale qsF) (on 0 qsX)).map (fun y => ((y.reg 3).l0, (y.reg 3).l1)) = some (0x568021C7, 0) := by decide
theorem test_gscale_example : regAfter (.gscale { fp with efmt := 1 }) (on 0 qsX) 0 = some (Oct.all 0x6B) := by decide

/- Matrix mode: the factor-matrix reconstruction of 10_contraction.md. -/

/-- Whether the lead's slot is ready for a firing that the array performs. -/
def leadOk (f : Fields) (s : State) : Bool :=
  s.slotReady s.cur.reg s.cur.elem s.cur.slot f (Look.lane f) && (poisonAt s.here (srcChans f ++ chansIn f.deq)).isNone

theorem leadReady {f : Fields} {s : State} (h : leadOk f s = true) : LeadReady f s := by
  simp only [leadOk, Bool.and_eq_true, Option.isNone_iff_eq_none] at h
  exact ⟨h.1, h.2⟩

/-- The example's lead, with the constants of its descriptor. -/
def leadX : Elem := { x0 [(1, up8)] with conf := [(160, 1), (161, 0xFF), (224, 2), (225, 2), (226, 2), (227, 3), (228, 0x0711), (229, 0x24),
  (230, 0x7A3C), (231, 0xF8)] }
/-- A region in matrix mode. -/
def mReg : Region := { Region.reset with mode := 1 }
/-- The lead in matrix mode. -/
def lead : State := onIn mReg 0 leadX
/-- The example's TCON. -/
def tcF : Fields := { z with imm := 2, efmt := 2 }

theorem witness_MatrixModeInstructions : LeadReady z (on 0 leadX) ∧ (hereRegion (on 0 leadX)).mode = 0 ∧ LeadReady z lead ∧ ArrayIdle lead
    ∧ (hereRegion lead).arr.armed = [] ∧ z.imm.extractLsb' 0 2 ∉ (hereRegion lead).arr.armed :=
  ⟨leadReady (by decide), by decide, leadReady (by decide), ⟨by decide, by decide⟩, by decide, by decide⟩
theorem test_mmode : (after (.mmodeOn { z with var := 1 }) (on 0 leadX)).map (fun t => (hereRegion t).mode) = some 1
    ∧ (after (.mmodeOff z) lead).map (fun t => (hereRegion t).mode) = some 0 := by decide
theorem test_wrow_arms : (after (.wrow { z with imm := 2 }) lead).map (fun t => ((hereRegion t).arr.armed, (hereRegion t).arr.lq)) = some ([2], 0xB) := by
  decide

/-- A TCON whose output would not fit: BASE 15 and four passes of 128 words. -/
def bigX : Elem := { leadX with conf := [(160, 1), (161, 0xFF), (224, 2), (225, 2), (226, 100), (227, 3), (228, 0xF711), (229, 0x24),
  (230, 0x7A3C), (231, 0xF8)] }
theorem witness_TilesIndicesAndContractions :
    LeadReady tcF lead ∧ ArrayIdle lead ∧ (hereRegion lead).arr.lq = 0xF ∧ LeadReady tcF (on 0 leadX) ∧ (hereRegion (on 0 leadX)).mode = 0
    ∧ LeadReady { z with dst := 56, sa := 24 } lead
    ∧ (let d : Desc := ⟨leadWords lead, 2⟩; d.bad 0xBB 2 = false ∧ d.base * 256 + d.size 4 * d.m * d.size 2 ≤ 4096)
    ∧ (⟨leadWords (onIn mReg 0 (x0 [])), 2⟩ : Desc).bad 0xBB 2 = true
    ∧ (let d : Desc := ⟨leadWords (onIn mReg 0 bigX), 2⟩; d.bad 0xBB 2 = false ∧ d.base * 256 + d.size 4 * d.m * d.size 2 > 4096) :=
  ⟨leadReady (by decide), ⟨by decide, by decide⟩, by decide, leadReady (by decide), by decide, leadReady (by decide), by decide, by decide, by decide⟩
theorem test_idxset : (hereAfter (.idxset { z with dst := 58, imm := 0x44D9, var := 1 }) (on 0 leadX)).map (fun y => y.const 26) = some 0x002444D9
    ∧ (hereAfter (.idxset { z with dst := 58, sa := 1, pm := 0 }) (on 0 leadX)).map (fun y => y.const 26) = some 1 := by decide
/-- An element with an accumulator. -/
def accX : Elem := { Elem.fresh [] with regs := [(24, up8)] }
theorem test_accz_tile_0 : (after (.accz z) (onIn { mReg with elems := [(16, accX), (32, accX)] } 0 leadX)).map
    (fun t => ((t.elem 0 16).reg 24, (t.elem 0 32).reg 24)) = some (Oct.all 0, up8) := by decide
theorem test_tcon_begins : (after (.tconK16n128 tcF) lead).map (fun t => ((hereRegion t).arr.op, (hereRegion t).arr.desc.take 4))
    = some (2, [0x00020002, 0x00030002, 0x00240711, 0x00F87A3C]) := by decide

/-- The running contraction of the example: B in storage, A₀ and C₀ at the feeds. -/
def conReg : Region := { mReg with
  arr := { MArray.idle with
    op := 2, opc := 0xBB, efmt := 2, imm := 2, desc := leadWords lead, store := [(0, ⟨0xBF804000, 0x3F803F80, 0xC0000000, 0, 0, 0, 0, 0⟩)] } }
def conX : Elem := { leadX with inq := [(0, [{ tok ⟨0x40003F80, 0x0000BF80, 0, 0, 0, 0, 0, 0⟩ with fmt := 2 }]),
  (1, [{ tok ⟨0x3F803F80, 0x00004000, 0, 0, 0, 0, 0, 0⟩ with fmt := 2 }])] }
def con : State := onIn conReg 0 conX
/-- A region with words of a step that are due, and the drain of tile 0. -/
def dueReg : Region := { mReg with arr := { MArray.idle with op := 3, imm := 0, pend := [⟨0, 5, [7, 9], 0⟩] } }
/-- A load of one token into quarter 1. -/
def loadReg : Region := { mReg with arr := { MArray.idle with op := 1, efmt := 2, imm := 1 } }

theorem witness_ArrayEvents :
    ((con.region 0).arr.op = 2 ∧ con.arrayRuns 0 = true ∧ (con.region 0).arr.dur ≤ con.cyc ∧ (con.region 0).arr.prog < (con.region 0).arr.steps
      ∧ (con.region 0).arr.half = none ∧ (con.region 0).holdsSteps con.cyc = false ∧ (shapeOf (con.region 0).arr.opc.toNat).2.2.1 = 1
      ∧ (∃ t, (⟨0, 0, false⟩ : Feed).head (con.region 0) = some t ∧ feedFault 2 ⟨0, 0, false⟩ t = none)
      ∧ ∃ t, (⟨0, 1, false⟩ : Feed).head (con.region 0) = some t ∧ feedFault 2 ⟨0, 1, false⟩ t = none)
    ∧ (let s := onIn dueReg 0 leadX
       (s.region 0).arr.pend = [⟨0, 5, [7, 9], 0⟩] ∧ (s.region 0).arr.op = 3 ∧ s.arrayRuns 0 = true ∧ (s.region 0).arr.dur ≤ s.cyc
         ∧ ((s.region 0).elem 112).room 3 = true ∧ ((s.region 0).elem 112).mayPush 3 kData = true)
    ∧ (let s := onIn loadReg 0 conX
       (s.region 0).arr.op = 1 ∧ s.arrayRuns 0 = true ∧ (s.region 0).arr.dur ≤ s.cyc ∧ ((s.region 0).arr.efmt == 4) = false
         ∧ ∃ t, (⟨0, 0, false⟩ : Feed).head (s.region 0) = some t ∧ feedFault 2 ⟨0, 0, false⟩ t = none) := by
  refine ⟨⟨by decide, by decide, by decide, by decide, by decide, by decide, by decide, ⟨_, rfl, by decide⟩, _, rfl, by decide⟩,
    by decide, by decide, by decide, by decide, by decide, _, rfl, by decide⟩
/-- A region every element of which has tokens of format `efmt` on I0 and I1 and of RN8 on I2 and I3. -/
def fedReg (a : MArray) : Region := { mReg with arr := a, elems := (List.range 128).map fun e =>
  (e, { x0 [] with inq := (List.range 4).map fun k => (k, [{ tok up8 with fmt := if 2 ≤ k then 3 else a.efmt }]) }) }
/-- A device with it. -/
def fed (a : MArray) : State := { State.reset with regions := [(0, { fedReg a with rstate := 2 })], cur := ⟨0, 0, 0, false⟩ }
/-- Whether every feed has a token that does not fault. -/
def feedsOk (g : Region) (efmt : BitVec 3) (qs : List Feed) : Bool := qs.all fun q => ((q.head g).map fun t => (feedFault efmt q t).isNone).getD false
theorem feeds {g : Region} {efmt : BitVec 3} {qs : List Feed} (h : feedsOk g efmt qs = true) : ∀ q ∈ qs, ∃ t, q.head g = some t ∧ feedFault efmt q t = none := by
  intro q hq
  have := List.all_eq_true.mp h q hq
  cases ht : q.head g with
  | none => simp [ht] at this
  | some t => exact ⟨t, rfl, by simpa [ht] using this⟩
/-- A contraction of shape K8N128 in format `efmt`, a step of which stands so. -/
def wide (efmt : BitVec 3) (h : Option (List Token × List Token)) : MArray :=
  { MArray.idle with op := 2, opc := 0xBC, efmt := efmt, imm := 2, desc := leadWords lead, half := h }
/-- The later clauses: both halves of a wide step, in F4 too, a load of scales, and the DONE behind a column's last row. -/
theorem witness_ArrayHalves :
    (∀ efmt ∈ [(2 : BitVec 3), 4],
      let s := fed (wide efmt none)
      let a := (s.region 0).arr
      a.op = 2 ∧ s.arrayRuns 0 = true ∧ a.dur ≤ s.cyc ∧ a.prog < a.steps ∧ a.half = none ∧ (s.region 0).holdsSteps s.cyc = false
        ∧ (shapeOf a.opc.toNat).2.2.1 = 16 ∧ feedsOk (s.region 0) a.efmt (stepFeeds a.efmt ⟨a.desc, 2⟩ 0 8 16).all = true)
    ∧ (let x := List.replicate 8 (tok up8)
       let s := fed (wide 4 (some (x, x ++ List.replicate 16 (tok up8) ++ [])))
       (s.region 0).arr.half = some (x, x ++ List.replicate 16 (tok up8) ++ []) ∧ x.length = 8 ∧ (⟨(s.region 0).arr.desc, 2⟩ : Desc).tbank = false
         ∧ feedsOk (s.region 0) 4 (westFeeds 8 8 0 false ++ westFeeds 8 8 2 true) = true)
    ∧ (let s := fed { MArray.idle with op := 1, efmt := 4, imm := 1 }
       s.arrayRuns 0 = true ∧ feedsOk (s.region 0) 4 (westFeeds 0 1 0 false ++ westFeeds 0 1 2 true) = true)
    ∧ (let s := onIn { mReg with arr := { MArray.idle with op := 3, imm := 0, done := true, cnt := [(0, 2)] } } 0 leadX
       (s.region 0).arr.done = true ∧ SMap.get (fun _ => 0) (s.region 0).arr.cnt 0 = 2 * 1 ∧ ((s.region 0).elem 112).room 3 = true) := by
  decide +kernel
/-- The first step of the example: −2 and 5. -/
theorem test_contraction_step : (after (.tconStepTake 0) con).map (fun t => ((t.region 0).arr.pend.map (fun w => (w.due, w.first, w.vals)), (t.elem 0 0).inQ 0))
    = some ([(24, 0, [0xC0000000, 0x40A00000])], []) := by decide +kernel
theorem test_step_write : (after (.tconStepWrite 0) (onIn dueReg 0 leadX)).map (fun t => ((t.region 0).acc 4, (t.region 0).acc 5, (t.region 0).acc 6))
    = some (0, 7, 9) := by decide
theorem test_wload_token : (after (.wloadGroupTake 0) (onIn loadReg 0 conX)).map (fun t => ((t.region 0).arr.token 32, (t.region 0).arr.op))
    = some (⟨0x40003F80, 0x0000BF80, 0, 0, 0, 0, 0, 0⟩, 0) := by decide

/- Ports, homes, translation and the row store. -/

/-- Whether a port operation may fire. -/
def portOk (opc : Byte) (f g : Fields) (k : Look) (s : State) : Bool :=
  s.here.mayIssue opc && s.slotReady s.cur.reg s.cur.elem s.cur.slot f { k with outs := k.outs ++ cplOut s.here f } && (laneFault s s.here g).isNone

theorem portReady {opc : Byte} {f g : Fields} {k : Look} {s : State} (h : portOk opc f g k s = true) : PortReady opc f g k s := by
  simp only [portOk, Bool.and_eq_true, Option.isNone_iff_eq_none] at h
  exact ⟨h.1.1, h.1.2, h.2⟩

/-- A port element whose D1 holds the numbers of `v`, with the whole scratchpad in its window. -/
def portX (v : Oct Word) : Elem := { x0 [(1, v), (2, up8)] with conf := [(160, 1), (161, 0xFF), (175, 0x7FF)] }
/-- Fields of an access from D1 that answers on O0. -/
def ldF : Fields := { z with dst := 20, sa := 1, sb := 2, room := 1 }
/-- The same without a result channel. -/
def stF : Fields := { ldF with dst := 30, room := 0 }

theorem witness_PortFiringsIssueAccesses :
    PortReady 0xC0 ldF ldF (Look.lane ldF) (on 128 (portX (Oct.all 8))) ∧ (portX (Oct.all 8)).mayPush 0 kData = true
    ∧ slotAddrs true (portX (Oct.all 0xFFFC)) ldF 4 (srcLane (portX (Oct.all 0xFFFC)) ldF 1) (srcPair (portX (Oct.all 0xFFFC)) ldF 1) [0]
      = .ok [(0, 0xFFFC)]
    ∧ slotAddrs true (portX (Oct.all 2)) ldF 4 (srcLane (portX (Oct.all 2)) ldF 1) (srcPair (portX (Oct.all 2)) ldF 1) [0] = .error (0x20, 2)
    ∧ PortReady 0xC9 ldF ldF (Look.lane ldF) (on 144 (portX (Oct.all 8))) ∧ PortReady 0xCD ldF ldF (Look.lane ldF) (on 144 (portX (Oct.all 8)))
    ∧ outOf ldF.dst = some 0 ∧ PortReady 0xCE stF stF (Look.lane stF) (on 144 (portX (Oct.all 8)))
    ∧ PortReady 0xCF stF stF (Look.lane stF) (on 144 (portX (Oct.all 8))) :=
  ⟨portReady (by decide), by decide, rfl, rfl, portReady (by decide), portReady (by decide), by decide, portReady (by decide), portReady (by decide)⟩
/-- R220: offset plus displacement; R239: the first bad slot is named. -/
theorem test_ld_issues : (after (.ld { ldF with imm := 4 }) (on 128 (portX (Oct.all 8)))).map (fun t => (t.here.port.accs.map fun a => (a.slots.length, (a.slots.headD (9, 9)))))
    = some [(8, (0, 12))] := by decide
theorem test_ld_misaligned : (after (.ld ldF) (owned 128 (portX ⟨8, 6, 8, 8, 8, 8, 8, 8⟩))).bind
    (fun t => (t.load 0).bind fun l => l.frecs.head?.map fun g => (g.cls, g.det, g.addr)) = some (0x04, 0x20, 6) := by decide

theorem witness_StreamFiringsStartEngines : (portX (Oct.all 0)).port.eng = none
    ∧ PortReady 0xC5 ldF ldF (Look.lane ldF) (on 128 (portX (Oct.all 0)))
    ∧ PortReady 0xC6 { stF with sa := 16 } { stF with sa := 30 } (Look.lane { stF with sa := 30 }) (on 128 (portX (Oct.all 0)))
    ∧ PortReady 0xC7 { ldF with sa := 16 } { ldF with sa := 30 } (Look.lane { ldF with sa := 30 }) (on 128 (portX (Oct.all 0)))
    ∧ PortReady 0xC8 { stF with sa := 16, sb := 17 } { stF with sa := 30, sb := 30 } (Look.lane { stF with sa := 30, sb := 30 }) (on 128 (portX (Oct.all 0)))
    ∧ PortReady 0xCB { stF with sb := 17 } { stF with sb := 30 } (Look.lane { stF with sb := 30 }) (on 144 (portX (Oct.all 0)))
    ∧ PortReady 0xD0 ldF ldF { Look.lane ldF with outs := (Look.lane ldF).outs ++ (if ldF.imm.getLsbD 2 then [(ldF.imm.extractLsb' 0 2).toNat] else []) }
      (on 147 (portX ⟨0, 1, 0, 0, 0, 0, 0, 0⟩)) :=
  ⟨rfl, portReady (by decide), portReady (by decide), portReady (by decide), portReady (by decide), portReady (by decide), portReady (by decide)⟩
theorem test_agsrc_starts : (after (.agsrc ldF) (on 128 (portX (Oct.all 3)))).map (fun t => t.here.port.eng.map fun g => (g.kind, g.n, g.base)) = some (some (1, 3, 1)) := by
  decide

/-- An access with one slot. -/
def acc (opc : Byte) (f : Fields) (ph : AccPhase) (p : Nat × BitVec 64) (chan : Option (BitVec 2)) : Access :=
  ⟨0, 0, opc, f, 1, 0, [p], [], 0, up8, Oct.all 3, ph, Oct.all 0, 0, false, 0, chan, chan.isSome, none, [], 0, false⟩
/-- A port that holds an access. -/
def holds (e : Nat) (a : Access) : State := owned e { portX (Oct.all 0) with port := ⟨1, [a], none, 0⟩, resv := [(0, 1)] }
/-- With the word 0x11223344 in tile 0 at offset 16, and its full bit set. -/
def spadMem : Mem := { Mem.reset with
  bytes := [(spadAddr 0 0 16, 0x44), (spadAddr 0 0 17, 0x33), (spadAddr 0 0 18, 0x22), (spadAddr 0 0 19, 0x11)], full := [spadAddr 0 0 16 / 8] }

theorem witness_ScratchpadAccessesReadAndWrite :
    (let s := holds 128 (acc 0xC1 stF .home (7, 16) none)
     isSpad 128 = true ∧ (s.elem 0 128).tileWaits 0 = false ∧ (s.elem 0 128).acc 0 = some (acc 0xC1 stF .home (7, 16) none)
       ∧ storeLost s.mem (storeCells true (acc 0xC1 stF .home (7, 16) none) 7 (spadAddr 0 0 16)) = false)
    ∧ (let s := { holds 128 (acc 0xC0 ldF .home (7, 16) (some 0)) with mem := spadMem }
       Stands s 0 128 0 (acc 0xC0 ldF .home (7, 16) (some 0)) .home (7, 16) ∧ DueOn s 0 128 (acc 0xC0 ldF .home (7, 16) (some 0)) 0
       ∧ s.mem.isLost (spadAddr 0 0 16) 4 = false ∧ ({ s.mem with lost := [spadAddr 0 0 16] } : Mem).isLost (spadAddr 0 0 16) 4 = true)
    ∧ (let s := { holds 128 (acc 0xC2 ldF .parked (0, 16) (some 0)) with mem := spadMem }
       Stands s 0 128 0 (acc 0xC2 ldF .parked (0, 16) (some 0)) .parked (0, 16) ∧ DueOn s 0 128 (acc 0xC2 ldF .parked (0, 16) (some 0)) 0
       ∧ (s.elem 0 128).parkedCount ≤ 8 ∧ s.mem.isFull (spadAddr 0 0 16) 4 = true ∧ Mem.reset.isFull (spadAddr 0 0 16) 4 = false) := by
  and_intros <;> decide
theorem test_spad_store : (after (.accessComplete 0 128 0) (holds 128 (acc 0xC1 stF .home (7, 16) none))).map (fun t => t.mem.bytes)
    = some [(spadAddr 0 0 16, 8)] := by decide
theorem test_spad_load : (after (.accessComplete 0 128 0) { holds 128 (acc 0xC0 ldF .home (7, 16) (some 0)) with mem := spadMem }).map
    (fun t => ((t.elem 0 128).outQ 0).map fun k => (k.vmask, k.lanes)) = some [(0x80, ⟨0, 0, 0, 0, 0, 0, 0, 0x11223344⟩)] := by decide

/-- A row-store place. -/
def rowPlace (a : Nat) : Phys := ⟨0, a, 0, true⟩
/-- A global atomic addition of lane 2 at address 0x1000. -/
def atomA : Access := { acc 0xCA ldF .home (1, 0x1000) (some 0) with tr := [(1, rowPlace 0x1000)] }
/-- An LDROW at 0x1000. -/
def rowA : Access := { acc 0xCD ldF .home (0, 0x1000) (some 0) with tr := [(0, rowPlace 0x1000)] }
/-- A row update of one FP32 token. -/
def updA : Access := { acc 0xCB { stF with efmt := 1 } .home (0, 0x1000) none with toks := [{ tok (Oct.all 0x3F800000) with fmt := 1, vmask := 0x81 }] }
/-- Its entry in the order of its slot. -/
def upd : RowUpdate := ⟨0, 0, 144, 0, 0x1000⟩
/-- A state with that entry. -/
def updS : State := { holds 144 updA with mem := { Mem.reset with rowq := [upd], bytes := [(0x1002, 0x80), (0x1003, 0x3F)] } }

theorem witness_HomesPerformAtomicsAndRows :
    (let s := holds 144 atomA
     isGmem 144 = true ∧ Stands s 0 144 0 atomA .home (1, 0x1000) ∧ SMap.find atomA.tr 1 = some (rowPlace 0x1000) ∧ s.cut 0 (rowPlace 0x1000) = false
       ∧ s.mem.isLost 0x1000 4 = false)
    ∧ (let s := holds 144 rowA
       Stands s 0 144 0 rowA .home (0, 0x1000) ∧ SMap.find rowA.tr 0 = some (rowPlace 0x1000) ∧ DueOn s 0 144 rowA 0 ∧ rowLen rowA.f = 32
         ∧ s.mem.isLost 0x1000 32 = false)
    ∧ updS.mem.rowq.find? (fun w => w.n == 0) = some upd ∧ (updS.mem.rowq.any fun w => decide (w.n < 0) && w.addr / 256 == upd.addr / 256) = false
    ∧ (updS.elem upd.reg upd.elem).acc upd.id = some updA ∧ updA.f.efmt = 1 ∧ updS.mem.isLost upd.addr (32 * updA.toks.length) = false := by
  and_intros <;> decide
theorem test_atomic_add : (after (.homeAtomic 0 144 0) (holds 144 atomA)).map (fun t => t.mem.bytes) = some [(0x1000, 3)] := by decide
/-- R234: 1.0 is added in the valid lanes alone. -/
theorem test_row_update : (after (.rowUpdateApply 0) updS).map (fun t => t.mem.bytes) = some [(0x1003, 0x40), (0x101E, 0x80), (0x101F, 0x3F)] := by
  decide +kernel

/-- The tables of R318's example, with a leaf `leaf` at the third level. -/
def tables (leaf : List Host.Cell) : Mem := { Mem.reset with
  bytes := [(0x20008, 0x01), (0x2000A, 0x04), (0x40010, 0x01), (0x40012, 0x06)] ++ leaf }
/-- Its leaf, 0x0000_0002_0060_004F. -/
def leaf2M : List Host.Cell := [(0x60018, 0x4F), (0x6001A, 0x60), (0x6001C, 0x02)]
/-- Its store. -/
def parkA : Access := acc 0xC1 stF .walk (0, 0x0000080040645678) none
/-- A port whose store waits for its walk in partition 0. -/
def walkS (m : Mem) : State := { holds 144 parkA with mem := m, mmu := { Mmu.reset with root := [(0, 0x20001)] } }
/-- A page of 64 KiB behind a fourth level. -/
def leaf64K : List Host.Cell := [(0x60018, 0x01), (0x6001A, 0x08), (0x80020, 0x4F), (0x80022, 0x01)]

theorem witness_TranslationWalksTheTables :
    (let m := tables leaf64K
     let va : BitVec 64 := 0x0000080040645678
     Reads m va 0x20000 1 0x40001 ∧ Points 1 0x40001 0x40000 ∧ Reads m va 0x40000 2 0x60001 ∧ Points 2 0x60001 0x60000
       ∧ Reads m va 0x60000 3 0x80001 ∧ Points 3 0x80001 0x80000 ∧ Reads m va 0x80000 4 0x1004F ∧ leafBad 4 0x1004F = false
       ∧ (0x1004F : BitVec 64).getLsbD 0 = true ∧ (0x1004F : BitVec 64).getLsbD 1 = true)
    ∧ (let m := tables leaf2M
       Reads m 0x0000080040645678 0x60000 3 0x20060004F ∧ leafBad 3 0x20060004F = false ∧ Reads (tables []) 0x0000080040645678 0x60000 3 0
         ∧ (0x20060004F : BitVec 64).getLsbD 11 = false ∧ leafKind 0x20060004F ≠ 4 ∧ (0x20060004F : BitVec 64).getLsbD 3 = true)
    ∧ Stands (walkS (tables leaf2M)) 0 144 0 parkA .walk (0, 0x0000080040645678) ∧ parkA.tr = [] ∧ (walkS (tables leaf2M)).mmu.replay = []
    ∧ (∃ q s1, (walkS (tables leaf2M)).translate 0 0 0x0000080040645678 (needOf 0xC1) = (.ok q, s1))
    ∧ (∃ s1, (walkS (tables [])).translate 0 0 0x0000080040645678 (needOf 0xC1) = (.error (0x04, 0x01), s1)) ∧ parks 0xC1 = true
    ∧ (walkS (tables [])).stopping 0 = false ∧ (walkS (tables [])).storeBefore 0 144 0 (0x0000080040645678 / 0x10000) = false := by
  refine ⟨?walk, ?leaf, ?stands, rfl, rfl, ⟨_, _, rfl⟩, ⟨_, rfl⟩, ?rest⟩ <;> and_intros <;> decide
/-- R318: the place of its example, and the D bit. -/
theorem test_walk_example : ((walkS (tables leaf2M)).translate 0 0 0x0000080040645678 .w).1.toOption.map (fun q => (q.kind, q.addr))
      = some (0, 0x200645678)
    ∧ ((walkS (tables leaf2M)).translate 0 0 0x0000080040645678 .w).2.mem.read 0x60018 = 0x6F := by decide

/-- A stream engine of a kind for an opcode, on channels I0 and I1 and output O0, of `n` tokens from offset 0x40. -/
def eng (kind : BitVec 3) (opc : Byte) (n : Word) : StreamEngine :=
  ⟨kind, 0, opc, { ldF with sb := 17 }, 0, 1, 0, 0, 0, n, 0x40, none, [], false, none, 0, 0⟩
/-- Port `e` with a stream engine and heads. -/
def engS (e : Nat) (g : StreamEngine) (heads : List (Nat × Token)) : State :=
  owned e { portX (Oct.all 0) with inq := heads.map fun p => (p.1, [p.2]), port := ⟨0, [], some g, 0⟩ }
/-- An address token with offsets 8 to 36 in the lanes. -/
def adr : Token := tok ⟨8, 12, 16, 20, 24, 28, 32, 36⟩

theorem witness_StreamEnginesAdvance :
    (let s := engS 128 (eng 1 0xC5 2) []
     (s.elem 0 128).port.eng = some (eng 1 0xC5 2) ∧ s.engineRuns 0 128 = true ∧ (s.elem 0 128).room 0 = true
       ∧ (s.elem 0 128).mayIssue 0xC5 = true ∧ s.cycleFree 0 128 = true ∧ (eng 1 0xC5 2).i.toNat < (eng 1 0xC5 2).n.toNat
       ∧ (s.elem 0 128).mayPush 0 kData = true ∧ (eng 1 0xC5 2).r.toNat < genRows (s.elem 0 128) ∧ genCheck true (s.elem 0 128) (eng 1 0xC5 2) = .ok 0x40
       ∧ genRows (s.elem 0 128) ≤ ({ eng 1 0xC5 2 with r := 1 } : StreamEngine).r.toNat ∧ genStops (s.elem 0 128) = false
       ∧ (s.elem 0 128).dueOn 0 = false)
    ∧ (let s := engS 128 (eng 2 0xC6 0) [(0, tok up8)]
       s.engineRuns 0 128 = true ∧ (s.elem 0 128).mayIssue 0xC6 = true ∧ (s.elem 0 128).head 0 = some (tok up8)
         ∧ genCheck true (s.elem 0 128) (eng 2 0xC6 0) = .ok 0x40 ∧ ((engS 128 (eng 2 0xC6 0) [(0, dn)]).elem 0 128).head 0 = some dn
         ∧ (s.elem 0 128).port.accs.any (fun a => a.opc == 0xC6) = false)
    ∧ (let s := engS 128 (eng 3 0xC7 0) [(0, adr)]
       s.engineRuns 0 128 = true ∧ s.cycleFree 0 128 = true ∧ (s.elem 0 128).mayIssue 0xC7 = true ∧ (s.elem 0 128).mayPush 0 kData = true ∧ (s.elem 0 128).room 0 = true ∧ (s.elem 0 128).head 0 = some adr
         ∧ (∃ ps, stepAddrs true (s.elem 0 128) (eng 3 0xC7 0) adr (adr.vmask &&& (s.elem 0 128).laneEn) = .ok ps))
    ∧ (let s := engS 128 (eng 4 0xC8 0) [(0, adr), (1, tok up8)]
       s.engineRuns 0 128 = true ∧ s.cycleFree 0 128 = true ∧ (s.elem 0 128).mayIssue 0xC8 = true ∧ (s.elem 0 128).head 1 = some (tok up8)
         ∧ (∃ ps, stepAddrs true (s.elem 0 128) (eng 4 0xC8 0) adr adr.vmask = .ok ps))
    ∧ (let s := engS 144 (eng 5 0xCB 2) [(0, tok up8)]
       s.engineRuns 0 144 = true ∧ (s.elem 0 144).mayIssue 0xCB = true ∧ (s.elem 0 144).head 0 = some (tok up8) ∧ (tok up8).fmt = (eng 5 0xCB 2).f.efmt
         ∧ (eng 5 0xCB 2).body.length + 1 < (eng 5 0xCB 2).n.toNat ∧ (eng 5 0xCB 1).n.toNat ≤ (eng 5 0xCB 1).body.length + 1)
    ∧ (let s := { engS 147 (eng 6 0xD0 1) [] with wsref := false }
       s.engineRuns 0 147 = true ∧ (eng 6 0xD0 1).i.toNat < (eng 6 0xD0 1).n.toNat ∧ (s.elem 0 147).room 0 = true ∧ (s.elem 0 147).mayPush 0 kData = true)
    ∧ (let g : StreamEngine := { eng 6 0xD0 2 with f := { ldF with imm := 4 } }
       let s := { engS 147 g [] with wsref := false }
       s.engineRuns 0 147 = true ∧ g.i.toNat + 1 < g.n.toNat ∧ g.i.getLsbD 0 = false ∧ g.f.imm.getLsbD 2 = true ∧ g.out.toNat ≠ g.ch2.toNat
         ∧ (s.elem 0 147).room 0 = true ∧ (s.elem 0 147).mayPush 0 kData = true ∧ (s.elem 0 147).room 1 = true
         ∧ (s.elem 0 147).mayPush 1 kData = true) := by
  refine ⟨?_, ?_, ?_, ?_, ?_, ?_, ?_⟩
  · and_intros <;> first | rfl | decide
  · and_intros <;> first | rfl | decide
  · exact ⟨by decide, by decide, by decide, by decide, by decide, by decide, _, rfl⟩
  · exact ⟨by decide, by decide, by decide, by decide, _, rfl⟩
  all_goals and_intros <;> decide
/-- R238: with `.x2` the two tokens of a cycle go to Oa and Ob. -/
theorem test_wsrd_x2 : (after (.wsrdPush 0 147) { engS 147 { eng 6 0xD0 2 with f := { ldF with imm := 4 }, base := 0 } [] with wsref := false }).map
    (fun t => (((t.elem 0 147).outQ 0).length, ((t.elem 0 147).outQ 1).length, (t.elem 0 147).port.eng.map (·.i))) = some (1, 1, some 2) := by decide
theorem test_generator_step : (after (.agsrcPush 0 128) (engS 128 (eng 1 0xC5 2) [])).map (fun t => ((t.elem 0 128).port.accs.map (·.slots), (t.elem 0 128).port.eng.map (·.i)))
    = some ([[(0, 0x40)]], some 1) := by decide
theorem test_sink_done : (after (.streamCmpl 0 128) (engS 128 { eng 2 0xC6 0 with ended := true } [])).map (fun t => ((t.elem 0 128).outQ 0).map fun k => (k.kind, k.lanes.l0, k.lanes.l2))
    = some [(kCmpl, 0x40, 0xC6)] := by decide

/-- The row unit's element with its address in D1. -/
def rowX : Elem := portX ⟨0x400, 0, 0, 0, 0, 0, 0, 0⟩
theorem witness_RowInstructionsEnterTheQueue :
    RowReady 0xE0 stF (on 146 rowX) ∧ (rowVa stF (on 146 rowX)).toNat % 1024 = 0 ∧ RowReady 0xE2 { stF with sb := 17 } (on 146 rowX)
    ∧ (rowVa stF (on 146 (portX up8))).toNat % 1024 ≠ 0
    ∧ 4 ≤ (hereRegion (onIn { Region.reset with row := { RowUnit.empty with queue := List.replicate 4 ⟨0xE0, stF, 0, 0, 0, none, [], 0, 0, none, false, false⟩ } } 146 rowX)).row.queue.length
    ∧ LaneReady { d12 with var := 4 } (on 146 rowX) ∧ (hereRegion (on 146 rowX)).row.queue.length < 4 :=
  ⟨⟨by decide, by decide, by show _ = true; decide, by decide⟩, by decide, ⟨by decide, by decide, by show _ = true; decide, by decide⟩, by decide, by decide,
    laneReady (by decide), by decide⟩
theorem test_rowact_enters : (after (.rowact stF) (on 146 rowX)).map (fun t => (hereRegion t).row.queue.map fun o => (o.opc, o.addr)) = some [(0xE0, 0x400)] := by
  decide

/-- A row operation of row 64 (address 0x10000) of bank 0 of column 0. -/
def rowOp (opc : Byte) (body : List Token) : RowOp := ⟨opc, { stF with sb := 17, var := 0 }, 0, 0x0000080040640000, 1, none, body, 0, 0x10000, none, false, false⟩
/-- An open row of it. -/
def hold : HoldEntry := ⟨true, true, false, false, 0, 0, 64, 0x0000080040640000, List.replicate 1024 0, [], 0⟩
/-- The region of a row unit in matrix mode with quarter 2 armed, in cycle 300. -/
def rowS (u : RowUnit) : State := { onIn { Region.reset with row := u, mode := 1, arr := { MArray.idle with armed := [2], lq := 0xB } } 146 rowX with
  cyc := 300, mem := tables leaf64K, mmu := { Mmu.reset with root := [(0, 0x20001)] } }
/-- The operation is at its bank. -/
def issuedS (opc : Byte) (body : List Token) (t : SMap HoldEntry) : State := rowS { RowUnit.empty with issued := [(rowOp opc body, 300)], table := t }

theorem actsNow {s : State} {r due : Nat} {o : RowOp} {rest : List (RowOp × Nat)} (h1 : (s.region r).row.issued = (o, due) :: rest)
    (h2 : due ≤ s.cyc) (h3 : (s.region r).row.cmpl = []) (h4 : s.rowHold r o s.cyc [] = 0) (h5 : (s.region r).rstate ≠ 4)
    (h6 : (s.region r).rstate ≠ 5 ∧ (s.region r).rstate ≠ 6) : ActsNow s r o rest := ⟨due, h1, h2, h3, h4, h5, h6⟩

theorem witness_RowUnitActsAtItsBanks :
    (let s := rowS { RowUnit.empty with queue := [rowOp 0xE0 []] }
     s.rowRuns 0 = true ∧ (s.region 0).row.next = some (rowOp 0xE0 []) ∧ (s.region 0).row.issued = [] ∧ (rowOp 0xE0 []).fresh < s.cyc
       ∧ ∃ p s1, s.translate 0 (s.partOf 0) (rowOp 0xE0 []).addr (rowNeed (rowOp 0xE0 [])) = (.ok p, s1) ∧ p.kind = 0
         ∧ s1.rowHold 0 { rowOp 0xE0 [] with pa := p.addr } (s1.cyc + s1.bankDelay 0 (colOf p.addr)) [] = 0)
    ∧ (ActsNow (issuedS 0xE0 [] []) 0 (rowOp 0xE0 []) [] ∧ ((issuedS 0xE0 [] []).region 0).row.entryOf 0 0 = none
      ∧ ((issuedS 0xE0 [] []).region 0).row.slotFor 0 0 = some 0)
    ∧ (ActsNow (issuedS 0xE1 [] [(0, hold)]) 0 (rowOp 0xE1 []) [] ∧ ((issuedS 0xE1 [] [(0, hold)]).region 0).row.entryOf 0 0 = some (0, hold)
      ∧ hold.expired = false ∧ hold.row = rowOf (rowOp 0xE1 []).pa ∧ hold.lost = [] ∧ hold.data.length = 1024
      ∧ (∀ t, ((issuedS 0xE1 [] [(0, hold)]).mem.bank hold.col hold.bank).act = some t → (issuedS 0xE1 [] [(0, hold)]).cyc < t + 65536))
    ∧ ActsNow (issuedS 0xE2 (List.replicate 32 (tok up8)) [(0, hold)]) 0 (rowOp 0xE2 (List.replicate 32 (tok up8))) []
    ∧ ActsNow (issuedS 0xE3 [] [(0, hold)]) 0 (rowOp 0xE3 []) [] := by
  refine ⟨⟨by decide, rfl, by decide, by decide, _, _, rfl, by decide, by decide⟩, ⟨actsNow rfl (by decide) rfl (by decide) (by decide) (by decide), rfl, rfl⟩,
    ⟨actsNow rfl (by decide) rfl (by decide) (by decide) (by decide), rfl, rfl, by decide, rfl, List.length_replicate, fun t h => by cases h⟩,
    actsNow rfl (by decide) rfl (by decide) (by decide) (by decide), actsNow rfl (by decide) rfl (by decide) (by decide) (by decide)⟩
/-- The later clauses: an open row at its limit, a latch with a token, and a ROWWR that still takes its body. -/
theorem witness_RowUnitEvents :
    (let s : State := { rowS { RowUnit.empty with table := [(0, hold)] } with cyc := 65836, mem := { Mem.reset with banks := [(0, ⟨some 300, some 0⟩)] } }
     SMap.find (s.region 0).row.table 0 = some hold ∧ (s.mem.bank 0 0).act = some 300 ∧ 300 + 65536 ≤ s.cyc)
    ∧ (let s := rowS { RowUnit.empty with latch := [(1, ⟨[tok up8], 0, 300⟩)] }
       SMap.find (s.region 0).row.latch 1 = some ⟨[tok up8], 0, 300⟩ ∧ s.clocked 0 = true ∧ s.stuck 0 146 = false ∧ (s.elem 0 146).room 0 = true
         ∧ (s.elem 0 146).mayPush 0 kData = true)
    ∧ (let s := { onIn { Region.reset with row := { RowUnit.empty with queue := [rowOp 0xE2 []] } } 146 { rowX with inq := [(1, [tok up8])] } with cyc := 300 }
       s.clocked 0 = true ∧ s.stuck 0 146 = false ∧ (s.region 0).row.queue = [rowOp 0xE2 []] ∧ (rowOp 0xE2 []).fresh < s.cyc ∧ (s.elem 0 146).head (chanIx (rowOp 0xE2 []).f.sb) = some (tok up8)) := by
  refine ⟨⟨rfl, rfl, by decide⟩, ⟨rfl, by decide, by decide, by decide, by decide⟩, by decide, by decide, rfl, by decide, rfl⟩
/-- The ROWCON of the open row to a stream and to the weight store, whose port has no slot, and a ROWWR of a row opened for writing. -/
theorem witness_RowTargets :
    (∀ v ∈ [(1 : BitVec 3), 2],
      let o := { rowOp 0xE1 [] with f := { stF with var := v } }
      let s := rowS { RowUnit.empty with issued := [(o, 300)], table := [(0, hold)] }
      o.f.var = v ∧ s.rowHold 0 o s.cyc [] = 0 ∧ (s.region 0).row.issued = [(o, 300)] ∧ (s.region 0).row.cmpl = [] ∧ (s.region 0).rstate = 2
        ∧ (s.region 0).readsStore = false)
    ∧ hold.rw = true ∧ (List.replicate 32 (tok up8)).length = 32 := by decide +kernel
theorem test_rowcon_loads_quarter : (after (.rowBankAct 0) (issuedS 0xE1 [] [(0, { hold with data := 0xAB :: List.replicate 1023 0 })])).map
    (fun t => ((t.region 0).arr.armed, (t.region 0).arr.lq, (t.region 0).arr.byte 2048)) = some ([], 0xF, 0xAB) := by decide +kernel
theorem test_rowwr_writes : (after (.rowBankAct 0) (issuedS 0xE2 (List.replicate 32 { tok up8 with vmask := 1 }) [(0, hold)])).map
    (fun t => (t.mem.read 0x10000, t.mem.read 0x10004, t.mem.read 0x103E0)) = some (1, 0, 1) := by decide +kernel

/- The system instructions, the configuration stream and the fabric. -/

/-- A load whose task has no boundary. -/
def brkS (en : Bool) : State := { owned 0 (x0 [(1, up8)]) with queues := [(0, { Queue.reset with brken := en })] }
/-- A region in matrix mode whose stop is asked for. -/
def askS : State := { { onIn { mReg with owner := some 0 } 0 leadX with loads := [(0, { ld0 with stop := .asked })] } with cyc := 5 }.onRegion 0 fun g => { g with rstate := 3, req := some ⟨0, false, none⟩ }

theorem witness_BoundariesTrapsAndStops :
    OwnReady z (on 0 (x0 [])) ∧ LeadReady z (on 0 (x0 [])) ∧ outOf z.dst = none ∧ (on 0 (x0 [])).taskCurrent 0 = false
    ∧ (let s := owned 0 (portX up8)
       OwnReady { z with sa := 1 } s ∧ s.taskCurrent 0 = true ∧ OwnLoad s 0 ld0 ∧ (∀ b ∈ ld0.bounds, b.cycle ≠ s.cyc)
         ∧ (rowVa { z with sa := 1 } s).toNat % 64 ≠ 0 ∧ (rowVa { z with sa := 1 } (owned 0 (portX (Oct.all 0)))).toNat % 64 = 0)
    ∧ OwnReady { z with sa := 1, imm := 0x12 } (brkS true) ∧ OwnLoad (brkS true) 0 ld0 ∧ ((brkS true).queue ld0.queue).brken = true ∧ ld0.brk = none
    ∧ ((brkS false).queue ld0.queue).brken = false
    ∧ (LeadReady z askS ∧ (hereRegion askS).mode = 1 ∧ (hereRegion askS).arr.op = 0 ∧ (hereRegion askS).arr.pend = [] ∧ askS.stopAsked 0 = true
      ∧ (hereRegion askS).req = some ⟨0, false, none⟩ ∧ 0 < askS.cyc) :=
  ⟨ownReady (by decide), leadReady (by decide), by decide, by decide, ⟨ownReady (by decide), by decide, ⟨by decide, by decide⟩, by simp [ld0], by decide, by decide⟩,
    ownReady (by decide), ⟨by decide, by decide⟩, by decide, rfl, by decide, leadReady (by decide), by decide⟩
theorem test_tend_bounds : (after (.tend z) (owned 0 (x0 []))).bind (fun t => (t.load 0).map fun l => (l.bounds.map fun b => (b.kind, b.phase), l.phase, l.ended))
    = some ([(0xE9, 0)], 1, true) := by decide
theorem test_launch_queue : (after (.launch { z with sa := 1, imm := 3 }) (owned 0 (portX (Oct.all 64)))).bind (fun t => (t.load 0).map fun l => l.bounds.map fun b => (b.kind, b.q, b.arg))
    = some [(0xEB, 67, 0x4000000040)] := by decide
theorem test_trap_code : (after (.trap { z with imm := 0x12 }) (owned 0 (x0 []))).bind (fun t => (t.load 0).bind fun l => l.frecs.head?.map fun g => (g.cls, g.det, g.addrv))
    = some (0x09, 0x12, false) := by decide
theorem test_prept_live : (after (.prept { z with imm := 0xF }) askS).map (fun t => ((t.region 0).rstate, (t.region 0).req)) = some (3, some ⟨0, false, some 0xF⟩) := by decide
theorem test_halt : (hereAfter (.halt z) (on 0 (x0 []))).map (·.halted) = some true := by decide

/-- A privileged partition 0. -/
def privS (x : Elem) : State := { owned 144 x with sched := { Sched.reset with priv := 1, tpl := [(0, 0x00020000)] }, cyc := 5 }
/-- Registers with a register offset in D1 and the value of D2. -/
def regX (off : Word) : Elem := portX ⟨off, 0, 0, 0, 0, 0, 0, 0⟩
/-- A mapped row address in D1, and the first entry in D2. -/
def mapS : State := { privS { portX ⟨0x40640000, 0x00000800, 0, 0, 0, 0, 0, 0⟩ with regs := [(1, ⟨0x40640000, 0x00000800, 0, 0, 0, 0, 0, 0⟩)] } with
  mem := tables leaf64K, mmu := { Mmu.reset with root := [(0, 0x20001)] } }
/-- The hub operation at a register offset in D1 is ready. -/
theorem hubReady {opc : Byte} {f : Fields} {s : State} (h : portOk opc f f (Look.lane f) s = true)
    (hp : ((outOf f.dst).all fun c => s.here.mayPush c kData) = true) : HubReady opc f s :=
  ⟨portReady h, fun c hc => by simpa [hc] using hp⟩
/-- The register offset of the hub operation in hand. -/
def offOf (s : State) : Nat := (srcLane s.here ldF ldF.sa 0).toNat
theorem witness_CountersAndDeviceRegisters :
    ((0x01, true, 0) ∈ counters (two up8 up8) ∧ LaneReady { d12 with imm := 1 } (two up8 up8)
      ∧ (0x00, false, 0) ∈ counters (two up8 up8) ∧ LaneReady d12 (two up8 up8) ∧ d12.imm.extractLsb' 0 8 = 0
      ∧ (0x18, true, 0) ∈ counters (two up8 up8) ∧ LaneReady { d12 with imm := 0x18, var := 1 } (two up8 up8))
    ∧ (HubReady 0xEF ldF (privS (regX 0x60011)) ∧ offOf (privS (regX 0x60011)) % 8 ≠ 0)
    ∧ (HubReady 0xEF ldF (privS (regX 0x60FF8)) ∧ offOf (privS (regX 0x60FF8)) % 8 = 0 ∧ (privS (regX 0)).barValue (offOf (privS (regX 0x60FF8))) = none)
    ∧ (let s := owned 144 (regX 0x60010)
       HubReady 0xEF ldF s ∧ s.barValue (offOf s) ≠ none ∧ s.privileged (s.partOf 0) = false ∧ s.ownRegister (s.partOf 0) (offOf s) = false)
    ∧ (let s := privS (regX 0x60010)
       HubReady 0xEF ldF s ∧ outOf ldF.dst = some 0 ∧ s.here.dueOn 0 = false ∧ s.crossing 0 144 s.here.port.nextId true = false ∧ s.barValue (offOf s) = some 5
         ∧ hostOnly (offOf s) = false ∧ s.privileged (s.partOf 0) = true)
    ∧ (HubReady 0xF0 stF (privS (regX 0x10019)) ∧ offOf (privS (regX 0x10019)) % 8 ≠ 0)
    ∧ (HubReady 0xF0 stF (privS (regX 0x60FF8)) ∧ (privS (regX 0x60FF8)).barValue (offOf (privS (regX 0x60FF8))) = none)
    ∧ (HubReady 0xF0 stF (owned 144 (regX 0x10018)) ∧ (owned 144 (regX 0x10018)).barValue (offOf (owned 144 (regX 0x10018))) ≠ none
      ∧ (owned 144 (regX 0x10018)).privileged 0 = false)
    ∧ (let s := privS { regX 0x40000 with regs := [(1, ⟨0x40000, 0, 0, 0, 0, 0, 0, 0⟩), (2, Oct.all 0x50)] }
       HubReady 0xF0 stF s ∧ s.barValue (offOf s) ≠ none ∧ s.privileged (s.partOf 0) = true ∧ offOf s = 0x40000 ∧ bxslotBad (srcPair s.here stF stF.sb 0) = true)
    ∧ (let s := privS (regX 0x10018)
       HubReady 0xF0 stF s ∧ s.barValue (offOf s) ≠ none ∧ s.privileged (s.partOf 0) = true ∧ offOf s = 0x10018 ∧ hostOnly 0x10018 = false)
    ∧ (HubReady 0xF4 stF (privS (regX 0x84)) ∧ (rowVa stF (privS (regX 0x84))).toNat % 128 ≠ 0)
    ∧ (HubReady 0xF4 { stF with imm := 1 } (privS (regX 0x80)) ∧ (rowVa stF (privS (regX 0x80))).toNat % 128 = 0
      ∧ ((privS (regX 0x80)).tplRange 0).2 < (srcLane (regX 0x80) stF stF.sb 0).toNat + 2)
    ∧ (HubReady 0xF4 stF (privS (regX 0x80)) ∧ stF.imm.extractLsb' 0 6 = 0 ∧ (srcLane (regX 0x80) stF stF.sb 0).toNat < ((privS (regX 0x80)).tplRange 0).2
      ∧ (∃ bs s1, mapS.agentRead 0 0 0x0000080040640000 128 = (.ok bs, s1))
      ∧ HubReady 0xF4 stF mapS ∧ rowVa stF mapS = 0x0000080040640000) := by
  with_reducible and_intros
  all_goals first | decide | exact ⟨_, _, rfl⟩ | (refine laneReady ?_; decide) | (refine hubReady ?_ ?_ <;> decide)
theorem test_cntrd_clears : (hereAfter (.cntrd { d12 with var := 1 }) (on 0 { x0 [] with sflags := 0x31 })).map (fun y => ((y.reg 0).l3, y.sflags)) = some (0x31, 0) := by
  decide
theorem test_sysrd_cycles : (after (.sysrd ldF) (privS (regX 0x60010))).map (fun t => (t.here.outQ 0).map fun k => (k.vmask, k.lanes.l0)) = some [(3, 5)] := by decide
theorem test_syswr_unprivileged : (after (.syswr stF) (owned 144 (regX 0x10018))).bind (fun t => (t.load 0).bind fun l => l.frecs.head?.map fun g => (g.cls, g.det))
    = some (0x04, 0x05) := by decide

/-- A region whose page is open. -/
def pageS (c : CfgStream) : State := { State.reset with regions := [(0, { Region.reset with cfg := c })], cur := ⟨0, 0, 0, true⟩ }
/-- An open page with one pattern. -/
def openC : CfgStream := { CfgStream.none with isOpen := true, pats := [(0, [(0x80, 7)])] }
theorem witness_ConfigurationCommands :
    ((pageS { openC with dead := true }).cfg 0).dead = true ∧ CfgStream.none.dead = false
    ∧ ((pageS CfgStream.none).cfg 0).isOpen = false ∧ ((pageS CfgStream.none).region 0).running = false ∧ (0x0123 : Half).getLsbD 15 = false ∧ (0x0123 : Half) &&& 0x7000 = 0
    ∧ ((pageS openC).cfg 0).isOpen = true ∧ ((pageS openC).cfg 0).recd = none ∧ (3 : Half) &&& 0xFFF0 = 0 ∧ openC.crc = 0xFFFF ∧ openC.lo = none ∧ openC.hi = none
    ∧ fieldExists 147 169 = true ∧ (0x01CC : Half) &&& 3 = 0 ∧ SMap.find openC.pats 0 = some [(0x80, 7)]
    ∧ ((0x01CC : Half).extractLsb' 13 3).toNat + ((0x01CC : Half).extractLsb' 6 3).toNat ≤ 7
    ∧ ((0x01CC : Half).extractLsb' 9 4).toNat + ((0x01CC : Half).extractLsb' 2 4).toNat ≤ 15
    ∧ ((pageS { openC with recd := some 0 }).cfg 0).recd = some 0 ∧ fieldExists 0 0 = true ∧ openC.dead = false
    ∧ ((pageS openC).region 0).running = false
    ∧ (∃ g, winWrite ((pageS CfgStream.none).region 0) 0 0x30 0x12345678 = some g) := by
  and_intros <;> first | decide | exact ⟨_, rfl⟩
/-- R63: the pattern is stamped in rows 0 to 7 and columns 0 to 3. -/
theorem test_rect : (after (.rect 0 0x01CC) (pageS openC)).map (fun t =>
      (SMap.get confDefault (SMap.get (fun _ => []) (t.cfg 0).shadow 115) 0x80, SMap.get confDefault (SMap.get (fun _ => []) (t.cfg 0).shadow 4) 0x80)) = some (7, 0) := by
  decide +kernel
theorem test_pgbegin_pgend : (after (.pgbegin 0x8000) (pageS CfgStream.none)).map (fun t => ((t.cfg 0).isOpen, (t.cfg 0).keep)) = some (true, true)
    ∧ (after (.pgend 0) (pageS { openC with pats := [] })).map (fun t => ((t.cfg 0).isOpen, (t.cfg 0).done.isSome)) = some (false, true) := by decide +kernel

/-- An element whose O0 leads to I2 of element 5. -/
def outX : Elem := { x0 [] with conf := [(128, 0x8205), (160, 1)], outq := [(0, [tok up8])], rbuf := [(1, [⟨0, tok up8⟩])] }
/-- A load of two pages, in region 0 and in region `q`, with element 0 of the first as `x`. -/
def pagesS (q : Nat) (x : Elem) : State := { owned 0 x with
  loads := [(0, { ld0 with npage := 2, pages := [⟨some 0, 0, 0, true, none⟩, ⟨some q, 0, 0, true, none⟩] })] }.onRegion q fun g => { g with rstate := 2, owner := some 0 }
/-- O0 leads to I2 of element 5 on page 1. -/
def crossS (q : Nat) : State := pagesS q { outX with conf := [(128, 0xC205), (129, 1), (160, 1)] }
/-- O0 leads to I2 of element 5 and to I1 of element 6. -/
def forkX : Elem := { outX with conf := [(128, 0x8205), (130, 0x8106), (160, 1)] }
/-- A conversion node whose O0 holds the token of channel I1 of element 5. -/
def backS : State := { on 3 outX with regions := [(0, { Region.reset with rstate := 2, steers := [(5, 1)], elems := [
  (3, outX), (5, { x0 [] with conf := [(166, 0xC003)], away := [(1, [tok up8])] })] })] }
/-- An element that takes only fmt 1 on I1, and whose I1 is bound to the conversion node 3, I2. -/
def convX : Elem := { outX with conf := [(163, 0x0200), (166, 0xC003)] }
/-- A side port on I3 with a CTRL token, and REQ absorbed on I0 for O2. -/
def sideX : Elem := { x0 [] with
  conf := [(144, 0x6000), (162, 0x0700)], inq := [(0, [⟨0, 1, 0, kReq, 0, Oct.all 5⟩]), (3, [⟨0, 1, 0, kCtrl, 0, Oct.all 0xC⟩])] }
theorem witness_FabricMovesTokens :
    (let s := on 0 outX
     s.clocked 0 = true ∧ (outX.outQ 0).head? = some (tok up8) ∧ (s.region 0).converting 0 0 = none ∧ outX.route 0 = [⟨false, 0, 5, 2⟩] ∧ s.destOpen 0 0 0 [⟨false, 0, 5, 2⟩] ⟨false, 0, 5, 2⟩ = true
       ∧ s.linkOpen (s.linksOf 0 [⟨false, 0, 5, 2⟩]) (tok up8) = true
       ∧ SMap.get (fun _ => ([] : List Token)) outX.away 1 = [] ∧ outX.transit 1 = [⟨0, tok up8⟩] ∧ outX.accepts 1 (tok up8) = true ∧ outX.inRoom 1 = true
       ∧ ({ outX with conf := [(163, 0)] } : Elem).accepts 1 (tok up8) = false ∧ (outX.field 166).getLsbD 15 = false ∧ s.stuck 0 0 = false)
    ∧ (let s := on 0 sideX
       s.stuck 0 0 = false ∧ (sideX.field 162).getLsbD 10 = true ∧ sideX.head ((sideX.field 162).extractLsb' 8 2).toNat = some ⟨0, 1, 0, kCtrl, 0, Oct.all 0xC⟩
         ∧ ((0xC : Word) &&& 0xFFFFFFE0 = 0) ∧ ((0xC : Word) &&& 7).toNat < 5 ∧ (sideX.field 144).getLsbD 14 = true
         ∧ sideX.head 0 = some ⟨0, 1, 0, kReq, 0, Oct.all 5⟩)
    ∧ (let s := on 0 forkX
       (s.elem 0 0).route 0 = [⟨false, 0, 5, 2⟩, ⟨false, 0, 6, 1⟩] ∧ ((s.elem 0 0).outQ 0).head? = some (tok up8) ∧ (s.region 0).converting 0 0 = none
         ∧ (∀ d ∈ (s.elem 0 0).route 0, s.destOpen 0 0 0 ((s.elem 0 0).route 0) d = true) ∧ s.linkOpen (s.linksOf 0 ((s.elem 0 0).route 0)) (tok up8) = true)
    ∧ (∀ q ∈ [1, 192],
       let s := crossS q
       let d : Dest := ⟨true, 1, 5, 2⟩
       s.clocked 0 = true ∧ ((s.elem 0 0).outQ 0).head? = some (tok up8) ∧ (s.region 0).converting 0 0 = none ∧ (s.elem 0 0).route 0 = [d]
         ∧ s.destRegion 0 d = some q ∧ s.destOpen 0 0 0 [d] d = true ∧ s.linkOpen (s.linksOf 0 [d]) (tok up8) = true)
    ∧ edgePath 0 1 = [1] ∧ (backS.clocked 0 = true ∧ ((backS.elem 0 3).outQ 0).head? = some (tok up8) ∧ (backS.region 0).converting 3 0 = some (5, 1))
    ∧ convX.accepts 1 (tok up8) = false ∧ (convX.field (165 + 1)).getLsbD 15 = true ∧ (convX.field (165 + 1) &&& 0x7F).toNat = 3
    ∧ ((convX.field (165 + 1)).extractLsb' 13 2).toNat = 2 := by
  and_intros <;> decide
/-- R142: a token for the next region takes two cycles and one for the distance. -/
theorem test_region_crossing : (after (.tokenDepart 0 0 0) (crossS 1)).map (fun t => ((t.elem 0 0).outQ 0, (t.elem 1 5).transit 2)) = some ([], [⟨2, tok up8⟩]) := by
  decide
/-- R379, R381: a token for another stack crosses in a flit of its route's stream. -/
theorem test_bridge_crossing : (after (.tokenDepart 0 0 0) (crossS 192)).map (fun t => ((t.elem 192 5).transit 2, (t.edge 1).retryBuf.map fun f => f.toks.map fun k => (k.1, k.2.1)))
    = some ([], [[(192, 5)]]) := by decide
/-- R13: a refused token goes to the conversion node. -/
theorem test_conversion_steering : (after (.tokenArrival 0 0 1) (on 0 convX)).map (fun t => ((t.elem 0 0).transit 1, (t.elem 0 3).transit 2)) = some ([], [⟨1, tok up8⟩]) := by
  decide
theorem test_depart_arrive : (after (.tokenDepart 0 0 0) (on 0 outX)).map (fun t => ((t.elem 0 0).outQ 0, (t.elem 0 5).transit 2)) = some ([], [⟨0, tok up8⟩])
    ∧ (after (.tokenArrival 0 0 1) (on 0 outX)).map (fun t => ((t.elem 0 0).inQ 1, (t.elem 0 0).transit 1)) = some ([tok up8], []) := by decide
theorem test_side_and_req : (after (.sidePortCtrl 0 0) (on 0 sideX)).map (fun t => ((t.elem 0 0).field 162, (t.elem 0 0).inQ 3)) = some (0x070C, [])
    ∧ (after (.reqAbsorb 0 0 0) (on 0 sideX)).map (fun t => ((t.elem 0 0).credit 2, (t.elem 0 0).inQ 0)) = some (5, []) := by decide

/- Scheduling, pre-emption, graphs and commits. -/

/-- A load that waits for placement. -/
def waitL (q : Nat) : Load := { ld0 with queue := q, ph := .waiting, task := none, pages := [⟨none, 0, 0, false, none⟩], due := false, pkt := 0 }
/-- Loads that wait, with the given tickets of their queues. -/
def waitS (ts : List (Nat × Half)) (seed : Word) : State := { State.reset with
  loads := ts.map fun p => (p.1, waitL p.1), queues := ts.map fun p => (p.1, { Queue.reset with tick := p.2 }), sched := { Sched.reset with seed := seed } }
/-- A load that is stopped on region 0. -/
def stopS : State := { owned 0 (x0 []) with
  loads := [(0, { ld0 with stop := .stopped })], regions := [(0, { Region.reset with owner := some 0, rstate := 6 })] }

theorem witness_LotteryPlacementAndResume :
    State.reset.reachable = true ∧ (waitS [(0, 5), (3, 10)] 1).pwr.trip = false ∧ (waitS [(0, 5), (3, 10)] 1).drawers = [] ++ 0 :: [3]
    ∧ (waitS [(0, 5), (3, 10)] 1).drawDue = true
    ∧ (waitS [(0, 1)] 1).load 0 = some (waitL 0) ∧ (waitS [(0, 1)] 1).drawers = [(waitL 0).queue]
    ∧ (waitS [(0, 1)] 1).oldest 0 = some (0, waitL 0) ∧ (waitL 0).ph = .waiting ∧ Placeable 0 (waitL 0) (waitS [(0, 1)] 1)
    ∧ stopS.load 0 = some { ld0 with stop := .stopped } ∧ (∀ p ∈ ld0.pages, p.reg ≠ none) ∧ stopS.restoring { ld0 with stop := .stopped } = true
    ∧ stopS.rowsClosed { ld0 with stop := .stopped } = true
    ∧ (∀ v ∈ stopS.sched.saves, v.load ≠ 0) := by
  refine ⟨by decide, by decide, by decide +kernel, by decide +kernel, by decide, by decide +kernel, by decide +kernel, rfl,
    ⟨by decide, by decide, by decide +kernel, fun e => rfl, fun r => rfl, fun rs h => ?_⟩, by decide, by decide,
    by decide, by decide, by decide⟩
  rcases rs with _ | ⟨r, rs⟩ <;> rfl
/-- The tickets of R338's example. -/
def exTick (q : Nat) : Nat := if q = 0 then 5 else if q = 3 then 10 else 385
/-- R338: the example's two draws. -/
theorem test_lottery_example : lotteryNext 1 = 0x42021 ∧ lotteryNext 0x42021 = 0x04080601
    ∧ lotteryWinner exTick (0x42021 * 400 / 2 ^ 32) 0 [0, 3, 7] = some 0 ∧ lotteryWinner exTick (0x04080601 * 400 / 2 ^ 32) 0 [0, 3, 7] = some 3 := by decide
theorem test_seed_zero : (after (.schedSeedWrite 0) State.reset).map (·.sched.seed) = some 1 := by decide
theorem test_resume : (after (.loadResume 0) stopS).map (fun t => ((t.region 0).rstate, (t.load 0).map (·.stop))) = some (2, some .none) := by decide

/-- A load that runs on region 0, in a queue. -/
def runS (x : Queue) (l : Load) (g : Region) : State := { onIn { g with owner := some 0 } 0 (x0 []) with loads := [(0, l)], queues := [(0, x)] }
/-- A region that is to be scanned out, with a save area of one slot. -/
def scanS : State := { (runS Queue.reset { ld0 with stop := .stopped } Region.reset).onRegion 0 (fun g => { g with rstate := 5 }) with
  sched := { Sched.reset with save := [(0, 0x0001000000000000 ||| 1)] } }

/-- A region whose array ran at the request, 4096 cycles ago. -/
def lateS : State := { askS with cyc := 4096 }.onRegion 0 fun g => { g with req := some ⟨0, true, none⟩ }

theorem witness_PreemptionBudgetsAndQueueCommands :
    ((runS { Queue.reset with budx := true } ld0 Region.reset).load 0 = some ld0 ∧ RunsFreely ld0
      ∧ (runS { Queue.reset with budx := true } ld0 Region.reset).shielded ld0 = false
      ∧ (runS { Queue.reset with np := true, budx := true } { ld0 with actNs := 0 } Region.reset).shielded ld0 = true
      ∧ ({ runS { Queue.reset with np := true, budx := true } ld0 Region.reset with rt := 10 ^ 9 } : State).shielded ld0 = false
      ∧ (let s := { runS { Queue.reset with np := true, budx := true } ld0 Region.reset with rt := 10 ^ 9 }
         (s.queue 0).np = true ∧ (s.queue 0).budx = true ∧ ∀ p ∈ s.loadsOf 0, s.shielded p.2 = false))
    ∧ (askS.stopAsked 0 = true ∧ (askS.region 0).mayStop = true ∧ askS.preptMet 0 = false ∧ (lateS.region 0).req = some ⟨0, true, none⟩ ∧ (askS.region 0).mode = 1
      ∧ (lateS.region 0).mode = 1 ∧ lateS.stopAsked 0 = true ∧ (lateS.region 0).arr.half = none ∧ (lateS.region 0).arr.pend = []
      ∧ (0 : Nat) + 4096 ≤ lateS.cyc ∧ (lateS.region 0).mayStop = false)
    ∧ ((scanS.region 0).owner = some 0 ∧ (scanS.region 0).rstate = 5 ∧ scanS.quiet 0 = true ∧ scanS.pwr.trip = false ∧ (scanS.freeSlot 0).isSome = true)
    ∧ ((runS { Queue.reset with budget := 5, usedNs := 0 } ld0 Region.reset).budgetOf 0 = some 5)
    ∧ (let s := { State.reset with queues := [(5, { Queue.reset with swout := true, budx := true, shadow := some 7 })] }
       (s.queue 5).swout = true ∧ (s.queue 5).byCmd = false ∧ s.loadsOf 5 = [])
    ∧ State.reset.reachable = true ∧ (State.reset.queue 63).swout = false ∧ (State.reset.queue 63).shadow = none
    ∧ ((runS { Queue.reset with swout := true, byCmd := true } ld0 Region.reset).queue 0).swout = true := by
  refine ⟨⟨by decide, ⟨rfl, rfl, rfl, rfl, .inl rfl⟩, by decide, by decide, by decide, by decide⟩, by decide, by decide,
    by decide, by decide, by decide, by decide, by decide, by decide⟩
theorem test_region_stop : (after (.regionStop 0) askS).map (fun t => ((t.region 0).rstate, (t.region 0).req)) = some (4, none)
    ∧ (after (.preptFallback 0) { lateS with cyc := 4095 }).map (fun t => (t.region 0).rstate) = some 3 := by decide
theorem test_scan_out : (after (.scanOut 0) scanS).map (fun t => (t.sched.saves.map fun v => (v.load, v.page), (t.region 0).rstate)) = some ([(0, 0)], 0) := by decide
theorem test_qtail_room : (after (.qtailWrite 0 16) State.reset).map (fun t => (t.queue 0).tail) = some 16
    ∧ (after (.qtailWrite 0 17) State.reset).map (fun t => ((t.queue 0).tail, (t.queue 0).terr)) = some (0, true) := by decide

/-- A graph at the page of `leaf64K`, of one load. -/
def gAddr : BitVec 64 := 0x0000080040640000
/-- A packet of it. -/
def pkt0 : Packet := { Packet.new with gaddr := gAddr, nload := 1, st := 1 }
/-- The entry of its load: one page, and no successor. -/
def entry0 : List Host.Cell := [(0x10028, 1), (0x1002A, 0xFF), (0x1002B, 0xFF)]
/-- A queue that holds the packet, in a device whose tables map it. -/
def graphS (x : Queue) (l : SMap Load) (g : Region) : State := { onIn { g with owner := some 0 } 0 { x0 [] with conf := [(144, 0x8000)] } with
  loads := l, queues := [(0, x)], mmu := { Mmu.reset with root := [(0, 0x20001)] }
  mem := { Mem.reset with bytes := [(0x1008, 2)] ++ entry0 ++ (tables leaf64K).bytes } }
/-- Its queue. -/
def gQueue : Queue := { Queue.reset with base := 0x1000, tail := 1, pkts := [(0, pkt0)] }
/-- A load that has read its pages. -/
def loadedL : Load := { ld0 with ph := .loading, task := none }
/-- A load with pages on two stacks. -/
def twoL : Load := { loadedL with npage := 2, pages := [⟨some 0, 0, 0, true, none⟩, ⟨some 192, 0, 0, true, none⟩] }
/-- A device with it, whose page 0 routes to page 1 over a die edge that is down. -/
def downS : State := { graphS gQueue [(0, twoL)] { Region.reset with cfg := { CfgStream.none with done := some [(0, [(128, 0xC000), (129, 1)])] } } with
  links := { State.reset.links with edges := [(1, { Edge.reset with up := false, down := true })] } }
/-- A region whose page has committed. -/
def doneReg : Region := { Region.reset with cfg := { CfgStream.none with done := some [(0, [(160, 1)])] } }

theorem witness_GraphsBecomeTiles :
    (let s := graphS { gQueue with pkts := [] } [] Region.reset
     (s.queue 0).mayStart 0 = true ∧ s.mem.isLost ((s.queue 0).packetAddr 0) 64 = false ∧ packetBad (s.mem.readBytes ((s.queue 0).packetAddr 0) 64) = false)
    ∧ (let s := graphS gQueue [] Region.reset
       s.packet 0 0 = some pkt0 ∧ ∃ e s1, s.agentRead 0 (s.queue 0).part (entryAddr pkt0.gaddr 0) 32 = (.ok e, s1) ∧ entryBad e = false
         ∧ fieldAt e 14 2 = 0 ∧ fieldAt e 10 2 = 0xFFFF)
    ∧ (let s := graphS gQueue [(0, loadedL)] doneReg
       s.load 0 = some loadedL ∧ (∀ p ∈ loadedL.pages, p.done = true ∧ p.reg ≠ none) ∧ Unhindered loadedL s ∧ loadedL.regions.Nodup
         ∧ crossBad (loadedL.regions.map fun r => (s.region r).cfg.done.getD []) = none ∧ s.streamsFit 0 (s.loadEdges loadedL) = true
         ∧ crossBad (loadedL.regions.map fun r => ((graphS gQueue [] { Region.reset with cfg := { CfgStream.none with done := some [(0, [(128, 0xC000), (129, 3)])] } }).region r).cfg.done.getD [])
           = some 0)
    ∧ (downS.load 0 = some twoL ∧ twoL.ph = .loading ∧ (∀ p ∈ twoL.pages, p.done = true ∧ p.reg ≠ none) ∧ Unhindered twoL downS ∧ twoL.regions.Nodup
       ∧ crossBad (twoL.regions.map fun r => (downS.region r).cfg.done.getD []) = none ∧ downS.streamsFit 0 (downS.loadEdges twoL) = false)
    ∧ (let s := graphS gQueue [(0, { ld0 with ph := .preload, pre := [0] })] Region.reset
       s.load 0 = some { ld0 with ph := .preload, pre := [0] } ∧ ∃ bs s1, s.agentRead 0 0 gAddr 32 = (.ok bs, s1))
    ∧ (let s := graphS gQueue [(0, { ld0 with due := true })] Region.reset
       s.load 0 = some { ld0 with due := true } ∧ (∀ r ∈ ld0.regions, (s.region r).rstate = 2 ∧ ∀ p ∈ (s.region r).elems, ∀ k ∈ p.2.argChans, p.2.inRoom k = true))
    ∧ (let s := { graphS gQueue [(0, { ld0 with ph := .ended })] Region.reset with sched := { Sched.reset with nextLoad := 1 } }
       s.load 0 = some { ld0 with ph := .ended } ∧ ld0.bounds = [] ∧ s.settled false { ld0 with ph := .ended } = true ∧ 0 < s.sched.nextLoad) := by
  refine ⟨⟨by decide, by decide, by decide⟩, ⟨rfl, _, _, rfl, by decide, by decide, by decide⟩, ⟨rfl, by decide, ⟨rfl, rfl, rfl⟩, by decide, by decide, by decide, by decide⟩,
    ⟨rfl, rfl, by decide, ⟨rfl, rfl, rfl⟩, by decide, by decide, by decide⟩, ⟨rfl, _, _, rfl⟩, ⟨rfl, by decide⟩, rfl, rfl, by decide, by decide⟩
theorem test_packet_read : (after (.packetStart 0 0) (graphS { gQueue with pkts := [] } [] Region.reset)).bind (fun t => (t.packet 0 0).map fun p => p.tiles)
    = some 2 := by decide +kernel
theorem test_tile_start_token : (after (.tileStart 0) (graphS gQueue [(0, { ld0 with due := true, tile := 3 })] Region.reset)).map
    (fun t => (((t.elem 0 0).inQ 0).map fun k => (k.seq, k.vmask), (t.load 0).bind (·.task))) = some ([(3, 0xFF)], some ⟨1, 0⟩) := by decide +kernel
theorem test_load_complete_frees : (after (.loadComplete 0) { graphS gQueue [(0, { ld0 with ph := .ended })] Region.reset with sched := { Sched.reset with nextLoad := 1 } }).map
    (fun t => ((t.region 0).owner, (t.packet 0 0).map (·.st), t.loads.length)) = some (none, some 2, 0) := by decide +kernel

/-- A boundary of phase 0 of a kind. -/
def bnd (kind : Byte) (q : Nat) : Boundary := ⟨kind, 0, 0, 0, 0, 0, some 0, none, 0x0000080040640000, q, false⟩
/-- A load with a boundary and a byte in its version. -/
def bndL (kind : Byte) : Load := { ld0 with bounds := [bnd kind 64], phase := 1, vers := [(0, [(0x5000, 9)])] }
/-- A LAUNCH that waits for device queue 64. -/
def launch0 : Launch := ⟨0, 0, 0, 1, 0, 0, 0, 64, 0x0000080040640000, 0, 0, 0, some 0, none, true, none⟩
/-- A state with it. -/
def launchS : State := { graphS gQueue [(0, ld0)] Region.reset with sched := { Sched.reset with launches := [launch0] } }
/-- The same with the packet read. -/
def readyS : State := { launchS with sched := { Sched.reset with launches := [{ launch0 with data := some (leBytes 64 7) }] } }
/-- The same with a device queue of another partition. -/
def otherS : State := { launchS with queues := (64, { Queue.reset with part := 1 }) :: launchS.queues }
/-- A load that a restart loads again. -/
def redoL : Load := { ld0 with redo := true, stop := .stopped }
/-- A load stopped by a fault. -/
def stopL : Load := { ld0 with ph := .loading, frecs := [FaultRec.of 0x04 0x05] }

/-- A load that a fault stops goes on for at most 64 cycles. -/
theorem fires_end (l : Load) (c : Nat) (h1 : l.frecs ≠ []) (h2 : l.fcyc + 64 ≤ c) : l.fires c = false := by
  have : l.frecs.isEmpty = false := by simpa using h1
  have h3 : ¬ c ≤ l.fcyc + Config.choice l.fcyc % 64 := by omega
  simp [Load.fires, this, h3]

theorem witness_CommitsReleasesAndStops :
    (let s := graphS gQueue [(0, bndL 0xEB)] Region.reset
     s.load 0 = some (bndL 0xEB) ∧ Unhindered (bndL 0xEB) s ∧ (bndL 0xEB).bounds.head? = some (bnd 0xEB 64)
       ∧ (bndL 0xEB).bounds.filter (fun c => c.phase == (bnd 0xEB 64).phase) = [bnd 0xEB 64]
       ∧ ((s.bodies 0 (bndL 0xEB)).all fun g => g.globals.all fun a => !(a.storing && decide (a.phase ≤ (bnd 0xEB 64).phase))) = true
       ∧ (∀ n ∈ linesOf ((bndL 0xEB).version 0), n ∉ (bndL 0xEB).vbad)
       ∧ (bnd 0xE9 0).kind = 0xE9 ∧ (bnd 0xE8 0).kind ≠ 0xE9 ∧ (bnd 0xE8 0).kind ≠ 0xEB ∧ (s.region (bnd 0xE8 0).reg).owner = some 0 ∧ s.savedPage 0 (bnd 0xE8 0).reg = none)
    ∧ (let s := graphS { gQueue with pkts := [(0, { pkt0 with relp := some 1 })] } [] Region.reset
       s.packet 0 0 = some { pkt0 with relp := some 1 } ∧ (BitVec.ofNat 32 0 - (s.queue 0).prog).toNat < ((1 : Word) - (s.queue 0).prog).toNat)
    ∧ ((readyS.sched.launches.find? fun a => a.dest == 64 + 0) = some { launch0 with data := some (leBytes 64 7) } ∧ readyS.pwr.trip = false
      ∧ ((readyS.queue 64).shownTail - (readyS.queue 64).prog).toNat < 2 ^ (readyS.queue 64).log2n
      ∧ (readyS.region launch0.reg).owner = some launch0.load ∧ readyS.savedPage launch0.load launch0.reg = none)
    ∧ ((launchS.sched.launches.filter fun a => a.dest == 64 + 0) = [] ++ launch0 :: [] ∧ launch0.data = none ∧ launchS.pwr.trip = false
      ∧ (launchS.queue 64).part = (launchS.queue launch0.queue).part ∧ (∃ bs s1, launchS.agentRead 0 (launchS.queue 64).part launch0.addr 64 = (.ok bs, s1))
      ∧ (∃ b s1, ({ launchS with mmu := Mmu.reset } : State).agentRead 0 (launchS.queue 64).part launch0.addr 64 = (.error b, s1)))
    ∧ (otherS.queue 64).part ≠ (otherS.queue launch0.queue).part
    ∧ (let s := graphS { gQueue with pkts := [(0, { pkt0 with st := 2 })] } [] Region.reset
       s.packet 0 0 = some { pkt0 with st := 2 } ∧ pkt0.relp = none ∧ s.children [(0, 0)] = [] ∧ (∀ a ∈ s.sched.launches, a.queue = 0 → a.pkt ≠ 0) ∧ s.Canonical)
    ∧ (let s := graphS { gQueue with pol := 1 } [(0, stopL)] Region.reset
       s.load 0 = some stopL ∧ stopL.abn = false ∧ stopL.redo = false ∧ stopL.frecs ≠ [] ∧ stopL.ph = .loading ∧ (s.queue 0).pol = 1 ∧ (s.queue 0).rlim = 0)
    ∧ (let s := { graphS { gQueue with pkts := [(0, { pkt0 with load := some 0 })] } [(0, { stopL with ph := .running })] Region.reset with cyc := 64 }
       s.mayStop { stopL with ph := .running } = true ∧ (s.queue 0).pol = 0 ∧ s.packet 0 0 = some { pkt0 with load := some 0 })
    ∧ (let s := graphS gQueue [(0, { ld0 with ph := .faulted })] Region.reset
       s.reachable = true ∧ s.heldLoads 0 = [(0, { ld0 with ph := .faulted })] ∧ s.heldPackets 0 = [] ∧ (∀ p ∈ ld0.pages, p.reg ≠ none) ∧ s.packet 0 ld0.pkt = some pkt0 ∧ pkt0.fin = false
         ∧ ({ ld0 with stop := .stopped, brk := some (FaultRec.of 0x09 0xFF) } : Load).atBreak = true)
    ∧ (let s := graphS gQueue [(0, redoL)] Region.reset
       s.load 0 = some redoL ∧ redoL.abn = false ∧ s.settled true redoL = true ∧ ∀ p ∈ redoL.pages, p.reg ≠ none)
    ∧ ((graphS gQueue [(0, { ld0 with stop := .stopped, brk := some (FaultRec.of 0x09 0xFF) })] Region.reset).heldLoads 0).length = 1 := by
  refine ⟨⟨rfl, ⟨rfl, rfl, rfl⟩, rfl, by decide, by decide, by decide, rfl, by decide, by decide, rfl, rfl⟩, ⟨rfl, by decide⟩,
    ⟨by decide, rfl, by decide, rfl, rfl⟩, ⟨by decide, rfl, rfl, by decide, ⟨_, _, rfl⟩, ⟨_, _, rfl⟩⟩, by decide,
    ⟨rfl, rfl, by decide, by decide, by show _ = true; decide +kernel⟩,
    ⟨rfl, rfl, rfl, by decide, rfl, rfl, rfl⟩, ⟨?_, rfl, rfl⟩, ⟨by decide, rfl, by decide, by decide, rfl, rfl, by decide⟩,
    ⟨rfl, rfl, by decide, by decide⟩, by decide⟩
  have h := fires_end { stopL with ph := .running } 64 (by decide) (by decide)
  show (!_ && !_ && _) = true
  rw [h]
  decide
theorem test_commit_publishes : (after (.commitPublish 0) (graphS gQueue [(0, bndL 0xE8)] Region.reset)).map
    (fun t => (t.mem.read 0x5000, t.mem.csn, ((t.elem 0 0).outQ 0).map fun k => (k.vmask, k.lanes.l0))) = some (9, 2, [(3, 1)]) := by decide +kernel
theorem test_stop_holds : (after (.taskStop 0) (graphS { gQueue with pol := 1 } [(0, stopL)] Region.reset)).map
    (fun t => ((t.queue 0).held, (t.load 0).map (·.ph))) = some (true, some .faulted) := by decide +kernel
theorem test_finish_status : (after (.packetFinish 0 0) (graphS { gQueue with pkts := [(0, { pkt0 with st := 2 })] } [] Region.reset)).map
    (fun t => (t.mem.read 0x100E, (t.queue 0).prog)) = some (2, 1) := by decide +kernel

/- The block-transfer engines and weight-driven mode. -/

/-- The tables with three pages of 64 KiB: row-store memory at 0x10000, the scratchpad of region 0, and an executable page at 0x90000. -/
def leaves3 : List Host.Cell := leaf64K ++ [(0x80028, 0x4F), (0x80029, 0x01), (0x8002C, 0x40), (0x80030, 0x57), (0x80032, 0x09)]
/-- A template of one element of four bytes, with its CTL, destination and completion. -/
def tplT (ctl : Nat) (dst w11 w12 w14 : BitVec 64) : List (BitVec 64) :=
  [gAddr, dst, 0x0000000100000001, 0x0000000100000001, 0, 0, 0x0000000100000001, 0x0000000100000001, 0, 0, 0, w11, w12,
    BitVec.ofNat 64 (ctl * 2 ^ 32), w14, 0]
/-- The page of the scratchpad. -/
def sAddr : BitVec 64 := 0x0000080040650000
/-- A start of task 1 of load 0. -/
def start0 : Start := ⟨0, 0, 144, 0, 0, 1, 0, 0, 0, 0, 0⟩
/-- A template of two elements of two bytes. -/
def twoT : List (BitVec 64) := [gAddr, sAddr, 0x0000000100000002, 0x0000000100000001, 0, 0, 0x0000000100000002, 0x0000000100000001, 0, 0, 0, 0, 0,
  BitVec.ofNat 64 (1 * 2 ^ 32), 0, 0]
/-- A copy with a template, so many elements of which are done. -/
def cpy (t : List (BitVec 64)) (n : Nat) : Copy := { newCopy 0 t Channel.free start0 with pos := n }
/-- The bytes 1 to 4 in the row store, and barrier words of 8 and of 4 bytes in the scratchpad. -/
def engMem : Mem := { Mem.reset with bytes := [(0x10000, 1), (0x10001, 2), (0x10002, 3), (0x10003, 4)] ++ (tables leaves3).bytes
  ++ [(spadBase + 12, 8), (spadBase + 20, 4)] }
/-- A device whose channel 3 of region 0 stands so. -/
def chanS (c : Channel) : State := { owned 144 (x0 []) with
  mem := engMem
  mmu := { Mmu.reset with root := [(0, 0x20001)] }
  eng := { State.reset.eng with chans := [(3, c)] } }
/-- The same with a copy in progress. -/
def cpyS (c : Copy) : State := chanS { Channel.free with run := some c }
/-- The same with a start that waits and the template of entry 0. -/
def accS (t : List (BitVec 64)) : State := { chanS Channel.free with
  eng := { State.reset.eng with chans := [(3, { Channel.free with starts := [start0] })], tpl := (t.zipIdx).map fun w => (w.2, w.1) }
  sched := { Sched.reset with tpl := [(0, 0x00020000)] } }
/-- A copy to the fabric: CTL with E = 4, CPL 3 and DFAB, a group of one token under tag 5. -/
def fabT : List (BitVec 64) := tplT 0xB02 0 0 0 0x10005
/-- The bytes 0 to 31. -/
def fabB : List Byte := (List.range 32).map (BitVec.ofNat 8)

theorem witness_CopiesMoveElements :
    (let s := accS (tplT 2 sAddr 0 0 0)
     (s.chan 0 3).run = none ∧ (s.chan 0 3).starts = start0 :: [] ∧ s.pwr.trip = false ∧ start0.idx.toNat < (s.tplRange start0.part).2
       ∧ templateBad (s.template 0 ((s.tplRange start0.part).1 + start0.idx.toNat)) = false
       ∧ tplDfab (s.template 0 ((s.tplRange start0.part).1 + start0.idx.toNat)) = false)
    ∧ (let s := accS (tplT 7 sAddr 0 0 0)
       templateBad (s.template 0 ((s.tplRange start0.part).1 + start0.idx.toNat)) = true)
    ∧ ¬ Inside ((tplT 2 sAddr 0 0 0).set 6 0) 0
    ∧ (let c := cpy (tplT 2 sAddr 0 0 0) 0
       let s := cpyS c
       (s.chan 0 3).run = some c ∧ s.pwr.trip = false ∧ s.inFlight 0 = false ∧ c.pos < tplCount c.tpl ∧ c.asked = none ∧ c.held = [] ∧ c.hand = [] ∧ tplDfab c.tpl = false
         ∧ tplXform c.tpl = 0 ∧ tplRed c.tpl = 0 ∧ c.spill = [] ∧ Inside c.tpl c.pos ∧ (sourceOf c c.pos).toNat % 0x10000 + tplE c.tpl ≤ 0x10000
         ∧ (c.target c.pos).toNat % 8 + tplE c.tpl ≤ 8 ∧ c.pos + 1 = tplCount c.tpl
         ∧ (∃ p q s1 s2, s.translate 0 c.by_.part (sourceOf c c.pos) .r = (.ok p, s1) ∧ p.kind = 0 ∧ s.cut 0 p = false
           ∧ s.lostAt c p (tplE c.tpl) = none
           ∧ s1.translate 0 c.by_.part (c.target c.pos) .w = (.ok q, s2) ∧ q.kind = 1 ∧ s1.cut 0 q = false ∧ s1.pausedAt c q = false)
         ∧ s.Canonical)
    ∧ (let c := cpy twoT 0
       let s := cpyS c
       (s.chan 0 3).run = some c ∧ s.pwr.trip = false ∧ s.inFlight 0 = false ∧ c.pos < tplCount c.tpl ∧ c.asked = none ∧ c.held = [] ∧ c.hand = [] ∧ tplDfab c.tpl = false
         ∧ tplXform c.tpl = 0 ∧ tplRed c.tpl = 0 ∧ c.spill = [] ∧ Inside c.tpl c.pos ∧ (sourceOf c c.pos).toNat % 0x10000 + tplE c.tpl ≤ 0x10000
         ∧ (c.target c.pos).toNat % 8 + tplE c.tpl ≤ 8 ∧ tplE c.tpl < 8 ∧ c.pos + 1 < tplCount c.tpl
         ∧ (∃ p s1, s.translate 0 c.by_.part (sourceOf c c.pos) .r = (.ok p, s1) ∧ p.kind = 0 ∧ s.cut 0 p = false
           ∧ s.lostAt c p (tplE c.tpl) = none) ∧ s.Canonical)
    ∧ (let c := { cpy fabT 0 with fab := fabB }
       let s := cpyS c
       tplDfab c.tpl = true ∧ s.load c.by_.load = some ld0 ∧ c.held = [] ∧ (∃ pg, ld0.pages[((c.tpl.getD 1 0).extractLsb' 0 10).toNat]? = some pg ∧ pg.reg = some 0)
         ∧ s.clocked 0 = true ∧ (s.elem 0 144).room 0 = true ∧ (s.elem 0 144).mayPush 0 kData = true
         ∧ tplCpl c.tpl = 3 ∧ tplCpl ((tplT 0x802 0 0 0 0)) ≠ 3 ∧ tplDfab (tplT 0x802 0 0 0 0) = true ∧ (tplWord c.tpl 112).toNat / 2 ^ 16 = 1)
    ∧ (∃ c, (cpyS c).Canonical ∧ ((cpyS c).chan 0 3).run = some c ∧ (cpyS c).inFlight 0 = false ∧ c.pos = tplCount c.tpl ∧ c.held = [] ∧ c.spill = [] ∧ c.acks = 0 ∧ c.fab = [] ∧ c.grp = 0
       ∧ tplCpl c.tpl = 2 ∧ ∃ p s1, (cpyS c).translate 0 c.by_.part (c.tpl.getD 11 0) .w = (.ok p, s1) ∧ p.kind = 1 ∧ (cpyS c).cut 0 p = false ∧ (cpyS c).pausedAt c p = false
         ∧ s1.mem.isLost (c.moved p).addr 8 = false
         ∧ barrierWord (BitVec.ofNat 64 (s1.mem.readLe (c.moved p).addr 8)) (tplCount c.tpl * tplO c.tpl) = some (0x0000000800000004, false))
    ∧ (∃ c p s1, (cpyS c).translate 0 c.by_.part (c.tpl.getD 11 0) .w = (.ok p, s1) ∧ tplCpl c.tpl = 2
       ∧ barrierWord (BitVec.ofNat 64 (s1.mem.readLe (c.moved p).addr 8)) (tplCount c.tpl * tplO c.tpl) = some (0x0000000480000000, true))
    ∧ tplCpl (tplT 2 sAddr 0 0 0) = 0 ∧ tplCpl (tplT 0x102 sAddr sAddr 7 0) = 1 := by
  refine ⟨⟨rfl, rfl, rfl, by decide, by decide, by decide⟩, by decide, fun h => absurd (h 0 (by decide)) (by decide),
    ⟨rfl, rfl, by decide, by decide, rfl, rfl, rfl, by decide, by decide, by decide, rfl, by unfold Inside; decide, by decide, by decide, by decide,
      ⟨_, _, _, _, rfl, rfl, rfl, rfl, rfl, rfl, rfl, rfl⟩, by show _ = true; decide +kernel⟩,
    ⟨rfl, rfl, by decide, by decide, rfl, rfl, rfl, by decide, by decide, by decide, rfl, by unfold Inside; decide, by decide, by decide, by decide, by decide,
      ⟨_, _, rfl, rfl, rfl, rfl⟩, by show _ = true; decide +kernel⟩,
    ⟨by decide, rfl, rfl, ⟨_, rfl, rfl⟩, by decide, by decide, by decide, by decide, by decide, by decide, by decide⟩,
    ⟨cpy (tplT 0x202 sAddr (sAddr + 8) 0 0) 1, by show _ = true; decide +kernel, rfl, by decide, by decide, rfl, rfl, rfl, rfl, rfl, by decide, _, _, rfl, rfl, rfl, rfl, rfl, rfl⟩,
    ⟨cpy (tplT 0x202 sAddr (sAddr + 16) 0 0) 1, _, _, rfl, by decide, rfl⟩, by decide, by decide⟩
/-- R285: four bytes from the row store to the scratchpad, whose word is full then. -/
theorem test_copy_element : (after (.copyElement 0 3) (cpyS (cpy (tplT 2 (sAddr + 24) 0 0 0) 0))).map
    (fun t => (t.mem.readLe (spadBase + 24) 4, t.mem.full, (t.chan 0 3).run.map (·.pos))) = some (0x04030201, [(spadBase + 24) / 8], some 1) := by
  decide +kernel
theorem test_copy_barrier : (after (.copyCompletion 0 3) (cpyS (cpy (tplT 0x202 sAddr (sAddr + 16) 0 0) 1))).map
    (fun t => (t.mem.readLe (spadBase + 16) 8, t.mem.full, (t.chan 0 3).run.isNone)) = some (0x0000000480000000, [(spadBase + 16) / 8], true) := by
  decide +kernel
theorem test_copy_accept : (after (.copyAccept 0 3) (accS (tplT 2 sAddr 0 0 0))).map (fun t => ((t.chan 0 3).starts, (t.chan 0 3).run.map (·.pos)))
    = some ([], some 0) := by decide +kernel
theorem test_dfab_group : (after (.dfabPush 0 3) (cpyS { cpy fabT 1 with grp := 1 })).map
    (fun t => ((t.elem 0 144).outQ 0).map fun k => (k.kind, k.lanes)) = some [(kCmpl, ⟨5, 1, 0xCF, 0, 0, 0, 0, 0⟩)] := by decide +kernel

/-- The page of the chain. -/
def xAddr : BitVec 64 := 0x0000080040660000
/-- The line of a JUMP block, with the CRC of its header. -/
def jumpLine : List Host.Cell := [(0x90000, 0x10), (0x9000E, 0x9D), (0x9000F, 0x6F)]
/-- A region whose sequencer stands at the chain's first block. -/
def seqReg (q : Sequencer) : Region := { Region.reset with owner := some 0, mode := 2, seq := { q with active := true, addr := xAddr } }
/-- A state with it, its task's tables and the block of the chain. -/
def seqS (q : Sequencer) : State := { onIn (seqReg q) 17 (x0 []) with
  loads := [(0, ld0)]
  mmu := { Mmu.reset with root := [(0, 0x20001)] }
  mem := { Mem.reset with bytes := [(0x10000, 6)] ++ (tables leaves3).bytes ++ jumpLine } }
/-- One whose block is fetched, with a payload. -/
def ready (pay : List Byte) : Sequencer := { Sequencer.idle with phase := .ready, pay := pay, lines := 1 }
/-- Numbers as the bytes of words. -/
def words (ws : List Nat) : List Byte := (ws.map (leBytes 4)).flatten
/-- The payload of a CONTRACT of the factor-matrix example, with two words of its descriptor. -/
def conPay (w1 w2 : Nat) : List Byte := words [0x00020002, w1, w2, 0x00F87A3C, 0, 0, 0, 0, 0x000202BB, 0, 0, 0]
/-- The chain's address as a payload of 16 bytes. -/
def goal16 : List Byte := words [0x40660080, 0x00000800, 0, 0]
/-- The payload of a JUMPIF on the word at 0x10000 with the mask 4. -/
def ifPay : List Byte := words [0x40640000, 0x00000800, 4, 0, 0x40660080, 0x00000800, 0, 0]
/-- A WDENTER of the address in D1, whose exit code goes to O0. -/
def wdF : Fields := { z with dst := 20, sa := 1, sb := 30, room := 1 }
/-- A lead with an address in D1. -/
def wdX (a : Word) : Elem := { leadX with regs := [(1, ⟨a, 0, 0, 0, 0, 0, 0, 0⟩)] }

theorem witness_PralineBlocksRun :
    (OwnReady wdF (onIn mReg 0 (wdX 0x80)) ∧ OwnReady wdF (on 0 (wdX 0x80)) ∧ (hereRegion (onIn mReg 0 (wdX 0x80))).arr.op = 0
      ∧ (hereRegion (onIn mReg 0 (wdX 0x80))).arr.pend = [] ∧ (hereRegion (onIn mReg 0 (wdX 0x80))).arr.armed = []
      ∧ (∀ c, outOf wdF.dst = some c → (onIn mReg 0 (wdX 0x80)).here.mayPush c kData = true) ∧ (hereRegion (on 0 (wdX 0x80))).mode = 0
      ∧ (rowVa wdF (onIn mReg 0 (wdX 0x80))).toNat % 128 = 0 ∧ OwnReady wdF (onIn mReg 0 (wdX 0x40))
      ∧ (rowVa wdF (onIn mReg 0 (wdX 0x40))).toNat % 128 ≠ 0)
    ∧ (let s := seqS Sequencer.idle
       s.seqRuns 0 = true ∧ (hereSeq s).phase = .fetch ∧ s.inFlight 0 = false ∧ s.continues 0 = false ∧ ∃ bs s1,
         s.readLines 0 1 (hereSeq s).addr = ((bs :: []).map fun b => Line.ok b false, s1) ∧ blockLines (bs.getD 9 0).toNat = 1 ∧ continuesOk 1 bs = true
         ∧ bs.getD 0 0 ≠ 0xFE ∧ fieldAt bs 0 4 ≠ 0x31444C46
         ∧ blockCrc (blockOf (BitVec.ofNat 128 (fieldAt bs 0 16))).len.toNat bs = (blockOf (BitVec.ofNat 128 (fieldAt bs 0 16))).crc
         ∧ (∃ i, decodeBlock (BitVec.ofNat 128 (fieldAt bs 0 16)) = .ok i)
         ∧ blockBad 0x10 (blockOf (BitVec.ofNat 128 (fieldAt bs 0 16))) [] = false)
    ∧ (let s := { seqS Sequencer.idle with mem := { (seqS Sequencer.idle).mem with bytes := (tables leaves3).bytes } }
       ∃ bs s1, s.readLines 0 1 xAddr = ((bs :: []).map fun b => Line.ok b false, s1)
         ∧ blockCrc (blockOf (BitVec.ofNat 128 (fieldAt bs 0 16))).len.toNat bs ≠ (blockOf (BitVec.ofNat 128 (fieldAt bs 0 16))).crc)
    ∧ (let s := seqS { Sequencer.idle with phase := .run, hdr := some (.stream { zb with len := 2, route := 0x13 }), pay := fabB }
       s.seqRuns 0 = true ∧ (hereSeq s).phase = .run ∧ (hereSeq s).hdr = some (.stream { zb with len := 2, route := 0x13 })
         ∧ ((hereRegion s).elem 115).room 2 = true ∧ ((hereRegion s).elem 115).mayPush 2 kData = true ∧ (hereSeq s).prog < 1)
    ∧ (let s := seqS (ready (List.replicate 16 7))
       BlockReady s ∧ ((hereSeq s).successor zb).toNat % 128 = 0 ∧ (hereSeq s).pay.length = 16 * 1 ∧ blockBad 0x01 { zb with len := 1, fmt := 1 } (hereSeq s).pay = false ∧ (hereRegion s).arr.lq = 0xF
         ∧ (hereRegion s).elem 17 = x0 [] ∧ ((hereRegion s).elem 17).head 0 = none ∧ (hereSeq s).stack.length < 8 ∧ (hereSeq s).stack = [])
    ∧ (let s := (seqS (ready [])).setElem 0 17 { x0 [] with inq := [(0, [tok up8])] }
       BlockReady s ∧ ({ zb with route := 1 } : BlockHdr).route.getLsbD 0 = true ∧ ((hereRegion s).elem 17).head 0 = some (tok up8) ∧ (tok up8).kind = kData)
    ∧ (let s := (seqS (ready [])).setElem 0 17 { x0 [] with inq := [(0, [{ tok up8 with kind := kDone }])] }
       ((hereRegion s).elem 17).head 0 = some { tok up8 with kind := kDone })
    ∧ (∀ i ∈ [Instr.loads { zb with len := 5, fmt := 1 }, .setscale { zb with len := 5 }],
       let s := seqS { ready (List.replicate 80 7) with phase := .run, hdr := some i, prog := 4 }
       s.seqRuns 0 = true ∧ (hereSeq s).phase = .run ∧ ((hereSeq s).successor { zb with len := 5 }).toNat % 128 = 0 ∧ (hereSeq s).hdr = some i
         ∧ blockBad 0x01 { zb with len := 5, fmt := 1 } (hereSeq s).pay = false ∧ (hereSeq s).pay.length = 16 * 5)
    ∧ (seqS { Sequencer.idle with cont := true }).continues 0 = true
    ∧ (let d := fun (w1 w2 : Nat) => (⟨(List.range 8).map fun k => BitVec.ofNat 32 (fieldAt (conPay w1 w2) (4 * k) 4), 2⟩ : Desc)
       BlockReady (seqS (ready (conPay 0x00030002 0x00240711))) ∧ (d 0x00030002 0x00240711).fault 0xBB 2 = none ∧ (d 0x00030064 0x0024F711).fault 0xBB 2 = some 0x12)
    ∧ (let s := seqS (ready ifPay)
       BlockReady s ∧ ∃ p s1 s2 bs ev, s.translate 0 (s.partOf 0) (BitVec.ofNat 64 (fieldAt (hereSeq s).pay 0 8)) .r = (.ok p, s1)
         ∧ s1.cut 0 p = false ∧ s1.inFlight 0 = false ∧ (s1.fetchCross 0 p false (leBytes 8 p.addr)).performLoad 0 0 0 (s1.phaseOf 0) 0xC0 (fieldsOf 0) p 4 = .done s2 bs false ev ∧ leNat bs &&& fieldAt (s2.region 0).seq.pay 8 4 ≠ 0
         ∧ s2.cyc = s.cyc ∧ s2.cur = s.cur ∧ (BitVec.ofNat 64 (fieldAt (s2.region 0).seq.pay 16 8)).toNat % 128 = 0)
    ∧ (BlockReady (seqS (ready goal16)) ∧ (BitVec.ofNat 64 (fieldAt (hereSeq (seqS (ready goal16))).pay 0 8)).toNat % 128 = 0)
    ∧ (let s := seqS { ready [] with stack := List.replicate 8 xAddr, out := some 0 }
       BlockReady s ∧ 8 ≤ (hereSeq s).stack.length ∧ (hereSeq s).stack = xAddr :: List.replicate 7 xAddr ∧ xAddr.toNat % 128 = 0
         ∧ (hereSeq s).out = some 0) := by
  refine ⟨⟨ownReady (by decide), ownReady (by decide), rfl, rfl, rfl, by decide, by decide, by decide, ownReady (by decide), by decide⟩,
    ⟨by decide, rfl, by decide, by decide, _, _, rfl, rfl, by decide, by decide, by decide, by decide +kernel, ⟨_, rfl⟩, rfl⟩, ⟨_, _, rfl, by decide +kernel⟩,
    ⟨by decide, rfl, rfl, by decide, by decide, by decide⟩,
    ⟨⟨by decide, rfl, rfl, rfl⟩, by decide, rfl, by decide, rfl, rfl, rfl, by decide, rfl⟩, ⟨⟨by decide, rfl, rfl, rfl⟩, by decide, rfl, rfl⟩, rfl,
    by decide +kernel, by decide, ⟨⟨by decide, rfl, rfl, rfl⟩, by decide, by decide⟩,
    ⟨⟨by decide, rfl, rfl, rfl⟩, _, _, _, _, _, rfl, by decide, by decide, rfl, by decide, rfl, rfl, by decide⟩, ⟨⟨by decide, rfl, rfl, rfl⟩, by decide⟩,
    ⟨⟨by decide, rfl, rfl, rfl⟩, by decide, rfl, by decide, rfl⟩⟩
/-- R361: the block is fetched whole. -/
theorem test_fetch_jump : (after (.pralineFetch 0) (seqS Sequencer.idle)).map (fun t => ((t.region 0).seq.phase, (t.region 0).seq.hdr))
    = some (.ready, some (.jump { zb with crc := 0x6F9D })) := by decide +kernel
theorem test_wdenter : (after (.wdenter wdF) (onIn mReg 0 (wdX 0x80))).map (fun t => ((t.region 0).mode, (t.region 0).seq.addr, (t.region 0).seq.out))
    = some (2, 0x80, some 0) := by decide +kernel
theorem test_loads_place : (after (.loads { zb with len := 1, fmt := 1, route := 2 }) (seqS (ready (List.replicate 16 7)))).map
    (fun t => ((t.region 0).arr.byte 64, (t.region 0).arr.byte 80, (t.region 0).seq.addr)) = some (7, 0, xAddr + 128) := by decide +kernel
theorem test_setscale : (after (.setscale { zb with len := 1, route := 9 }) (seqS (ready (List.replicate 16 7)))).map
    (fun t => ((SMap.find (t.region 0).seq.table 9), SMap.find (t.region 0).seq.table 25)) = some (some 7, none) := by decide +kernel
theorem test_stream_done : (after (.streamBlockPush 0) (seqS { Sequencer.idle with
      phase := .run, hdr := some (.stream { zb with len := 2, route := 0x13 }), pay := fabB, prog := 1, lines := 1 })).map
    (fun t => (((t.elem 0 115).outQ 2).map (·.kind), (t.region 0).seq.phase)) = some ([kDone], .fetch) := by decide +kernel
theorem test_contract_begins : (after (.contract { zb with len := 3 }) (seqS (ready (conPay 0x00030002 0x00240711)))).map
    (fun t => ((t.region 0).arr.op, (t.region 0).arr.opc, (t.region 0).seq.phase)) = some (2, 0xBB, .run) := by decide +kernel
theorem test_drain_begins : (after (.drain { zb with route := 0x110 }) (seqS (ready []))).map
    (fun t => ((t.region 0).arr.op, (t.region 0).arr.imm, (t.region 0).arr.var0)) = some (3, 0x10, true) := by decide +kernel
theorem test_jumpif_taken : (after (.jumpif { zb with len := 2 }) (seqS (ready ifPay))).map (fun t => (t.region 0).seq.addr) = some (xAddr + 128) := by
  decide +kernel
theorem test_callt_pushes : (after (.callt { zb with len := 1 }) (seqS (ready goal16))).map (fun t => ((t.region 0).seq.addr, (t.region 0).seq.stack))
    = some (xAddr + 128, [xAddr + 128]) := by decide +kernel
theorem test_rett_pops : (after (.rett zb) (seqS { ready [] with stack := [xAddr + 256] })).map (fun t => ((t.region 0).seq.addr, (t.region 0).seq.stack))
    = some (xAddr + 256, []) := by decide +kernel
theorem test_end_code : (after (.endBlk { zb with len := 1 }) (seqS { ready (words [42, 0, 0, 0]) with out := some 0 })).map
    (fun t => ((t.region 0).mode, ((t.elem 0 0).outQ 0).map fun k => (k.vmask, k.lanes.l0))) = some (1, [(1, 42)]) := by decide +kernel

/- Links, the hub, power and temperature. -/

/-- A flit with a token for element 5 of region 192. -/
def flit (ok : Bool) : BridgeFlit := ⟨7, ok, 16, 0, 1, [(192, 5, 2, tok up8)], none, []⟩
/-- A flit of an access of region 0 that stack 3 is to answer, on its way over the edge to stack 1. -/
def farFlit : BridgeFlit := ⟨7, true, 0, 0, 3, [], some ⟨0, 0, 144, 0, false⟩, leBytes 8 64⟩
/-- An edge from stack 0 to stack 1 with that flit unacknowledged, in a device whose region 192 is owned. -/
def edgeS (x : Edge) : State := { State.reset with
  links := { State.reset.links with edges := [(1, x)] }, regions := [(192, { Region.reset with owner := some 0 })] }
/-- A row update whose request is with another device. -/
def awayA : Access := { updA with ph := .away }
/-- Its request. -/
def remote0 : Remote := ⟨5, 1, 0, some 1, 0, 144, 0, 1000, 0, 0, 0xCB⟩
/-- A device with it. -/
def remoteS (rt : Nat) : State := { holds 144 awayA with links := { State.reset.links with remote := [remote0] }, rt := rt }
/-- A device whose port has an ATOM there, four bytes of old data of which are due. -/
def atomS : State := { holds 144 { awayA with opc := 0xCA } with links := { State.reset.links with remote := [{ remote0 with want := 4, opc := 0xCA }] } }
/-- A request of device 1 on stream 4 for four bytes at 0x1000: a load, or a store of 9. -/
def askB (ukind : Nat) (opc : Word) : Inbound :=
  ⟨1, ukind, 4, 7, opc, [words [0x1000, 0, 4, 0x00FF0000, 0, 0, 0, 0], words [9, 0, 0, 0, 0, 0, 0, 0]]⟩
/-- A device that has assembled it. -/
def askedS (b : Inbound) : State := { State.reset with links := { State.reset.links with ready := [b] } }
/-- A link that is up, with a freed buffer of which its peer has not been told, and eight failures. -/
def linkX : GLink := { GLink.reset with enable := true, up := true, freed0 := 1, fails := 8 }
/-- A device with link 2 in that state. -/
def linkS (x : GLink) : State := { State.reset with links := { State.reset.links with gl := [(2, x)] } }

/-- A number of 32 bits in four bytes. -/
theorem leNat_word (c : Word) : leNat (leBytes 4 c.toNat) = c.toNat := by
  have := c.isLt
  simp [leBytes, leNat, List.range_succ]
  omega
/-- A data flit of zeros, sealed with its CRC, is taken. -/
theorem sealed_good : flitGood (sealFlit 1 0 0 []) = true := by
  have hb : (leBytes 2 1 ++ leBytes 2 0 ++ padTo 248 []).length = 252 := by decide +kernel
  have key : ∀ c, crc32 (leBytes 2 1 ++ leBytes 2 0 ++ padTo 248 []) = c →
      flitGood ((leBytes 2 1 ++ leBytes 2 0 ++ padTo 248 []) ++ leBytes 4 c.toNat) = true := by
    intro c hc
    have hl : ((leBytes 2 1 ++ leBytes 2 0 ++ padTo 248 []) ++ leBytes 4 c.toNat).length = 256 := by rw [List.length_append, hb]; rfl
    unfold flitGood
    rw [hl, List.take_left' hb, List.drop_left' hb, hc, leNat_word]
    simp only [BEq.rfl, Bool.true_and]
    rfl
  exact key _ rfl

theorem witness_LinksCarryTraffic :
    (let s := edgeS { Edge.reset with retryBuf := [flit true] }
     (s.edge 1).retryBuf = flit true :: [] ∧ (flit false).crcOk = false ∧ (flit false).fseq = (flit true).fseq ∧ flit true = { flit true with crcOk := true } ∧ (s.edge 1).hold = [] ∧ (flit true).toks = [(192, 5, 2, tok up8)] ∧ (s.edge 1).up = true ∧ (s.edge 1).fails < 8
       ∧ s.pwr.trip = false ∧ edgePath (edgeEnd 1) (flit true).dest = [] ∧ (s.region 192).owner ≠ none)
    ∧ (let s := edgeS { Edge.reset with retryBuf := [farFlit] }
       (s.edge 1).retryBuf = farFlit :: [] ∧ farFlit.toks = [] ∧ edgePath (edgeEnd 1) farFlit.dest = [5] ∧ (s.edge 5).hold = [] ∧ (s.edge 5).hasRoom 1 = true
         ∧ s.allowed 5 farFlit.stream farFlit.part 1 = true)
    ∧ (8 ≤ ((edgeS { Edge.reset with fails := 8 }).edge 1).fails ∧ ((edgeS { Edge.reset with fails := 8 }).edge 1).up = true
      ∧ 2 ≤ ((edgeS { Edge.reset with fails := 8, lost := 2 }).edge 1).lost ∧ edgePeer 1 = 4)
    ∧ State.reset.links.wait = [] ∧ (∀ e, (State.reset.edge e).hold = [])
    ∧ (let s := remoteS 0
       (s.links.remote.find? fun p => p.tag.toNat == 5) = some remote0 ∧ remote0.elem < 148 ∧ (s.region remote0.reg).owner = some remote0.load
         ∧ s.savedPage remote0.load remote0.reg = none ∧ s.mmu.replay = [] ∧ s.edgeDown (12 + remote0.reg / 192) = false ∧ remote0.opc = awayA.opc ∧ (s.elem remote0.reg remote0.elem).acc remote0.id = some awayA ∧ awayA.ph = .away ∧ awayA.opc = 0xCB ∧ awayA.chan = none
         ∧ s.unclaimed 0 144 awayA = false ∧ s.pwr.trip = false ∧ s.rt < remote0.due ∧ remote0.due ≤ (remoteS 1000).rt)
    ∧ ((atomS.links.remote.find? fun p => p.tag.toNat == 5) = some { remote0 with want := 4, opc := 0xCA } ∧ remote0.elem < 148
       ∧ (atomS.region remote0.reg).owner = some remote0.load)
    ∧ (let s := askedS (askB 1 0xC0)
       (s.links.ready.find? fun c => c.dev.toNat == (askB 1 0xC0).dev.toNat && c.stream.toNat == (askB 1 0xC0).stream.toNat) = some (askB 1 0xC0)
         ∧ s.pwr.trip = false ∧ (askB 1 0xC0).hdr.extractLsb' 0 8 = (0xC0 : Byte) ∧ bar2Kind 0x1000 = some 0
         ∧ leNat (((askB 1 0xC0).units.headD []).take 8) = 0x1000 ∧ s.mem.isLost 0x1000 4 = false
         ∧ (askB 2 0xC1).hdr.extractLsb' 0 8 = (0xC1 : Byte) ∧ (((askB 2 0xC1).units.headD []).drop 8).getD 6 0xFF = 0xFF
         ∧ storeLost s.mem (cellsAt 0x1000 [9, 0, 0, 0]) = false ∧ s.Canonical)
    ∧ (((linkS linkX).glink 2).up = true ∧ flitGood [] = false ∧ flitGood (sealFlit 1 0 0 []) = true ∧ leNat ((sealFlit 1 0 0 []).take 2) % 16 = 1
      ∧ ((linkS linkX).glink 2).freed0 ≠ ((linkS linkX).glink 2).told0 ∧ 8 ≤ ((linkS linkX).glink 2).fails)
    ∧ (((linkS { GLink.reset with enable := true }).glink 2).enable = true ∧ ((linkS { GLink.reset with enable := true }).glink 2).up = false
      ∧ ((linkS { GLink.reset with enable := true }).glink 2).down = false)
    ∧ bar2Kind 0x1004 = some 0 ∧ State.reset.loads = [] := by
  refine ⟨by decide, by decide, by decide, by decide, fun e => rfl, by decide, by decide, ⟨by decide, by decide, by decide, by decide, by decide, by decide, by decide, by decide, by decide, by show _ = true; decide⟩,
    ⟨by decide, by decide, sealed_good, by decide +kernel, by decide, by decide⟩, by decide, by decide, rfl⟩
theorem test_bridge_delivers : (after (.bridgeFlitReceive 1 (flit true)) (edgeS { Edge.reset with retryBuf := [flit true] })).map
    (fun t => ((t.elem 192 5).transit 2, (t.edge 1).rxSeq, (t.edge 1).retryBuf)) = some ([⟨0, tok up8⟩], 8, []) := by decide
theorem test_bridge_down : (after (.bridgeRetrain 1 false) (edgeS { Edge.reset with fails := 8, lost := 2 })).map (fun t => ((t.edge 1).up, (t.edge 1).down))
    = some (false, true) := by decide
theorem test_remote_store : (after (.remoteRequestPerform 1 4 7) (askedS (askB 2 0xC1))).map (fun t => (t.mem.bytes, t.mem.csn)) = some ([(0x1000, 9)], 2) := by
  decide +kernel
theorem test_remote_timeout : (after (.remoteTimeout 5) (remoteS 1000)).bind (fun t => (t.load 0).bind fun l => l.frecs.head?.map fun g => (g.cls, g.det))
    = some (0x0A, 0x02) := by decide
theorem test_link_training : (after (.linkTrained 2) (linkS { GLink.reset with enable := true })).map (fun t => (t.glink 2).up) = some true := by decide
theorem test_scrub_loses : (after (.eccInScrubbing 0x1004) State.reset).map (fun t => t.mem.lost) = some ((List.range 8).map (0x1000 + ·)) := by decide

/-- A device whose port of partition 0 has a store parked on page 0x12. -/
def parkedS : State := { holds 144 { acc 0xC1 stF .parked (0, 0x120000) none with tr := [] } with
  mmu := { Mmu.reset with replay := [⟨0, 0, 0, 144, 0, 0, 0, 0x12, false⟩] } }
/-- An MMU_SVC value for that page. -/
def svcV : BitVec 64 := 0x120000
/-- A device whose host window has region 3 selected, with a page that is done and a word to be read. -/
def hcwS : State := { State.reset with
  hub := { State.reset.hub with hcwSel := 3, hcwRd := [9] }
  regions := [(3, { Region.reset with cfg := { CfgStream.none with done := some [(0, [(160, 1)])] } })] }

theorem witness_HostRegistersAndWindows :
    State.reset.reachable = true ∧ (1 : BitVec 64).getLsbD 0 = true
    ∧ (let t : TlbEntry := ⟨0, 0, 0x20, 3, 0, 0⟩
       t.part = (0x00200001 : BitVec 64).extractLsb' 12 4 ∧ t.page < 2 ^ 48 ∧ 0x10000 * t.page / 2 ^ levelShift t.lvl = (0x00200001 : BitVec 64).toNat / 2 ^ levelShift t.lvl)
    ∧ (State.reset.parkedStores (svcV.extractLsb' 12 4) (svcV.toNat / 0x10000) = [] ∧ State.reset.spillers (svcV.extractLsb' 12 4) (svcV.toNat / 0x10000) = [])
    ∧ (parkedS.reachable = true ∧ parkedS.parkedStores (svcV.extractLsb' 12 4) (svcV.toNat / 0x10000) = [⟨0, 0, 0, 144, 0, 0, 0, 0x12, false⟩]
      ∧ parkedS.spillers (svcV.extractLsb' 12 4) (svcV.toNat / 0x10000) = [] ∧ parkedS.sched.saves = [] ∧ (parkedS.region 0).owner = some 0
      ∧ ∃ a p, (parkedS.elem 0 144).acc 0 = some a ∧ parkedS.unclaimed 0 144 a = false ∧ (a.slots.find? fun p => p.1 == 0) = some p)
    ∧ (135 ∈ ({ State.reset with hub := { State.reset.hub with pend := [135] } } : State).hub.pend)
    ∧ (0x2FFFFFFFF8 : Nat) % 8 = 0 ∧ 0x2FFFFFFFF8 < rowStoreEnd ∧ [1, 2, 3, 4, 5, 6, 7, (8 : Byte)].length = 8 ∧ State.reset.Canonical
    ∧ bar2Kind (spadBase / 8 * 8) ≠ none ∧ State.reset.mem.isLost (spadBase / 8 * 8) 8 = false ∧ ({ State.reset with mmu := { Mmu.reset with invGo := true } } : State).mmu.invGo = true
    ∧ (hcwS.hub.hcwq = [] ∧ hcwS.hub.hcwSel.toNat < 768 ∧ isWindowRead 0x00F30002 = true ∧ hcwS.hub.hcwRd.length < 64 ∧ hcwS.hub.hcwRd = 9 :: []
      ∧ (hcwS.region 3).owner = none ∧ (hcwS.region 3).rstate = 0 ∧ (hcwS.region 3).cfg.isOpen = false ∧ (hcwS.region 3).cfg.done = some [(0, [(160, 1)])] ∧ (hcwS.region 3).cfg.doneKeep = false)
    ∧ (({ hcwS with hub := { hcwS.hub with hcwSel := 192 } } : State).hub.hcwSel.toNat < 768 ∧ ((edgeS Edge.reset).region 192).owner ≠ none)
    ∧ State.reset.hub.tplSel.toNat / 2 ^ 22 % 2 = 0 ∧ ((linkS linkX).glink 2).up = true
    ∧ (let s := { State.reset with pwr := { State.reset.pwr with rdy := false } }
       s.reachable = false ∧ s.pwr.trip = false ∧ (0x4000 : Nat) < 0x60000)
    ∧ ((∀ q, q < 128 → State.reset.isEmptyQueue q = true) ∧ State.reset.pwr.fwErr = false ∧ State.reset.pwr.fwjob = none)
    ∧ ({ State.reset with queues := [(0, { Queue.reset with tail := 1 })] } : State).isEmptyQueue 0 = false := by
  with_reducible and_intros
  all_goals first | decide | rfl | (show _ = true; decide) | exact ⟨_, _, rfl, by decide, rfl⟩
theorem test_stale_clear : (after (.staleClear 15 8) { State.reset with sched := { Sched.reset with stale := [(248, 7)] } }).map
    (fun t => SMap.get (fun _ => 0) t.sched.stale 248) = some 0 := by decide
theorem test_hcw_go : (after .hcwGo hcwS).map (fun t => (((t.elem 3 0).field 160), (t.region 3).rstate)) = some (1, 0) := by decide +kernel
theorem test_hcw_read : (after .hcwRd hcwS).map (fun t => (t.ret, t.hub.hcwRd)) = some ([0x100000009], []) := by decide
theorem test_tpl_write : (after (.tplDataWrite 7) { State.reset with hub := { State.reset.hub with tplSel := 0x00103005 } }).map
    (fun t => (t.eng.tpl, t.hub.tplSel)) = some ([(65536 + 16 * 5 + 3, 7)], 0x00104005) := by decide
theorem test_unmask : (after (.msixUnmask 135) { State.reset with hub := { State.reset.hub with pend := [135] } }).map (fun t => (t.msi, t.hub.pend))
    = some ([135], []) := by decide
theorem test_bar2_write : (after (.hostBar2Write 0x2FFFFFFFF8 [1, 0, 0, 0, 0, 0, 0, 8]) State.reset).map (fun t => t.mem.bytes)
    = some [(0x2FFFFFFFF8, 1), (0x2FFFFFFFFF, 8)] := by decide +kernel
theorem test_bar2_hole : (after (.hostBar2Read 0x3000000000) State.reset).map (fun t => t.ret) = some [0xFFFFFFFFFFFFFFFF] := by decide
theorem test_image_refused : (after (.fwInstall 0) { State.reset with queues := [(0, { Queue.reset with tail := 1 })] }).map (fun t => (t.pwr.fwst, t.pwr.reason))
    = some (3, 6) := by decide
theorem test_power_cap : (after (.registerWrite 0x60040 (leBytes 8 4000)) State.reset).map (fun t => t.pwr.cap) = some 3000 := by decide

/-- A device whose stack 0 reports a temperature, at a level. -/
def warm (temp : Nat) (lvl : BitVec 2) : State := { State.reset with pwr := { State.reset.pwr with temp := [(0, temp)], lvl := [(0, lvl)] } }
theorem witness_PowerAndTemperature :
    ({ State.reset with pwr := { State.reset.pwr with sagEnd := some 64 } } : State).pwr.sagEnd = some 64
    ∧ (let s := warm 85 1
       s.pwr.sagEnd = none ∧ s.rt < s.pwr.capAt + capWindow ∧ { s with rt := capWindow }.pwr.capAt + capWindow ≤ capWindow ∧ (1000 : Nat) ≤ s.pwr.cap ∧ ∀ st, st < 4 → s.level st < 2)
    ∧ 110 ≤ (warm 110 2).temp 0 ∧ (warm 109 2).temp 0 < 110 := by
  refine ⟨rfl, by decide, by decide, by decide⟩
/-- R411: levels at their boundaries, rising and falling. -/
theorem test_thermal_levels :
    ((after (.thermalLevelChange 0 90) (warm 0 1)).map (fun t => t.level 0), (after (.thermalLevelChange 0 91) (warm 0 0)).map (fun t => t.level 0),
      (after (.thermalLevelChange 0 95) (warm 0 2)).map (fun t => t.level 0), (after (.thermalLevelChange 0 96) (warm 0 2)).map (fun t => t.level 0),
      (after (.thermalLevelChange 0 100) (warm 0 0)).map (fun t => t.level 0)) = (some 0, some 0, some 1, some 2, some 2) := by decide
theorem test_trip : (after (.thermalTrip 0) (warm 110 2)).map (fun t => (t.pwr.trip, t.pwr.rdy, t.clocked 0)) = some (true, false, false)
    ∧ (after (.thermalTrip 0) (warm 109 2)).map (fun t => t.pwr.trip) = some false := by decide

/- Steps, encodings and the whole machine. -/

/-- A NOP whose word is placed. -/
def nopW : BitVec 128 := 0x0000000000000079E79E00000000E000
/-- A load whose loader stands at the third word of its page, which is a PGBEGIN. -/
def loaderL : Load := { ld0 with ph := .loading, task := none, pages := [⟨some 0, gAddr + 8, gAddr, false, none⟩] }
/-- A device with it. -/
def loaderS : State := { graphS gQueue [(0, loaderL)] Region.reset with
  agenda := [.loader 0 0]
  mem := { Mem.reset with bytes := [(0x1000B, 0xFF)] ++ (tables leaf64K).bytes } }

theorem witness_StepRunsTheDecodedInstruction :
    (let s := State.reset.withFetchWord 128 nopW.toNat
     ∃ t i rest, s.agenda = .fire 0 0 0 :: rest ∧ decodeSlot ((s.elem 0 0).slot 0) = .ok i ∧ i = .nop z
       ∧ exec i { s with agenda := rest, cur := ⟨0, 0, 0, false⟩ } = .next t)
    ∧ (let s := State.reset.withFetchWord 32 0xFF000000
       ∃ t i rest, s.agenda = .cmd 0 true 0xFF000000 :: rest ∧ decodeCmd 0xFF000000 = .ok i ∧ exec i { s with agenda := rest, cur := ⟨0, 0, 0, true⟩ } = .next t)
    ∧ (let s := { seqS { ready [] with hdr := some (.jump zb) } with agenda := [.block 0] }
       ∃ t i rest, s.agenda = .block 0 :: rest ∧ (s.region 0).seq.hdr = some i ∧ exec i { s with agenda := rest, cur := ⟨0, 0, 0, false⟩ } = .next t)
    ∧ (∃ t i s1 r w, ({ loaderS with agenda := [] } : State).loaderFetch 0 0 = .word s1 r w ∧ decodeCmd w = .ok i ∧ i = .pgbegin 0
       ∧ exec i { s1 with cur := ⟨r, 0, 0, false⟩ } = .next t)
    ∧ (∃ t, exec (.fwInstall 0) { State.reset with queues := [(0, { Queue.reset with tail := 1 })] } = .next t)
    ∧ (∃ t, exec .supplySag State.reset = .next t) ∧ (∃ t, exec (.remoteTimeout 5) (remoteS 1000) = .next t) ∧ State.reset.agenda = []
    ∧ State.reset.mem.bytes = ([] : List Host.Cell) ∧ (after .supplySag State.reset).map (·.mem) = some State.reset.mem :=
  ⟨⟨_, _, _, rfl, rfl, rfl, rfl⟩, ⟨_, _, _, rfl, rfl, rfl⟩, ⟨_, _, _, rfl, rfl, rfl⟩, ⟨_, _, _, _, _, rfl, rfl, rfl, rfl⟩, ⟨_, rfl⟩, ⟨_, rfl⟩, ⟨_, rfl⟩, rfl, rfl, rfl⟩
/-- The placed NOP fires, and its slot has fired. -/
theorem test_step_nop : (match step (State.reset.withFetchWord 128 nopW.toNat) with
    | .next t => t.agenda == [] && (t.elem 0 0).slot 0 == nopW
    | _ => false) = true := by decide +kernel
/-- A placed window command opens a page. -/
theorem test_step_command : (match step (State.reset.withFetchWord 32 0xFF000000) with
    | .next t => (t.region 0).cfg.isOpen
    | _ => false) = true := by decide +kernel

theorem witness_DecodingAndEncodingAgree :
    (∃ i : Instr, i.wf = true ∧ encode i ≠ .none ∧ i = .fmul { z with aEn := 1, sa := 16, deq := 1, efmt := 1 })
    ∧ (∃ i, decodeSlot nopW = .ok i) ∧ (∃ i, decodeCmd 0xFF000000 = .ok i)
    ∧ (∃ i, decodeBlock 0x12340000000001000000000000401F01 = .ok i) :=
  ⟨⟨_, by decide, by decide, rfl⟩, ⟨_, rfl⟩, ⟨_, rfl⟩, ⟨_, rfl⟩⟩

theorem witness_EveryStepKeepsMemoryCanonical : State.reset.Canonical ∧ ∃ t, step State.reset = .next t :=
  ⟨by show _ = true; decide, ⟨_, rfl⟩⟩

/-- R406 and the reset state: what an unlisted address reads as. -/
theorem test_reset_memory : State.reset.mem.read 0x1234 = 0 ∧ State.reset.mem.csn = 1 := by decide

end Sys2Proof.Tests
end

section
/-!
SUPPORT. What leaves memory as it is: each function of the state that does so, and folds and choices of such.
-/
namespace Sys2Proof.Machine

/-- Memory after one of two courses. -/
@[simp] theorem ite_mem (c : Prop) [Decidable c] (s t : State) : (if c then s else t).mem = if c then s.mem else t.mem :=
  apply_ite State.mem c s t

/-- Memory is canonical after one of two courses if it is so after each, where that one is taken. -/
@[simp] theorem Memory.wf_ite (c : Prop) [Decidable c] (m n : Mem) :
    Memory.wf (if c then m else n) = true ↔ (c → Memory.wf m = true) ∧ (¬c → Memory.wf n = true) := by
  split <;> simp [*]

/-- A fold of steps that leave memory leaves memory. -/
@[simp] theorem foldl_mem {α : Type} {f : State → α → State} (hf : ∀ s a, (f s a).mem = s.mem) (l : List α) (s : State) :
    (l.foldl f s).mem = s.mem := by
  induction l generalizing s with
  | nil => rfl
  | cons a l ih => exact (ih (f s a)).trans (hf s a)

/-- Changes of regions, one after another, leave memory. -/
@[simp] theorem foldl_onRegion_mem {α : Type} (r : State → α → Nat) (g : State → α → Region → Region) (l : List α) (s : State) :
    (l.foldl (fun s a => s.onRegion (r s a) (g s a)) s).mem = s.mem :=
  foldl_mem (fun _ _ => State.onRegion_mem ..) l s

/-- A fold of steps that keep the canonical form keeps it. -/
theorem foldl_wf {α : Type} {f : State → α → State} (hf : ∀ s a, Memory.wf s.mem = true → Memory.wf (f s a).mem = true)
    (l : List α) {s : State} (h : Memory.wf s.mem = true) : Memory.wf (l.foldl f s).mem = true := by
  induction l generalizing s with
  | nil => exact h
  | cons a l ih => exact ih (hf s a h)

@[simp] theorem State.deliverUnit_mem (s : State) (src : Byte) (u : List Byte) : (State.deliverUnit s src u).mem = s.mem := by
  simp only [State.deliverUnit]; (repeat' split) <;> simp

@[simp] theorem State.setGlink_mem (s : State) (k : Nat) (x : GLink) : (State.setGlink s k x).mem = s.mem := rfl
@[simp] theorem State.glSpend_mem (s : State) (key : Option (BitVec 4 × Nat)) : (State.glSpend s key).mem = s.mem := by
  unfold State.glSpend; split <;> rfl

@[simp] theorem State.freeBuffer_mem (s : State) (from_ : Option Nat) (cls : Nat) : (State.freeBuffer s from_ cls).mem = s.mem := by
  unfold State.freeBuffer; split <;> rfl

@[simp] theorem State.sendFlits_mem (s : State) (ws : List Waiting) (held : List (Nat × Byte × Nat)) (kept : List Waiting) :
    (s.sendFlits ws held kept).mem = s.mem := by
  induction ws generalizing s held kept with
  | nil => rfl
  | cons w ws ih => simp only [State.sendFlits]; split <;> simp [ih]

@[simp] theorem State.flush_mem (s : State) : (State.flush s).mem = s.mem := by simp [State.flush]

@[simp] theorem State.post_mem (s : State) (dst : Byte) (stream : Nat) (units : List (List Byte)) :
    (State.post s dst stream units).mem = s.mem := by simp [State.post]

@[simp] theorem State.engRequest_mem (s : State) (x ch : Nat) (c : Copy) (p : Phys) (ukind : Nat) (opc : Byte) (va : BitVec 64) (n : Nat) (data : List Byte) :
    (State.engRequest s x ch c p ukind opc va n data).mem = s.mem := by simp [State.engRequest]

@[simp] theorem State.spend_mem (s : State) (b : Nat) (stream : Byte) (p : BitVec 4) : (State.spend s b stream p).mem = s.mem := rfl
@[simp] theorem State.setEdge_mem (s : State) (e : Nat) (x : Edge) : (State.setEdge s e x).mem = s.mem := rfl
@[simp] theorem State.sendHeld_mem (b : Nat) (hs : List (BridgeFlit × Nat)) (blocked : List Byte) (kept : List (BridgeFlit × Nat)) (s : State) :
    (State.sendHeld b hs blocked kept s).mem = s.mem := by
  induction hs generalizing blocked kept s with
  | nil => rfl
  | cons x hs ih => simp [State.sendHeld, ih]

@[simp] theorem State.pumpEdge_mem (s : State) (b : Nat) : (State.pumpEdge s b).mem = s.mem := by simp [State.pumpEdge]

@[simp] theorem State.handEdge_mem (s : State) (b due : Nat) (fl : BridgeFlit) : (State.handEdge s b due fl).mem = s.mem := by
  simp [State.handEdge]

@[simp] theorem State.ship_mem (s : State) (a b : Nat) (stream : Byte) (p : BitVec 4) (who : Sender) (data : List Byte) :
    (State.ship s a b stream p who data).mem = s.mem := by unfold State.ship; split <;> simp

@[simp] theorem State.copyCross_mem (s : State) (x : Nat) (c : Copy) (p : Phys) (out : List Byte) (back : Option (List Byte)) :
    (State.copyCross s x c p out back).mem = s.mem := by unfold State.copyCross; split <;> simp

@[simp] theorem State.raiseVector_mem (s : State) (n : Nat) : (State.raiseVector s n).mem = s.mem := by simp [State.raiseVector]

@[simp] theorem State.notDue_mem (s : State) (part : BitVec 4) (page : Nat) : (State.notDue s part page).mem = s.mem := rfl
@[simp] theorem State.setChan_mem (s : State) (x ch : Nat) (c : Channel) : (State.setChan s x ch c).mem = s.mem := rfl
@[simp] theorem State.freeChan_mem (s : State) (x ch : Nat) : (State.freeChan s x ch).mem = s.mem := rfl
@[simp] theorem State.setCopy_mem (s : State) (x ch : Nat) (c : Copy) : (State.setCopy s x ch c).mem = s.mem := rfl
@[simp] theorem State.onRow_mem (s : State) (r : Nat) (h : RowUnit → RowUnit) : (State.onRow s r h).mem = s.mem := rfl
@[simp] theorem State.rehold_mem (s : State) (q : Nat) : (State.rehold s q).mem = s.mem := rfl
@[simp] theorem State.fired_mem (s : State) (y : Elem) : (State.fired s y).mem = s.mem := rfl
@[simp] theorem State.setCfg_mem (s : State) (r : Nat) (c : CfgStream) : (State.setCfg s r c).mem = s.mem := rfl
@[simp] theorem State.onSeq_mem (s : State) (r : Nat) (h : Sequencer → Sequencer) : (State.onSeq s r h).mem = s.mem := rfl
@[simp] theorem State.issueRow_mem (s : State) (r : Nat) (o : RowOp) : (State.issueRow s r o).mem = s.mem := by
  simp only [State.issueRow]; (repeat' split) <;> simp

@[simp] theorem State.withImage_mem (s : State) (ld r : Nat) {f : State → State} (hf : ∀ t, (f t).mem = t.mem) :
    (s.withImage ld r f).mem = s.mem := by
  unfold State.withImage
  split <;> simp [hf]

@[simp] theorem State.setAccess_mem (s : State) (r e : Nat) (a : Access) : (State.setAccess s r e a).mem = s.mem := rfl
@[simp] theorem State.cross_mem (s : State) (r e id : Nat) (p : Phys) (back : Bool) (data : List Byte) :
    (State.cross s r e id p back data).mem = s.mem := by simp [State.cross]

@[simp] theorem State.request_mem (s : State) (r e id : Nat) (dev : Byte) (ukind : Nat) (opc mod : Byte) (addr : Nat) (mods : List Byte) (data : List Byte) :
    (State.request s r e id dev ukind opc mod addr mods data).mem = s.mem := by simp [State.request]

@[simp] theorem State.setAdjust_mem (s : State) (off : Nat) (v : BitVec 64) : (State.setAdjust s off v).mem = s.mem := rfl
@[simp] theorem State.settle_mem (s : State) (r e id : Nat) : (State.settle s r e id).mem = s.mem := by
  unfold State.settle; split <;> simp

@[simp] theorem State.serviced_mem (s : State) (part : BitVec 4) (page : Nat) : (State.serviced s part page).mem = s.mem := rfl
@[simp] theorem State.pump_mem (s : State) : (State.pump s).mem = s.mem := by unfold State.pump; split <;> simp

@[simp] theorem State.onElem_mem (s : State) (e : Nat) (h : Elem → Elem) : (State.onElem s e h).mem = s.mem := rfl
@[simp] theorem State.rowDone_mem (s : State) (r : Nat) (o : RowOp) (due : Nat) : (State.rowDone s r o due).mem = s.mem := by
  unfold State.rowDone; split <;> simp

@[simp] theorem State.rowCompletions_mem (s : State) (r : Nat) : (State.rowCompletions s r).mem = s.mem := by simp [State.rowCompletions]

@[simp] theorem State.tplWrite_mem (s : State) (v : BitVec 64) : (State.tplWrite s v).mem = s.mem := rfl
@[simp] theorem State.clearBridge_mem (s : State) (e : Nat) (on : Nat → Bool) : (State.clearBridge s e on).mem = s.mem := by
  simp [State.clearBridge]

@[simp] theorem usedRes_mem (f : Fields) (s : State) : (usedRes f s).mem = s.mem := by unfold usedRes; split <;> rfl

@[simp] theorem State.switchIn_mem (s : State) (q : Nat) : (State.switchIn s q).mem = s.mem := by simp [State.switchIn]

@[simp] theorem State.restoreConf_mem (s : State) (l : Load) : (State.restoreConf s l).mem = s.mem :=
  foldl_mem (fun _ _ => by dsimp only; split <;> rfl) _ _

@[simp] theorem State.unclaim_mem (s : State) (ld : Nat) : (State.unclaim s ld).mem = s.mem := rfl
@[simp] theorem State.dropFlying_mem (s : State) (r : Nat) : (State.dropFlying s r).mem = s.mem := rfl
@[simp] theorem State.unexclude_mem (s : State) : (State.unexclude s).mem = s.mem := rfl
@[simp] theorem State.switchOut_mem (s : State) (q : Nat) (byCmd : Bool) : (State.switchOut s q byCmd).mem = s.mem := by
  simp [State.switchOut]

@[simp] theorem State.markClaim_mem (s : State) (ld : Nat) (rs : List Nat) (st : Option (BitVec 4)) :
    (State.markClaim s ld rs st).mem = s.mem := foldl_mem (fun _ _ => State.onRegion_mem ..) _ _

@[simp] theorem State.claimStopped_mem (s : State) (ld n : Nat) (ls : List (Nat × Load)) : (s.claimStopped ld n ls).1.mem = s.mem := by
  induction ls generalizing s n with
  | nil => rfl
  | cons p ls ih => simp only [State.claimStopped]; split <;> simp [ih]

@[simp] theorem State.onLoad_mem (s : State) (ld : Nat) (h : Load → Load) : (State.onLoad s ld h).mem = s.mem := by
  unfold State.onLoad; split <;> rfl

@[simp] theorem State.fetchCross_mem (s : State) (r : Nat) (p : Phys) (back : Bool) (data : List Byte) :
    (State.fetchCross s r p back data).mem = s.mem := by simp [State.fetchCross]

@[simp] theorem State.dropRemote_mem (s : State) (p : Remote) : (State.dropRemote s p).mem = s.mem := rfl
@[simp] theorem State.answeredRemote_mem (s : State) (p : Remote) (status : Byte) : (State.answeredRemote s p status).mem = s.mem := by
  unfold State.answeredRemote; split <;> rfl

@[simp] theorem State.countStale_mem (s : State) (p : BitVec 4) (va : BitVec 64) : (State.countStale s p va).mem = s.mem := rfl
@[simp] theorem State.portAnswer_mem (s : State) (r e : Nat) (a : Access) (data : List Byte) (lost : Bool) :
    (State.portAnswer s r e a data lost).mem = s.mem := by simp [State.portAnswer]

@[simp] theorem State.onPort_mem (s : State) (ld r e : Nat) (h : Elem → Elem) : (State.onPort s ld r e h).mem = s.mem := by
  simp [State.onPort]

@[simp] theorem State.startDone_mem (s : State) (x : Nat) (st : Start) : (State.startDone s x st).mem = s.mem := by
  unfold State.startDone; (repeat' split) <;> simp

@[simp] theorem State.setPacket_mem (s : State) (q k : Nat) (p : Packet) : (State.setPacket s q k p).mem = s.mem := rfl
@[simp] theorem State.onPacket_mem (s : State) (q k : Nat) (h : Packet → Packet) : (State.onPacket s q k h).mem = s.mem := by
  unfold State.onPacket; split <;> rfl

@[simp] theorem State.writeLink_mem (s : State) (k : Nat) (v : BitVec 64) (on : Nat → Bool) : (State.writeLink s k v on).mem = s.mem := by
  simp [State.writeLink]

@[simp] theorem State.fwEnds_mem (s : State) (st : BitVec 4) (why : Byte) : (State.fwEnds s st why).mem = s.mem := rfl
@[simp] theorem State.unmask_mem (s : State) (n : Nat) : (State.unmask s n).mem = s.mem := by simp [State.unmask]

@[simp] theorem State.writeMsix_mem (s : State) (k : Nat) (v : BitVec 64) : (State.writeMsix s k v).mem = s.mem := by
  simp [State.writeMsix]

@[simp] theorem State.route_mem (s : State) (r e c q d k : Nat) (t : Token) : (State.route s r e c q d k t).mem = s.mem := by
  unfold State.route; split <;> rfl

@[simp] theorem State.useLinks_mem (s : State) (r e c : Nat) (ls : List (Nat × Nat)) (t : Token) :
    (State.useLinks s r e c ls t).mem = s.mem := by
  have hl : ∀ {f : State → Nat × Nat → Region → Region}, (ls.foldl (fun s l => s.onRegion l.1 (f s l)) s).mem = s.mem :=
    foldl_mem (fun _ _ => State.onRegion_mem ..) _ _
  simp [State.useLinks, hl]

@[simp] theorem State.usedMark_mem (s : State) : (State.usedMark s).mem = s.mem := rfl
@[simp] theorem State.writeTail_mem (s : State) (q : Nat) (v : Word) : (State.writeTail s q v).mem = s.mem := by simp [State.writeTail]

@[simp] theorem State.stand_mem (s : State) (l : Load) : (State.stand s l).mem = s.mem := foldl_mem (fun _ _ => State.onRegion_mem ..) _ _

@[simp] theorem State.forget_mem (s : State) (ld : Nat) : (State.forget s ld).mem = s.mem := rfl
@[simp] theorem State.dropSent_mem (s : State) (e : Nat) : (State.dropSent s e).mem = s.mem := rfl
@[simp] theorem State.passBoundary_mem (s : State) (b : Boundary) : (State.passBoundary s b).mem = s.mem := by
  unfold State.passBoundary; (repeat' split) <;> simp

@[simp] theorem State.takeFlit_mem (s : State) (k : Nat) (body : List Byte) : (State.takeFlit s k body).mem = s.mem := by
  simp [State.takeFlit]

@[simp] theorem State.breakLoad_mem (s : State) (r : Nat) (f : FaultRec) : (State.breakLoad s r f).mem = s.mem := by
  unfold State.breakLoad; (repeat' split) <;> simp

@[simp] theorem State.loseOpen_mem (s : State) (word : List Nat) : (State.loseOpen s word).mem = s.mem := rfl
@[simp] theorem State.sendSlots_mem (s : State) (r e : Nat) (a : Access) (ps : List (Nat × BitVec 64)) :
    (State.sendSlots s r e a ps).mem = s.mem := foldl_mem (fun _ _ => by split <;> simp) _ _

@[simp] theorem State.reply_mem (s : State) (b : Inbound) (status : Byte) (data : List Byte) : (State.reply s b status data).mem = s.mem := by
  simp [State.reply]

@[simp] theorem State.barRead_mem (s : State) (off : Nat) : (State.barRead s off).mem = s.mem := by simp [State.barRead]

@[simp] theorem State.pumpEdges_mem (s : State) : (State.pumpEdges s).mem = s.mem := by simp [State.pumpEdges]

@[simp] theorem State.land_mem (s : State) (e due : Nat) (fl : BridgeFlit) : (State.land s e due fl).mem = s.mem := by
  unfold State.land; split <;> simp

@[simp] theorem State.writeLinks_mem (s : State) (o : Nat) (v : BitVec 64) (on : Nat → Bool) : (State.writeLinks s o v on).mem = s.mem := by
  simp [State.writeLinks]

@[simp] theorem State.whileEmpty_mem (s : State) (q : Nat) (x : Queue) : (State.whileEmpty s q x).mem = s.mem := rfl
@[simp] theorem State.fwCommand_mem (s : State) (v : BitVec 64) : (State.fwCommand s v).mem = s.mem := by simp [State.fwCommand]

@[simp] theorem State.writeBxslot_mem (s : State) (r m : Nat) (v : BitVec 64) : (State.writeBxslot s r m v).mem = s.mem := by
  unfold State.writeBxslot; split <;> rfl

@[simp] theorem State.afterCommit_mem (s : State) (ld : Nat) (l : Load) (csn : Nat) (b : Boundary) :
    (State.afterCommit s ld l csn b).mem = s.mem := by
  cases hc : b.chan with
  | none | some c =>
    simp only [State.afterCommit, hc]
    split
    · rfl
    · split
      · split <;> simp
      · simp

@[simp] theorem State.renameRegion_mem (s : State) (ld old new : Nat) : (State.renameRegion s ld old new).mem = s.mem := by
  simp only [State.renameRegion]
  split <;> rfl

@[simp] theorem State.releaseCopies_mem (s : State) (old new : Nat) : (State.releaseCopies s old new).mem = s.mem := rfl
@[simp] theorem State.settleNames_mem (s : State) (ld : Nat) (rs : List Nat) : (State.settleNames s ld rs).mem = s.mem :=
  foldl_mem (fun _ _ => State.renameRegion_mem ..) _ _

@[simp] theorem State.charge_mem (s : State) (n : Nat) : (State.charge s n).mem = s.mem := rfl
@[simp] theorem State.woken_mem (s t : State) : (State.woken s t).mem = t.mem := by
  unfold State.woken
  split <;> rfl

end Sys2Proof.Machine
end


section
/-!
SUPPORT. The canonical form of memory through each operation on memory, and what it is for an outcome, a firing, an access and a read to keep it.
-/
namespace Sys2Proof.Machine

/-- The canonical form is a matter of the bytes alone. -/
@[simp] theorem Memory.wf_mk (b : List Host.Cell) (full lost rowver rowwin host csn undo banks colUse rowq rowseq) :
    Memory.wf ⟨b, full, lost, rowver, rowwin, host, csn, undo, banks, colUse, rowq, rowseq⟩ = cellsWf b := rfl

@[simp] theorem Memory.cellsWf_bytes (m : Mem) : cellsWf m.bytes = Memory.wf m := rfl

@[simp] theorem Mem.useWindow_wf (m : Mem) (base a n : Nat) : Memory.wf (m.useWindow base a n) = Memory.wf m := by
  unfold Mem.useWindow
  split <;> rfl

@[simp] theorem Mem.setBank_wf (m : Mem) (c b : Nat) (k : Bank) : Memory.wf (m.setBank c b k) = Memory.wf m := rfl

/-- A row update's commit keeps the canonical form. -/
theorem Mem.commitRow_wf {m : Mem} (a : Nat) (cs : List Host.Cell) (h : Memory.wf m = true) : Memory.wf (m.commitRow a cs) = true := by
  unfold Mem.commitRow
  split <;> exact m.commit_wf cs h

/-- Emptying a scratchpad keeps the canonical form of what is left. -/
theorem Mem.clearSpad_wf {m : Mem} (r : Nat) (h : Memory.wf m = true) : Memory.wf (m.clearSpad r) = true := cellsWf_filter _ h

/-- A fold of operations on memory that keep the canonical form keeps it. -/
theorem Mem.foldl_wf {α : Type} {f : Mem → α → Mem} (hf : ∀ m a, Memory.wf m = true → Memory.wf (f m a) = true) (l : List α) {m : Mem}
    (h : Memory.wf m = true) : Memory.wf (l.foldl f m) = true := by
  induction l generalizing m with
  | nil => exact h
  | cons a l ih => exact ih (hf m a h)

/-- Setting the words of written cells full keeps the canonical form. -/
theorem Mem.foldl_setFull_wf {m : Mem} (cs : List Host.Cell) (h : Memory.wf m = true) :
    Memory.wf (cs.foldl (fun m c => m.setFull c.1 1) m) = true :=
  Mem.foldl_wf (fun m c => m.setFull_wf c.1 1) cs h

/-- Where an outcome goes on, memory is canonical. -/
def NextWf : Host.Outcome State Fault Refusal → Prop
  | .next t => Memory.wf t.mem = true
  | _ => True

@[simp] theorem nextWf_next (t : State) : NextWf (.next t) ↔ Memory.wf t.mem = true := Iff.rfl

@[simp] theorem nextWf_fault (r : Fault) : NextWf (.fault r) := trivial
@[simp] theorem nextWf_refused (r : Refusal) : NextWf (.refused r) := trivial

@[simp] theorem nextWf_ite (c : Prop) [Decidable c] (o p : Host.Outcome State Fault Refusal) :
    NextWf (if c then o else p) ↔ (c → NextWf o) ∧ (¬c → NextWf p) := by
  split <;> simp [*]

/-- What a firing does beyond its element keeps memory canonical. -/
def Fired.KeepsWf : Fired → Prop
  | .done _ after => ∀ s, Memory.wf s.mem = true → Memory.wf (after s).mem = true
  | _ => True

/-- Every state that the performance of an access at its home leaves has canonical memory. -/
def Perf.Wf : Perf → Prop
  | .done s .. => Memory.wf s.mem = true
  | .sent s => Memory.wf s.mem = true
  | _ => True

/-- Every state that a fetch of the loader leaves has canonical memory. -/
def Fetch.Wf : Fetch → Prop
  | .word s .. => Memory.wf s.mem = true
  | .stop s => Memory.wf s.mem = true

/-- Every state that a read of an engine leaves has canonical memory. -/
def Got.Wf : Got → Prop
  | .ok s .. => Memory.wf s.mem = true
  | .bad s .. => Memory.wf s.mem = true
  | .pause => True
  | .away s .. => Memory.wf s.mem = true

/-- Every state that a write of an engine leaves has canonical memory. -/
def Put.Wf : Put → Prop
  | .ok s .. => Memory.wf s.mem = true
  | .bad s .. => Memory.wf s.mem = true
  | .park s .. => Memory.wf s.mem = true
  | .pause => True

/-- Every state that the service of another device's request leaves has canonical memory. -/
def Served.Wf : Served → Prop
  | .done s _ => Memory.wf s.mem = true
  | _ => True

end Sys2Proof.Machine
end


section
/-!
SUPPORT. Memory stays canonical through the state's own operations on it: writes and commits, fault records, translation and the reads of an agent.
-/
namespace Sys2Proof.Machine

/-! Writes and commits -/

@[simp] theorem State.hostWrite_wf {s : State} {cells : List Host.Cell} (h : Memory.wf s.mem = true) : Memory.wf (s.hostWrite cells).mem = true := h

@[simp] theorem State.immediate_wf {s : State} {kind : BitVec 3} {cells : List Host.Cell} (h : Memory.wf s.mem = true) :
    Memory.wf (s.immediate kind cells).mem = true := by
  unfold State.immediate
  split
  · exact s.hostWrite_wf h
  · simp [Mem.commit_wf, Mem.foldl_write_wf, h]

@[simp] theorem State.publish_wf {s : State} {cells : List Host.Cell} (h : Memory.wf s.mem = true) : Memory.wf (s.publish cells).mem = true :=
  s.mem.commit_wf cells h

@[simp] theorem State.prune_wf {s : State} (h : Memory.wf s.mem = true) : Memory.wf s.prune.mem = true := h

@[simp] theorem State.closeBank_wf {s : State} {c b : Nat} (h : Memory.wf s.mem = true) : Memory.wf (s.closeBank c b).mem = true := h

@[simp] theorem State.useColumn_wf {s : State} {c : Nat} (h : Memory.wf s.mem = true) : Memory.wf (s.useColumn c).mem = true := h

@[simp] theorem State.resetDevice_wf (s : State) : Memory.wf s.resetDevice.mem = true := rfl

/-! Fault records -/

@[simp] theorem State.queueRecord_wf {s : State} {q : Nat} {f : FaultRec} {task graph load csn tile : Nat} (h : Memory.wf s.mem = true) :
    Memory.wf (s.queueRecord q f task graph load csn tile).mem = true := by
  simp [State.queueRecord, Mem.commit_wf, h]

@[simp] theorem State.deviceRecord_wf {s : State} {f : FaultRec} (h : Memory.wf s.mem = true) : Memory.wf (s.deviceRecord f).mem = true := by
  simp [State.deviceRecord, Mem.commit_wf, h]

@[simp] theorem State.loadRecord_wf {s : State} {k : Nat} {f : FaultRec} (h : Memory.wf s.mem = true) : Memory.wf (s.loadRecord k f).mem = true := by
  unfold State.loadRecord
  split
  · exact s.deviceRecord_wf h
  · exact s.queueRecord_wf h

@[simp] theorem State.stopFault_wf {s : State} {k : Nat} {f : FaultRec} (h : Memory.wf s.mem = true) : Memory.wf (s.stopFault k f).mem = true := by
  unfold State.stopFault
  split
  · exact s.deviceRecord_wf h
  · simp [State.loadRecord_wf, h]

@[simp] theorem State.raiseAs_wf {s : State} {r e unit sl : Nat} {opc : Byte} {f : FaultRec} (h : Memory.wf s.mem = true) :
    Memory.wf (s.raiseAs r e unit sl opc f).mem = true := by
  unfold State.raiseAs
  split
  · exact State.stopFault_wf h
  · exact State.deviceRecord_wf h

@[simp] theorem State.raise_wf {s : State} {r e sl : Nat} {opc : Byte} {f : FaultRec} (h : Memory.wf s.mem = true) :
    Memory.wf (s.raise r e sl opc f).mem = true := s.raiseAs_wf h

/-! Translation -/

@[simp] theorem State.touchLeaf_wf {s : State} {stack : Nat} {p : BitVec 4} {va : BitVec 64} {write : Bool} {e : BitVec 64} {lvl a : Nat}
    (h : Memory.wf s.mem = true) : Memory.wf (s.touchLeaf stack p va write e lvl a).mem = true := by
  simp [State.touchLeaf, Mem.commit_wf, h]

@[simp] theorem State.translate_wf {s : State} {stack : Nat} {p : BitVec 4} {va : BitVec 64} {need : Need} (h : Memory.wf s.mem = true) :
    Memory.wf (s.translate stack p va need).2.mem = true := by
  unfold State.translate
  split
  · exact h
  · split
    · exact h
    · simp [State.touchLeaf_wf, h]

/-- What a translation comes to leaves canonical memory. -/
theorem State.wf_of_translate {s t : State} {stack : Nat} {p : BitVec 4} {va : BitVec 64} {need : Need} {o : Except Bad Phys}
    (h : Memory.wf s.mem = true) (e : s.translate stack p va need = (o, t)) : Memory.wf t.mem = true := by
  simpa [e] using State.translate_wf (stack := stack) (p := p) (va := va) (need := need) h

@[simp] theorem State.agentRead_wf {s : State} {stack : Nat} {part : BitVec 4} {va : BitVec 64} {n : Nat} (h : Memory.wf s.mem = true) :
    Memory.wf (s.agentRead stack part va n).2.mem = true := by
  unfold State.agentRead
  split
  · next e => exact State.wf_of_translate h e
  · next e => simp [State.wf_of_translate h e, apply_ite Prod.snd]

/-- What an agent's read comes to leaves canonical memory. -/
theorem State.wf_of_agentRead {s t : State} {stack : Nat} {part : BitVec 4} {va : BitVec 64} {n : Nat} {o : Except Bad (List Byte)}
    (h : Memory.wf s.mem = true) (e : s.agentRead stack part va n = (o, t)) : Memory.wf t.mem = true := by
  simpa [e] using State.agentRead_wf (stack := stack) (part := part) (va := va) (n := n) h

end Sys2Proof.Machine
end


section
/-!
SUPPORT. Memory stays canonical through the firing of a slot, whatever shape the firing has, where what it does beyond its element keeps it so.
-/
namespace Sys2Proof.Machine

theorem fire_wf {opc : Byte} {f : Fields} {k : Look} {act : Elem → Fired} {s : State} (h : Memory.wf s.mem = true)
    (ha : ∀ x, (act x).KeepsWf) : NextWf (fire opc f k act s) := by
  unfold fire
  dsimp only
  split
  · split
    · exact h
    · exact s.raise_wf h
    · next y after e =>
      have hk := ha (s.elem s.cur.reg s.cur.elem)
      rw [e] at hk
      exact hk (s.fired y) h
  · exact h

/-- A firing that does nothing beyond its element. -/
theorem Fired.keepsWf_id (y : Elem) : (Fired.done y id).KeepsWf := fun _ h => h

theorem Fired.keepsWf_unless {o : Fired} {r : Option FaultRec} (h : o.KeepsWf) : (o.unless r).KeepsWf := by
  cases o with
  | wait | fault a => trivial
  | done x after => cases r with
    | none => exact h
    | some a => trivial

theorem commitRes_keepsWf (x : Elem) (f : Fields) (fmt : BitVec 3) (o : Res) : (commitRes x f fmt o).KeepsWf := by
  unfold commitRes
  split
  · split
    · exact Fired.keepsWf_id _
    · trivial
  · split <;> exact Fired.keepsWf_id _

theorem pushOne_keepsWf {x : Elem} {f : Fields} {c : Nat} {t : Token} {o : Res} {after : State → State}
    (h : ∀ s, Memory.wf s.mem = true → Memory.wf (after s).mem = true) : (pushOne x f c t o after).KeepsWf := by
  unfold pushOne
  split
  · exact h
  · trivial

theorem walkStep_keepsWf (x : Elem) (f : Fields) (m : Byte) (w : WStep) : (walkStep x f m w).KeepsWf := by
  unfold walkStep
  split
  · split
    · trivial
    · exact Fired.keepsWf_id _
  · trivial

theorem poisonFirst_keepsWf {f : Fields} {act : Elem → Fired} {x : Elem} (h : (act x).KeepsWf) : (poisonFirst f act x).KeepsWf := by
  unfold poisonFirst
  split
  · trivial
  · exact h

theorem issueFired_keepsWf (cyc : Nat) (x : Elem) (f : Fields) (m : Byte) (kind : BitVec 3) (a : Access) :
    (issueFired cyc x f m kind a).KeepsWf := by
  unfold issueFired
  split
  · trivial
  · exact Fired.keepsWf_id _

theorem startStream_keepsWf (x : Elem) (f : Fields) (m : Byte) (cmpl : Bool) (g : StreamEngine) :
    (startStream x f m cmpl g).KeepsWf := Fired.keepsWf_id _

theorem usedRes_keeps (f : Fields) (s : State) (h : Memory.wf s.mem = true) : Memory.wf (usedRes f s).mem = true := by
  simp [h]

theorem fireLane_wf {opc : Byte} {f : Fields} {fmt : BitVec 3} {op : Elem → Byte → Res} {s : State} (h : Memory.wf s.mem = true) :
    NextWf (fireLane opc f fmt op s) := by
  refine fire_wf h fun x => ?_
  split
  · trivial
  · split
    · trivial
    · exact commitRes_keepsWf ..

theorem fireOwn_wf {opc : Byte} {f : Fields} {k : Look} {act : Elem → Byte → Fired} {s : State} (h : Memory.wf s.mem = true)
    (ha : ∀ x m, (act x m).KeepsWf) : NextWf (fireOwn opc f k act s) :=
  fire_wf h fun x => Fired.keepsWf_unless (ha x _)

theorem fireWalk_wf {opc : Byte} {f : Fields} {reads outs : List Nat} {step : Elem → Byte → Except FaultRec WStep} {s : State}
    (h : Memory.wf s.mem = true) : NextWf (fireWalk opc f reads outs step s) := by
  refine fire_wf h fun x => ?_
  split
  · trivial
  · trivial
  · dsimp only
    split
    · trivial
    · exact walkStep_keepsWf ..

theorem fireMatrix_wf {opc : Byte} {f : Fields} {extra : Region → Bool} {act : Region → Elem → Fired} {s : State}
    (h : Memory.wf s.mem = true) (ha : ∀ g x, (act g x).KeepsWf) : NextWf (fireMatrix opc f extra act s) := by
  unfold fireMatrix
  dsimp only
  split
  · exact fire_wf h fun x => poisonFirst_keepsWf trivial
  · split
    · exact fire_wf h fun x => poisonFirst_keepsWf (ha _ x)
    · exact h

theorem firePort_wf {opc : Byte} {f : Fields} {k : Look} {lanes : Fields} {ready : Elem → Bool} {act : Elem → Byte → Fired}
    {s : State} (h : Memory.wf s.mem = true) (ha : ∀ x m, (act x m).KeepsWf) : NextWf (firePort opc f k lanes ready act s) := by
  unfold firePort
  dsimp only
  split
  · refine fire_wf h fun x => ?_
    split
    · trivial
    · exact ha x _
  · exact h

theorem fireAccess_wf {opc : Byte} {f : Fields} {s : State} (h : Memory.wf s.mem = true) : NextWf (fireAccess opc f s) := by
  unfold fireAccess
  refine firePort_wf h fun x m => ?_
  split
  · trivial
  · exact issueFired_keepsWf ..

theorem fireRowUpdate_wf {opc : Byte} {f : Fields} {s : State} (h : Memory.wf s.mem = true) : NextWf (fireRowUpdate opc f s) := by
  unfold fireRowUpdate
  refine firePort_wf h fun x m => ?_
  dsimp only
  split
  · trivial
  · exact startStream_keepsWf _ _ _ _ _

theorem fireTcon_wf {opc : Byte} {f : Fields} {s : State} (h : Memory.wf s.mem = true) : NextWf (fireTcon opc f s) := by
  refine fireMatrix_wf h fun g x => ?_
  dsimp only
  split
  · trivial
  · exact fun t ht => ht

theorem fireRow_wf {opc : Byte} {f lanes : Fields} {s : State} (h : Memory.wf s.mem = true) : NextWf (fireRow opc f lanes s) := by
  unfold fireRow
  dsimp only
  split
  · refine fire_wf h fun x => ?_
    split
    · trivial
    · split
      · trivial
      · exact fun t ht => ht
  · exact h

theorem fireBoundary_wf {kind : Byte} {f : Fields} {q : Nat} {arg : Elem → Except FaultRec (BitVec 64)} {s : State}
    (h : Memory.wf s.mem = true) : NextWf (fireBoundary kind f q arg s) := by
  refine fire_wf h fun x => Fired.keepsWf_unless ?_
  split
  · split
    · trivial
    · trivial
    · exact fun t ht => by simpa using ht
  · split
    · split
      · exact Fired.keepsWf_id _
      · trivial
    · exact Fired.keepsWf_id _

end Sys2Proof.Machine
end


section
/-!
SUPPORT. Memory stays canonical through the events at a region: arrays, homes, ports, the row unit, the configuration stream and the fabric.
-/
namespace Sys2Proof.Machine

/-! Wrappers of an act -/

theorem fromHost_wf {f : State → State} {s : State} (h : Memory.wf s.mem = true)
    (hf : ∀ t, Memory.wf t.mem = true → Memory.wf (f t).mem = true) : NextWf (fromHost f s) := by
  simp [fromHost, hf, h]

theorem State.took_wf {s : State} {f : State → Host.Outcome State Fault Refusal} (h : Memory.wf s.mem = true) (hf : NextWf (f s)) :
    Memory.wf (s.took f).mem = true := by
  unfold State.took
  split
  · next e => rwa [e] at hf
  · exact h

theorem andThen_wf {o : Host.Outcome State Fault Refusal} {f : State → State} (ho : NextWf o)
    (hf : ∀ t, Memory.wf t.mem = true → Memory.wf (f t).mem = true) : NextWf (andThen o f) := by
  cases o with
  | next t => exact hf t ho
  | fault r | refused r => trivial

theorem runBlock_wf {act : Region → Nat → State → State} {s : State} (h : Memory.wf s.mem = true)
    (ha : ∀ g r, Memory.wf (act g r s).mem = true) : NextWf (runBlock act s) := by
  simp [runBlock, ha, h]

@[simp] theorem State.notePark_wf {s : State} {ld : Nat} {task : Word} {page : Nat} {rec : State → State} (h : Memory.wf s.mem = true)
    (hr : Memory.wf (rec s).mem = true) : Memory.wf (s.notePark ld task page rec).mem = true := by
  simp [State.notePark, hr, h]

/-- What is done to a region or to its save image keeps memory canonical. -/
theorem State.withImage_wf {s : State} {ld r : Nat} {f : State → State} (h : Memory.wf s.mem = true)
    (hf : ∀ t, Memory.wf t.mem = true → Memory.wf (f t).mem = true) : Memory.wf (s.withImage ld r f).mem = true := by
  unfold State.withImage
  split
  · simp [hf, h]
  · simp [hf (s.setRegion r _) h]

/-! Versions of memory -/

/-- A store into a version leaves memory. -/
theorem State.mem_of_storeVersion {s t : State} {k ph : Nat} {cells : List Host.Cell} (e : s.storeVersion k ph cells = .ok t) :
    t.mem = s.mem := by
  simp only [State.storeVersion] at e
  repeat' split at e
  all_goals cases e
  all_goals rfl

/-! The matrix array -/

@[simp] theorem State.arrayFault_wf {s : State} {r : Nat} {d : Feed} {f : FaultRec} (h : Memory.wf s.mem = true) :
    Memory.wf (State.arrayFault s r d f).mem = true := by
  simp [State.arrayFault, h]

theorem execTconStepTake_wf {r : Nat} {s : State} (h : Memory.wf s.mem = true) : NextWf (execTconStepTake r s) := by
  simp only [execTconStepTake]
  (repeat' split) <;> simp [h]

theorem execTconStepWrite_wf {r : Nat} {s : State} (h : Memory.wf s.mem = true) : NextWf (execTconStepWrite r s) := by
  simp only [execTconStepWrite]
  split <;> simp [h]

theorem execWloadGroupTake_wf {r : Nat} {s : State} (h : Memory.wf s.mem = true) : NextWf (execWloadGroupTake r s) := by
  simp only [execWloadGroupTake]
  (repeat' split) <;> simp [h]

theorem execAccrdPush_wf {r : Nat} {s : State} (h : Memory.wf s.mem = true) : NextWf (execAccrdPush r s) := by
  simp [execAccrdPush, h]

/-! Accesses at their home -/

theorem State.performLoad_wf {s : State} {r e id ph : Nat} {opc : Byte} {f : Fields} {p : Phys} {n : Nat} (h : Memory.wf s.mem = true) :
    (s.performLoad r e id ph opc f p n).Wf := by
  simp only [State.performLoad]
  (repeat' split) <;> simp [Perf.Wf, h]

theorem State.performStore_wf {s : State} {r e : Nat} {a : Access} {p : Phys} {k : Nat} {full : Bool} (h : Memory.wf s.mem = true) :
    (s.performStore r e a p k full).Wf := by
  simp only [State.performStore]
  split
  · split
    · trivial
    · split
      · exact h
      · split
        · trivial
        · next e => simpa [Perf.Wf, State.mem_of_storeVersion e] using h
  all_goals (repeat' split) <;> simp [Perf.Wf, Mem.foldl_setFull_wf, h]

theorem State.performAtom_wf {s : State} {r e : Nat} {a : Access} {p : Phys} {k : Nat} (h : Memory.wf s.mem = true) :
    (s.performAtom r e a p k).Wf := by
  simp only [State.performAtom]
  (repeat' split) <;> simp [Perf.Wf, h]

theorem State.performWait_wf {s : State} {r e : Nat} {a : Access} {p : Phys} (h : Memory.wf s.mem = true) : (s.performWait r e a p).Wf := by
  simp only [State.performWait]
  (repeat' split) <;> simp [Perf.Wf, h]

theorem State.performSlot_wf {s : State} {r e : Nat} {a : Access} {k : Nat} {p : Phys} (h : Memory.wf s.mem = true) :
    (s.performSlot r e a k p).Wf := by
  simp only [State.performSlot]
  split
  · trivial
  · split
    · exact State.performStore_wf h
    · exact State.performStore_wf h
    · exact State.performStore_wf h
    · exact State.performStore_wf h
    · split
      · simp [Perf.Wf, Mem.setEmpty_wf, h]
      · trivial
    · exact h
    · exact State.performWait_wf h
    · exact State.performAtom_wf h
    · exact State.performLoad_wf h

@[simp] theorem State.failSlot_wf {s : State} {r e : Nat} {a : Access} {k : Nat} {va : BitVec 64} {b : Bad} (h : Memory.wf s.mem = true) :
    Memory.wf (State.failSlot s r e a k va b).mem = true := by
  simp [State.failSlot, h]

/-! Ports and stream engines -/

@[simp] theorem State.parkRecord_wf {s : State} {ld page : Nat} {f : FaultRec} (h : Memory.wf s.mem = true) :
    Memory.wf (s.parkRecord ld page f).mem = true :=
  State.notePark_wf h (State.loadRecord_wf h)

@[simp] theorem State.park_wf {s : State} {r e : Nat} {a : Access} {k : Nat} {va : BitVec 64} {record : Bool} (h : Memory.wf s.mem = true) :
    Memory.wf (State.park s r e a k va record).mem = true := by
  simp [State.park, h]

@[simp] theorem State.walkSlot_wf {s : State} {r e id : Nat} {p : Nat × BitVec 64} (h : Memory.wf s.mem = true) :
    Memory.wf (s.walkSlot r e id p).mem = true := by
  simp only [State.walkSlot]
  split
  · exact h
  · split
    · exact h
    · split
      · simp [h]
      · split
        · next ht => simpa using State.wf_of_translate h ht
        · next ht => simp [State.wf_of_translate h ht]

theorem execTranslationWalk_wf {r e id : Nat} {s : State} (h : Memory.wf s.mem = true) : NextWf (execTranslationWalk r e id s) := by
  have hw : ∀ (l : List (Nat × BitVec 64)) (t : State), Memory.wf t.mem = true →
      Memory.wf (l.foldl (fun s p => s.walkSlot r e id p) t).mem = true := fun l t => foldl_wf (fun _ _ => State.walkSlot_wf) l
  simp only [execTranslationWalk]
  split
  · exact h
  · split
    · split <;> simp [hw, h]
    · exact h

@[simp] theorem State.performFirst_wf {s : State} {r e : Nat} {a : Access} {ps : List (Nat × BitVec 64)} (h : Memory.wf s.mem = true) :
    Memory.wf (s.performFirst r e a ps).1.mem = true := by
  induction ps with
  | nil => exact h
  | cons p ps ih =>
    simp only [State.performFirst]
    split
    · exact ih
    · next ph _ =>
      have hp := State.performSlot_wf (r := r) (e := e) (a := a) (k := p.1) (p := ph) h
      split <;> simp_all [Perf.Wf]

@[simp] theorem State.reachChannel_wf {s : State} {r e : Nat} {a : Access} {p : Phys} (h : Memory.wf s.mem = true) :
    Memory.wf (State.reachChannel s r e a p).mem = true := by
  simp [State.reachChannel, h]

@[simp] theorem State.advance_wf {s : State} {r e : Nat} {a : Access} (h : Memory.wf s.mem = true) :
    Memory.wf (s.advance r e a).mem = true := by
  simp only [State.advance]
  split
  · simp [h]
  · split
    · split <;> simp [h]
    · simp [h]

theorem execAccessComplete_wf {r e id : Nat} {s : State} (h : Memory.wf s.mem = true) : NextWf (execAccessComplete r e id s) := by
  unfold execAccessComplete
  split <;> simp [h]

theorem execParkedWake_wf {r e id : Nat} {s : State} (h : Memory.wf s.mem = true) : NextWf (execParkedWake r e id s) := by
  unfold execParkedWake
  split <;> simp [h]

theorem execHomeAtomic_wf {r e id : Nat} {s : State} (h : Memory.wf s.mem = true) : NextWf (execHomeAtomic r e id s) := by
  unfold execHomeAtomic
  (repeat' split) <;> simp [h]

theorem execRowUpdateApply_wf {n : Nat} {s : State} (h : Memory.wf s.mem = true) : NextWf (execRowUpdateApply n s) := by
  simp only [execRowUpdateApply]
  split
  · exact h
  · split
    · exact h
    · split <;> simp [Mem.commitRow_wf, h]

theorem execLdrowPerform_wf {r e id : Nat} {s : State} (h : Memory.wf s.mem = true) : NextWf (execLdrowPerform r e id s) := by
  unfold execLdrowPerform
  (repeat' split) <;> simp [h]

@[simp] theorem State.engineFault_wf {s : State} {r e : Nat} {g : StreamEngine} {f : FaultRec} (h : Memory.wf s.mem = true) :
    Memory.wf (State.engineFault s r e g f).mem = true := by
  simp [State.engineFault, h]

theorem execAgsrcPush_wf {r e : Nat} {s : State} (h : Memory.wf s.mem = true) : NextWf (execAgsrcPush r e s) := by
  simp only [execAgsrcPush]
  (repeat' split) <;> simp [h]

theorem execAgsnkTake_wf {r e : Nat} {s : State} (h : Memory.wf s.mem = true) : NextWf (execAgsnkTake r e s) := by
  simp only [execAgsnkTake]
  (repeat' split) <;> simp [h]

theorem execStreamCmpl_wf {r e : Nat} {s : State} (h : Memory.wf s.mem = true) : NextWf (execStreamCmpl r e s) := by
  simp only [execStreamCmpl]
  split <;> simp [h]

theorem execGathStep_wf {r e : Nat} {s : State} (h : Memory.wf s.mem = true) : NextWf (execGathStep r e s) := by
  simp only [execGathStep]
  (repeat' split) <;> simp [h]

theorem execScatStep_wf {r e : Nat} {s : State} (h : Memory.wf s.mem = true) : NextWf (execScatStep r e s) := by
  simp only [execScatStep]
  (repeat' split) <;> simp [h]

theorem execRowBodyTake_wf {r e : Nat} {s : State} (h : Memory.wf s.mem = true) : NextWf (execRowBodyTake r e s) := by
  simp only [execRowBodyTake]
  (repeat' split) <;> simp [h]

theorem execWsrdPush_wf {r e : Nat} {s : State} (h : Memory.wf s.mem = true) : NextWf (execWsrdPush r e s) := by
  simp only [execWsrdPush]
  (repeat' split) <;> simp [h]

theorem execWeightStoreRefresh_wf {s : State} (h : Memory.wf s.mem = true) : NextWf (execWeightStoreRefresh s) := h

/-! The row unit -/

@[simp] theorem State.rowFault_wf {s : State} {r : Nat} {o : RowOp} {f : FaultRec} (h : Memory.wf s.mem = true) :
    Memory.wf (State.rowFault s r o f).mem = true := by
  simp [State.rowFault, h]

theorem execRowOpIssue_wf {r : Nat} {s : State} (h : Memory.wf s.mem = true) : NextWf (execRowOpIssue r s) := by
  simp only [execRowOpIssue]
  split
  · split
    · simp [h]
    · split
      · exact h
      · split <;> next ht => simp [State.wf_of_translate h ht, h]
  · exact h

@[simp] theorem State.actRow_wf {s : State} {r : Nat} {o : RowOp} {k : Nat} (h : Memory.wf s.mem = true) :
    Memory.wf (s.actRow r o k).mem = true := by
  simp [State.actRow, h]

@[simp] theorem State.consumeRow_wf {s : State} {r : Nat} {o : RowOp} {e : HoldEntry} (h : Memory.wf s.mem = true) :
    Memory.wf (s.consumeRow r o e).mem = true := by
  simp [State.consumeRow, Mem.mend_wf, Mem.writeBytes_wf, h]

@[simp] theorem State.writeRow_wf {s : State} {r : Nat} {o : RowOp} {k : Nat} {b : HoldEntry} (h : Memory.wf s.mem = true) :
    Memory.wf (State.writeRow s r o k b).mem = true := by
  simp [State.writeRow, h]

@[simp] theorem State.closeRows_wf {s : State} {r : Nat} {reopen : Bool} (h : Memory.wf s.mem = true) :
    Memory.wf (s.closeRows r reopen).mem = true := by
  have hc : ∀ l : SMap HoldEntry, Memory.wf (l.foldl (fun s e => if e.2.held then s.closeBank e.2.col e.2.bank else s) s).mem = true :=
    fun l => foldl_wf (fun t e ht => by simp [ht]) l h
  simp [State.closeRows, hc]

@[simp] theorem State.actAtBank_wf {s : State} {r : Nat} {o : RowOp} (h : Memory.wf s.mem = true) :
    Memory.wf (State.actAtBank s r o).mem = true := by
  simp only [State.actAtBank]
  (repeat' split) <;> simp [h]

@[simp] theorem State.restRows_wf {s : State} {r : Nat} (h : Memory.wf s.mem = true) : Memory.wf (State.restRows s r).mem = true := by
  simp [State.restRows, h]

theorem execRowBankAct_wf {r : Nat} {s : State} (h : Memory.wf s.mem = true) : NextWf (execRowBankAct r s) := by
  simp only [execRowBankAct]
  split <;> simp [h]

theorem execRowOpenExpiry_wf {r b : Nat} {s : State} (h : Memory.wf s.mem = true) : NextWf (execRowOpenExpiry r b s) := by
  unfold execRowOpenExpiry
  split <;> simp [h]

theorem execRowRefreshSlot_wf {g : Nat} {s : State} (h : Memory.wf s.mem = true) : NextWf (execRowRefreshSlot g s) := h

theorem execActBudgetPeriod_wf {s : State} (h : Memory.wf s.mem = true) : NextWf (execActBudgetPeriod s) := h

theorem execRowconStrPush_wf {r b : Nat} {s : State} (h : Memory.wf s.mem = true) : NextWf (execRowconStrPush r b s) := by
  unfold execRowconStrPush
  (repeat' split) <;> simp [h]

@[simp] theorem State.takeRowBody_wf {s : State} {r : Nat} {n : Nat} (h : Memory.wf s.mem = true) :
    Memory.wf (State.takeRowBody s r n).mem = true := by
  simp only [State.takeRowBody]
  (repeat' split) <;> simp [h]

theorem execRowwrBodyTake_wf {r : Nat} {s : State} (h : Memory.wf s.mem = true) : NextWf (execRowwrBodyTake r s) := by
  have ht : Memory.wf ((List.range 4).foldl (fun s n => s.takeRowBody r n) s).mem = true := foldl_wf (fun _ _ => State.takeRowBody_wf) _ h
  simp [execRowwrBodyTake, ht, h]

/-! The configuration stream -/

@[simp] theorem State.cfgRaise_wf {s : State} {f : FaultRec} (h : Memory.wf s.mem = true) : Memory.wf (State.cfgRaise s f).mem = true := by
  simp only [State.cfgRaise]
  split <;> simp [h]

theorem pageCommand_wf {w : Word} {act : CfgStream → CfgStream} {s : State} (h : Memory.wf s.mem = true) : NextWf (pageCommand w act s) := by
  simp [pageCommand, h]

theorem pageControl_wf {fld : Byte} {v : Half} {act : CfgStream → CfgStream} {s : State} (h : Memory.wf s.mem = true) :
    NextWf (pageControl fld v act s) := pageCommand_wf h

theorem execPgbegin_wf {v : Half} {s : State} (h : Memory.wf s.mem = true) : NextWf (execPgbegin v s) := by
  simp [execPgbegin, pageCommand_wf, h]

theorem execPatbegin_wf {v : Half} {s : State} (h : Memory.wf s.mem = true) : NextWf (execPatbegin v s) := pageControl_wf h

theorem execPatend_wf {v : Half} {s : State} (h : Memory.wf s.mem = true) : NextWf (execPatend v s) := pageCommand_wf h

theorem execCrc_wf {v : Half} {s : State} (h : Memory.wf s.mem = true) : NextWf (execCrc v s) := pageControl_wf h

theorem execSucclo_wf {v : Half} {s : State} (h : Memory.wf s.mem = true) : NextWf (execSucclo v s) := pageControl_wf h

theorem execSucchi_wf {v : Half} {s : State} (h : Memory.wf s.mem = true) : NextWf (execSucchi v s) := pageControl_wf h

theorem execRect_wf {k : BitVec 4} {v : Half} {s : State} (h : Memory.wf s.mem = true) : NextWf (execRect k v s) := pageControl_wf h

theorem execElementFieldWrite_wf {e fld : Byte} {v : Half} {s : State} (h : Memory.wf s.mem = true) :
    NextWf (execElementFieldWrite e fld v s) := pageCommand_wf h

theorem execPgend_wf {v : Half} {s : State} (h : Memory.wf s.mem = true) : NextWf (execPgend v s) := by
  simp only [execPgend]
  (repeat' split) <;> simp [h]

@[simp] theorem State.endStream_wf {s : State} {r : Nat} (h : Memory.wf s.mem = true) : Memory.wf (State.endStream s r).mem = true := by
  simp [State.endStream, h]

@[simp] theorem State.refuseWindow_wf {s : State} {e : Byte} {fld : Nat} (h : Memory.wf s.mem = true) :
    Memory.wf (State.refuseWindow s e fld).mem = true := by
  simp [State.refuseWindow, h]

theorem windowCommand_wf {e fld : Byte} {v : Half} {act : State → State} {s : State} (h : Memory.wf s.mem = true)
    (ha : Memory.wf (act s).mem = true) : NextWf (windowCommand e fld v act s) := by
  simp [windowCommand, pageCommand_wf, ha, h]

theorem execWsel_wf {e : Byte} {v : Half} {s : State} (h : Memory.wf s.mem = true) : NextWf (execWsel e v s) := windowCommand_wf h h

theorem execWlo_wf {e : Byte} {v : Half} {s : State} (h : Memory.wf s.mem = true) : NextWf (execWlo e v s) := windowCommand_wf h h

theorem execWhi_wf {e : Byte} {v : Half} {s : State} (h : Memory.wf s.mem = true) : NextWf (execWhi e v s) := windowCommand_wf h h

theorem wctl_wf {e : Byte} {v : Half} {access : Bool} {act : State → Option State} {s : State} (h : Memory.wf s.mem = true)
    (ha : ∀ t, act s = some t → t.mem = s.mem) : NextWf (wctl e v access act s) := by
  refine windowCommand_wf h ?_
  split
  · exact State.refuseWindow_wf h
  · split
    · exact State.refuseWindow_wf h
    · next t e => simp [ha t e, h]

theorem execWctlNone_wf {e : Byte} {v : Half} {s : State} (h : Memory.wf s.mem = true) : NextWf (execWctlNone e v s) :=
  wctl_wf h fun t ht => by cases ht; rfl

theorem execWctlWrite_wf {e : Byte} {v : Half} {s : State} (h : Memory.wf s.mem = true) : NextWf (execWctlWrite e v s) :=
  wctl_wf h fun t ht => by
    obtain ⟨g, _, rfl⟩ := Option.map_eq_some_iff.mp ht
    rfl

theorem execWctlRead_wf {e : Byte} {v : Half} {s : State} (h : Memory.wf s.mem = true) : NextWf (execWctlRead e v s) :=
  wctl_wf h fun t ht => by
    cases ht
    simp

@[simp] theorem State.badCommand_wf {s : State} {b : DecodeError} {w : Word} (h : Memory.wf s.mem = true) :
    Memory.wf (State.badCommand s b w).mem = true := by
  simp [State.badCommand, h]

/-! The fabric -/

theorem execTokenDepart_wf {r e c : Nat} {s : State} (h : Memory.wf s.mem = true) : NextWf (execTokenDepart r e c s) := by
  simp only [execTokenDepart]
  split
  · split
    · exact h
    · split
      · exact h
      · rw [nextWf_next, foldl_mem fun _ _ => by split <;> simp]
        simpa using h
  · exact h

theorem execTokenArrival_wf {r e k : Nat} {s : State} (h : Memory.wf s.mem = true) : NextWf (execTokenArrival r e k s) := by
  simp only [execTokenArrival]
  (repeat' split) <;> simp [h]

theorem execSidePortCtrl_wf {r e : Nat} {s : State} (h : Memory.wf s.mem = true) : NextWf (execSidePortCtrl r e s) := by
  simp only [execSidePortCtrl]
  split <;> simp [h]

theorem execReqAbsorb_wf {r e k : Nat} {s : State} (h : Memory.wf s.mem = true) : NextWf (execReqAbsorb r e k s) := by
  simp only [execReqAbsorb]
  split <;> simp [h]

end Sys2Proof.Machine
end


section
/-!
SUPPORT. Memory stays canonical through the events of packets, graphs, loads and tasks.
-/
namespace Sys2Proof.Machine

/-! Packets and graphs -/

@[simp] theorem State.writeStatus_wf {s : State} {q k : Nat} {v : Byte} (h : Memory.wf s.mem = true) :
    Memory.wf (State.writeStatus s q k v).mem = true := by
  simp [State.writeStatus, h]

@[simp] theorem State.freeRegion_wf {s : State} {r : Nat} (h : Memory.wf s.mem = true) : Memory.wf (State.freeRegion s r).mem = true := by
  simp [State.freeRegion, h]

theorem State.freeRegions_wf (l : List (Nat × Nat)) {s : State} (h : Memory.wf s.mem = true) :
    Memory.wf (l.foldl (fun s e => s.freeRegion e.2) s).mem = true :=
  foldl_wf (fun _ _ => State.freeRegion_wf) l h

@[simp] theorem State.reserveRegion_wf {s : State} {r : Nat} (h : Memory.wf s.mem = true) :
    Memory.wf (State.reserveRegion s r).mem = true := by
  simp [State.reserveRegion, h]

@[simp] theorem State.removeLoad_wf {s : State} {ld : Nat} {keep : Bool} (h : Memory.wf s.mem = true) :
    Memory.wf (s.removeLoad ld keep).mem = true := by
  have hr : ∀ l : List Nat, Memory.wf (l.foldl (fun s r => if keep then s.reserveRegion r else s.freeRegion r) s).mem = true :=
    fun l => foldl_wf (fun t r ht => by simp [ht]) l h
  unfold State.removeLoad
  split <;> simp [hr, h]

@[simp] theorem State.abandonOne_wf {s : State} {q k : Nat} (h : Memory.wf s.mem = true) : Memory.wf (s.abandonOne q k).mem = true := by
  simp only [State.abandonOne]
  split
  · exact h
  · split
    · exact h
    · split
      · split <;> simp [State.freeRegions_wf, h]
      · simp [State.freeRegions_wf, h]

@[simp] theorem State.abandonPacket_wf {s : State} {q k : Nat} (h : Memory.wf s.mem = true) :
    Memory.wf (s.abandonPacket q k).mem = true :=
  foldl_wf (fun _ _ => State.abandonOne_wf) _ h

@[simp] theorem State.graphFault_wf {s : State} {q k i : Nat} {f : FaultRec} (h : Memory.wf s.mem = true) :
    Memory.wf (State.graphFault s q k i f).mem = true := by
  simp only [State.graphFault]
  split <;> simp [h]

@[simp] theorem State.readTable_wf {s : State} {part : BitVec 4} {gaddr : BitVec 64} {nload : Nat} {a : BitVec 64} {n : Nat}
    {acc : List (List Byte)} (h : Memory.wf s.mem = true) : Memory.wf (s.readTable part gaddr nload a n acc).2.mem = true := by
  induction n generalizing s a acc with
  | zero => exact h
  | succ n ih =>
    simp only [State.readTable]
    split
    · next e => exact State.wf_of_agentRead h e
    · next e =>
      have h1 := State.wf_of_agentRead h e
      split
      · exact h1
      · split
        · next e2 => exact State.wf_of_agentRead h1 e2
        · next e2 =>
          have h2 := State.wf_of_agentRead h1 e2
          split
          · exact h2
          · exact ih h2

@[simp] theorem State.enterLoad_wf {s : State} {q k i : Nat} (h : Memory.wf s.mem = true) : Memory.wf (s.enterLoad q k i).mem = true := by
  simp only [State.enterLoad]
  split
  · exact h
  · split <;> next e => simp [State.wf_of_agentRead h e]

@[simp] theorem State.startGraph_wf {s : State} {q k : Nat} (h : Memory.wf s.mem = true) : Memory.wf (s.startGraph q k).mem = true := by
  simp only [State.startGraph]
  split
  · exact h
  · split
    · next e => simp [State.wf_of_agentRead h e]
    · next e =>
      have h1 := State.wf_of_agentRead h e
      split
      · simp [h1]
      · split <;> next et => simp [et ▸ State.readTable_wf h1]

@[simp] theorem State.readPacket_wf {s : State} {q k : Nat} (h : Memory.wf s.mem = true) : Memory.wf (State.readPacket s q k).mem = true := by
  simp [State.readPacket, h]

theorem execPacketStart_wf {q k : Nat} {s : State} (h : Memory.wf s.mem = true) : NextWf (execPacketStart q k s) := by
  simp [execPacketStart, h]

@[simp] theorem State.trimKeep_wf {s : State} {q k : Nat} (h : Memory.wf s.mem = true) : Memory.wf (s.trimKeep q k).mem = true := by
  simp only [State.trimKeep]
  split <;> simp [State.freeRegions_wf, h]

@[simp] theorem State.trimIfEntered_wf {s : State} {q k : Nat} (h : Memory.wf s.mem = true) :
    Memory.wf (State.trimIfEntered s q k).mem = true := by
  unfold State.trimIfEntered
  split <;> simp [h]

@[simp] theorem State.chooseNext_wf {s : State} {q k i : Nat} (h : Memory.wf s.mem = true) : Memory.wf (s.chooseNext q k i).mem = true := by
  simp only [State.chooseNext]
  split
  · exact h
  · split
    · next e => simp [State.wf_of_agentRead h e]
    · next e =>
      have h1 := State.wf_of_agentRead h e
      split
      · simp [h1]
      · split
        · split <;> next e2 => simp [State.wf_of_agentRead h1 e2]
        · simp [h1]

@[simp] theorem State.stepGraph_wf {s : State} {q k : Nat} (h : Memory.wf s.mem = true) : Memory.wf (State.stepGraph s q k).mem = true := by
  unfold State.stepGraph
  split <;> simp [h]

/-! Loads -/

@[simp] theorem State.take_wf {s : State} {ld p r : Nat} {st : BitVec 4} (h : Memory.wf s.mem = true) :
    Memory.wf (State.take s ld p r st).mem = true := by
  simp [State.take, h]

@[simp] theorem State.unplace_wf {s : State} {ld : Nat} (h : Memory.wf s.mem = true) : Memory.wf (s.unplace ld).mem = true := by
  have hr : ∀ keep l : List Nat, Memory.wf (l.foldl (fun s r => if keep.contains r then s.reserveRegion r else s.freeRegion r) s).mem = true :=
    fun keep l => foldl_wf (fun t r ht => by simp [ht]) l h
  simp only [State.unplace]
  split
  · exact h
  · exact hr _ _

theorem State.loaderFetch_wf {s : State} {ld p : Nat} (h : Memory.wf s.mem = true) : (s.loaderFetch ld p).Wf := by
  simp only [State.loaderFetch]
  split
  · exact h
  · split
    · exact h
    · split
      · exact h
      · split
        · split
          · exact State.stopFault_wf h
          · split
            · next e => (repeat' split) <;> simp [Fetch.Wf, State.wf_of_agentRead h e]
            · next e => split <;> simp [Fetch.Wf, State.wf_of_agentRead h e]
        · exact h

@[simp] theorem State.loaderAfter_wf {s : State} {ld p : Nat} {w : Word} (h : Memory.wf s.mem = true) :
    Memory.wf (State.loaderAfter s ld p w).mem = true := by
  unfold State.loaderAfter
  (repeat' split) <;> simp [h]

@[simp] theorem State.pageStep_wf {s : State} {w : Word} (h : Memory.wf s.mem = true) : Memory.wf (s.pageStep w).mem = true := by
  unfold State.pageStep
  dsimp only
  split
  · exact State.badCommand_wf h
  · split
    · exact s.took_wf h (execPgbegin_wf h)
    · exact s.took_wf h (execPatbegin_wf h)
    · exact s.took_wf h (execPatend_wf h)
    · exact s.took_wf h (execCrc_wf h)
    · exact s.took_wf h (execSucclo_wf h)
    · exact s.took_wf h (execSucchi_wf h)
    · exact s.took_wf h (execPgend_wf h)
    · exact s.took_wf h (execRect_wf h)
    · exact s.took_wf h (execElementFieldWrite_wf h)
    · exact s.took_wf h (execWsel_wf h)
    · exact s.took_wf h (execWlo_wf h)
    · exact s.took_wf h (execWhi_wf h)
    · exact s.took_wf h (execWctlNone_wf h)
    · exact s.took_wf h (execWctlWrite_wf h)
    · exact s.took_wf h (execWctlRead_wf h)
    · exact h

@[simp] theorem State.readAhead_wf {ld n : Nat} {s : State} (h : Memory.wf s.mem = true) : Memory.wf (State.readAhead ld n s).mem = true := by
  induction n generalizing s with
  | zero => exact h
  | succ n ih =>
    simp only [State.readAhead]
    split
    · exact h
    · next p _ =>
      have hf := State.loaderFetch_wf (ld := ld) (p := p) h
      split
      · next e => rwa [e] at hf
      · next t r w e =>
        rw [e] at hf
        exact ih (State.loaderAfter_wf (State.pageStep_wf (s := { t with cur := ⟨r, 0, 0, false⟩ }) hf))

@[simp] theorem State.placeOn_wf {s : State} {ld : Nat} {l : Load} {rs : List Nat} (h : Memory.wf s.mem = true) :
    Memory.wf (s.placeOn ld l rs).mem = true := by
  simp only [State.placeOn, State.restoreConf_mem, State.setLoad_mem]
  exact foldl_wf (fun _ _ => State.take_wf) _ (by simp [h])

/-- A placement keeps memory canonical. -/
theorem State.wf_of_placeLoad {s t : State} {ld : Nat} (h : Memory.wf s.mem = true) (e : s.placeLoad ld = some t) :
    Memory.wf t.mem = true := by
  simp only [State.placeLoad] at e
  repeat' split at e
  all_goals cases e
  exact State.placeOn_wf h

@[simp] theorem State.activatePage_wf {s : State} {ld p r : Nat} {again : Bool} (h : Memory.wf s.mem = true) :
    Memory.wf (s.activatePage ld p r again).mem = true := by
  simp [State.activatePage, Mem.clearSpad_wf, h]

theorem execLoadActivation_wf {ld : Nat} {s : State} (h : Memory.wf s.mem = true) : NextWf (execLoadActivation ld s) := by
  simp only [execLoadActivation]
  split
  · exact h
  · next l _ =>
    have ha : ∀ es : List (Nat × Nat), Memory.wf (es.foldl (fun s e =>
        (s.closeRows e.1 false).activatePage ld e.2 e.1 (l.again || !(s.keepFor l).contains (e.2, e.1))) s).mem = true :=
      fun es => foldl_wf (fun t e ht => State.activatePage_wf (State.closeRows_wf ht)) es h
    split
    · split
      · simp [h]
      · rw [nextWf_ite]
        refine ⟨fun _ => by simp [h], fun _ => ?_⟩
        simp only [nextWf_next, State.onPacket_mem, State.setLoad_mem]
        exact foldl_wf (fun t e ht => State.activatePage_wf (State.closeRows_wf ht)) _ h
    · exact h

@[simp] theorem State.copyIn_wf {s : State} {stack : Nat} {part : BitVec 4} {n : Nat} {src : BitVec 64} {dst : Nat}
    (h : Memory.wf s.mem = true) : Memory.wf (s.copyIn stack part n src dst).1.mem = true := by
  induction n generalizing s src dst with
  | zero => exact h
  | succ n ih =>
    simp only [State.copyIn]
    split
    · next e => exact State.wf_of_agentRead h e
    · next e => exact ih (Mem.setFull_wf _ _ (State.immediate_wf (State.wf_of_agentRead h e)))

theorem execPreloadCopy_wf {ld i : Nat} {s : State} (h : Memory.wf s.mem = true) : NextWf (execPreloadCopy ld i s) := by
  simp only [execPreloadCopy]
  split
  · exact h
  · split
    · split <;> simp [h]
    · exact h

/-! Tasks -/

theorem execTileStart_wf {ld : Nat} {s : State} (h : Memory.wf s.mem = true) : NextWf (execTileStart ld s) := by
  simp only [execTileStart]
  split
  · exact h
  · split
    · exact (congrArg Memory.wf (foldl_onRegion_mem (fun _ r => r) _ _ _)).trans h
    · exact h

theorem execCommitPublish_wf {ld : Nat} {s : State} (h : Memory.wf s.mem = true) : NextWf (execCommitPublish ld s) := by
  unfold execCommitPublish
  (repeat' split) <;> simp [h]

theorem execTrigRelease_wf {q k : Nat} {s : State} (h : Memory.wf s.mem = true) : NextWf (execTrigRelease q k s) := by
  unfold execTrigRelease
  (repeat' split) <;> simp [h]

@[simp] theorem State.launchFault_wf {s : State} {a : Launch} {f : FaultRec} (h : Memory.wf s.mem = true) :
    Memory.wf (State.launchFault s a f).mem = true := by
  unfold State.launchFault
  split <;> simp [h]

@[simp] theorem State.appendPacket_wf {s : State} {a : Launch} {bs : List Byte} (h : Memory.wf s.mem = true) :
    Memory.wf (State.appendPacket s a bs).mem = true := by
  unfold State.appendPacket
  split <;> simp [h]

@[simp] theorem State.launchRead_wf {s : State} {a : Launch} (h : Memory.wf s.mem = true) : Memory.wf (s.launchRead a).mem = true := by
  simp only [State.launchRead]
  split
  · simp [h]
  · split <;> next e => simp [State.wf_of_agentRead h e]

theorem execLaunchAppend_wf {n : Nat} {s : State} (h : Memory.wf s.mem = true) : NextWf (execLaunchAppend n s) := by
  simp only [execLaunchAppend]
  (repeat' split) <;> simp [h]

theorem execLoadComplete_wf {ld : Nat} {s : State} (h : Memory.wf s.mem = true) : NextWf (execLoadComplete ld s) := by
  simp only [execLoadComplete]
  split
  · exact h
  · split
    · exact State.prune_wf (State.chooseNext_wf (by simp [h]))
    · exact h

theorem execPacketFinish_wf {q k : Nat} {s : State} (h : Memory.wf s.mem = true) : NextWf (execPacketFinish q k s) := by
  unfold execPacketFinish
  split <;> simp [h]

@[simp] theorem State.restartLoad_wf {s : State} {ld : Nat} {l : Load} (h : Memory.wf s.mem = true) :
    Memory.wf (s.restartLoad ld l).mem = true := by
  have hc : ∀ (f : Region → Region) (rs : List Nat),
      Memory.wf (rs.foldl (fun s r => (s.closeRows r false).onRegion r f) s).mem = true :=
    fun f rs => foldl_wf (fun t r ht => by simp [ht]) rs h
  have hf : ∀ (rs : List Nat) (t : State), Memory.wf t.mem = true → Memory.wf (rs.foldl State.freeRegion t).mem = true :=
    fun rs t ht => foldl_wf (fun _ _ => State.freeRegion_wf) rs ht
  simp [State.restartLoad, hc, hf]

theorem execTaskStop_wf {ld : Nat} {s : State} (h : Memory.wf s.mem = true) : NextWf (execTaskStop ld s) := by
  have hr : ∀ (fs : List FaultRec) (t : State), Memory.wf t.mem = true → Memory.wf (fs.foldl (fun s f => s.loadRecord ld f) t).mem = true :=
    fun fs t ht => foldl_wf (fun _ _ => State.loadRecord_wf) fs ht
  simp only [execTaskStop]
  split
  · exact h
  · next l _ =>
    split
    · split
      · have hl := State.removeLoad_wf (ld := ld) (keep := false) (hr l.frecs s h)
        exact State.prune_wf (by simpa using hl)
      · exact h
    · split
      · simp [h]
      · split
        · have h3 := hr l.frecs { s.stand l with mmu := { (s.stand l).mmu with replay := (s.stand l).mmu.replay.filter fun p => p.load != ld } }
            (by simpa using h)
          split
          · exact State.prune_wf h3
          · exact State.abandonPacket_wf (State.prune_wf h3)
        · exact h

@[simp] theorem State.askRestart_wf {s : State} {ld : Nat} {l : Load} (h : Memory.wf s.mem = true) :
    Memory.wf (State.askRestart s ld l).mem = true := by
  simp [State.askRestart, h]

theorem execQfcmdRestart_wf {q : Nat} {s : State} (h : Memory.wf s.mem = true) : NextWf (execQfcmdRestart q s) :=
  fromHost_wf h fun _ ht => foldl_wf (fun t k ht => by simp [ht]) _ (foldl_wf (fun _ _ => State.askRestart_wf) _ ht)

theorem execQfcmdAbandon_wf {q : Nat} {s : State} (h : Memory.wf s.mem = true) : NextWf (execQfcmdAbandon q s) :=
  fromHost_wf h fun _ ht => foldl_wf (fun _ _ => State.abandonPacket_wf) _ ht

theorem execQfcmdResume_wf {q : Nat} {s : State} (h : Memory.wf s.mem = true) : NextWf (execQfcmdResume q s) :=
  fromHost_wf h fun _ ht => by simpa using ht

end Sys2Proof.Machine
end


section
/-!
SUPPORT. Memory stays canonical through the engines and the blocks.
-/
namespace Sys2Proof.Machine

/-! Engines -/

@[simp] theorem State.raiseEng_wf {s : State} {st : Start} {f : FaultRec} (h : Memory.wf s.mem = true) :
    Memory.wf (State.raiseEng s st f).mem = true := by
  simp [State.raiseEng, h]

@[simp] theorem State.failCopy_wf {s : State} {x ch : Nat} {st : Start} {b : Bad} {a : BitVec 64} (h : Memory.wf s.mem = true) :
    Memory.wf (State.failCopy s x ch st b a).mem = true := by
  unfold State.failCopy
  split <;> simp [h]

theorem State.engReadPage_wf {s : State} {x : Nat} {c : Copy} {va : BitVec 64} {n : Nat} (h : Memory.wf s.mem = true) :
    (s.engReadPage x c va n).Wf := by
  simp only [State.engReadPage]
  split
  · next e => exact State.wf_of_translate h e
  · next e => (repeat' split) <;> simp [Got.Wf, State.wf_of_translate h e]

theorem State.engRead_wf {s : State} {x : Nat} {c : Copy} {va : BitVec 64} {n : Nat} (h : Memory.wf s.mem = true) :
    (s.engRead x c va n).Wf := by
  simp only [State.engRead]
  split
  · exact State.engReadPage_wf h
  · have hp := State.engReadPage_wf (x := x) (c := c) (va := va) (n := 0x10000 - va.toNat % 0x10000) h
    generalize s.engReadPage x c va _ = g at hp ⊢
    cases g with
    | ok s1 bs =>
      have hq := State.engReadPage_wf (x := x) (c := c) (va := va + BitVec.ofNat 64 (0x10000 - va.toNat % 0x10000))
        (n := n - (0x10000 - va.toNat % 0x10000)) hp
      dsimp only
      generalize s1.engReadPage x c _ _ = g at hq ⊢
      cases g <;> exact hq
    | bad s1 b a | pause | away s1 p a n => exact hp

theorem State.engReadMany_wf {s : State} {x : Nat} {c : Copy} {f : Nat} {va : BitVec 64} {n : Nat} {acc : List Byte}
    (h : Memory.wf s.mem = true) : (s.engReadMany x c f va n acc).Wf := by
  induction f generalizing s va n acc with
  | zero => exact h
  | succ f ih =>
    simp only [State.engReadMany]
    split
    · exact h
    · have hr := State.engRead_wf (x := x) (c := c) (va := va) (n := Nat.min 16 n) h
      generalize s.engRead x c va _ = g at hr ⊢
      cases g with
      | ok s1 bs => exact ih hr
      | bad s1 b a | pause | away s1 p a n => exact hr

/-- Every state that passing over lines leaves has canonical memory. -/
def SkipWf : Except Got (State × BitVec 64) → Prop
  | .error g => g.Wf
  | .ok (s, _) => Memory.wf s.mem = true

theorem State.skipLines_wf {s : State} {x : Nat} {c : Copy} {n : Nat} {a : BitVec 64} (h : Memory.wf s.mem = true) :
    SkipWf (s.skipLines x c n a) := by
  induction n generalizing s a with
  | zero => exact h
  | succ n ih =>
    have hr := State.engRead_wf (x := x) (c := c) (va := a) (n := 16) h
    simp only [State.skipLines]
    generalize s.engRead x c a 16 = g at hr ⊢
    cases g with
    | ok s1 bs =>
      dsimp only
      split
      · exact ih hr
      · exact hr
    | bad s1 b a | pause | away s1 p a n => exact hr

theorem State.decodeLine_wf {s : State} {x : Nat} {c : Copy} {xform : Nat} {n : Int} (h : Memory.wf s.mem = true) :
    (s.decodeLine x c xform n).Wf := by
  have hr := State.engReadMany_wf (x := x) (c := c) (f := 4) (va := c.tpl.getD 0 0) (n := 64) (acc := []) h
  simp only [State.decodeLine]
  generalize s.engReadMany x c 4 _ 64 [] = g at hr ⊢
  cases g with
  | bad s1 b a | pause | away s1 p a n => exact hr
  | ok s1 r =>
    dsimp only
    split
    · exact hr
    · split
      · exact hr
      · generalize hva : BitVec.ofNat 64 (fieldAt r 16 8 + 4 * (n.toNat / fieldAt r 24 4)) = va
        have h2 := State.engRead_wf (x := x) (c := c) (va := va) (n := 4) hr
        generalize s1.engRead x c va 4 = g at h2 ⊢
        cases g with
        | bad s2 b a | pause | away s2 p a n => exact h2
        | ok s2 o =>
          have h3 := State.skipLines_wf (x := x) (c := c) (n := n.toNat % fieldAt r 24 4)
            (a := BitVec.ofNat 64 (fieldAt r 8 8 + 16 * leNat o)) h2
          dsimp only
          split
          · next e => rwa [e] at h3
          · next s3 a e =>
            rw [e] at h3
            have h4 := State.engRead_wf (x := x) (c := c) (va := a) (n := 16) h3
            generalize s3.engRead x c a 16 = g at h4 ⊢
            cases g with
            | bad s1 b a | pause | away s1 p a n => exact h4
            | ok s4 hd =>
              dsimp only
              split
              · have h5 := State.engReadMany_wf (x := x) (c := c) (f := 7) (va := a + 16) (n := lineSize hd - 16) (acc := []) h4
                generalize s4.engReadMany x c 7 _ _ [] = g at h5 ⊢
                cases g <;> exact h5
              · exact h4

theorem State.element_wf {s : State} {x : Nat} {c : Copy} {n : Nat} (h : Memory.wf s.mem = true) : (s.element x c n).Wf := by
  simp only [State.element]
  split
  · exact h
  · split
    · exact State.engRead_wf h
    · exact State.decodeLine_wf h

@[simp] theorem State.takeCopy_wf {s : State} {x ch : Nat} {t : List (BitVec 64)} {c : Channel} {st : Start} (h : Memory.wf s.mem = true) :
    Memory.wf (State.takeCopy s x ch t c st).mem = true := h

theorem execCopyAccept_wf {x ch : Nat} {s : State} (h : Memory.wf s.mem = true) : NextWf (execCopyAccept x ch s) := by
  simp only [execCopyAccept]
  (repeat' split) <;> simp [h]

/-- Every state that the translations of a write's pieces leave has canonical memory. -/
def PlacesWf : Except (State × Bad × BitVec 64) (State × List (Phys × List Host.Cell)) → Prop
  | .error (s, _, _) => Memory.wf s.mem = true
  | .ok (s, _) => Memory.wf s.mem = true

theorem State.engPlaces_wf {s : State} {x : Nat} {c : Copy} {ws : List (List Host.Cell)} (h : Memory.wf s.mem = true) :
    PlacesWf (s.engPlaces x c ws) := by
  induction ws generalizing s with
  | nil => exact h
  | cons w ws ih =>
    simp only [State.engPlaces]
    split
    · next e => exact State.wf_of_translate h e
    · next e =>
      have hp := ih (State.wf_of_translate h e)
      split <;> next e1 => rwa [e1] at hp

@[simp] theorem State.spadWrite_wf {s : State} {c : Copy} {cells : List Host.Cell} (h : Memory.wf s.mem = true) :
    Memory.wf (s.spadWrite c cells).1.mem = true :=
  Mem.foldl_setFull_wf cells (State.immediate_wf h)

theorem State.engStore_wf {s : State} {x ch : Nat} {c : Copy} {va : BitVec 64} {p : Phys} {cells : List Host.Cell}
    (h : Memory.wf s.mem = true) : (s.engStore x ch c va p cells).Wf := by
  simp only [State.engStore]
  split
  · exact State.spadWrite_wf h
  · split
    · exact h
    · exact State.immediate_wf h
  · exact foldl_wf (fun _ _ ht => by simpa using ht) _ h
  · exact h
  · exact h
  · exact h
  · exact State.immediate_wf h

theorem State.engWrite_wf {s : State} {x ch : Nat} {c : Copy} {w : List Host.Cell} (h : Memory.wf s.mem = true) :
    (s.engWrite x ch c w).Wf := by
  unfold State.engWrite
  dsimp only
  generalize hp : s.engPlaces x c _ = places
  have hw : PlacesWf places := hp ▸ State.engPlaces_wf h
  split
  · split <;> exact hw
  · next s1 ps =>
    have h1 : Memory.wf s1.mem = true := hw
    have hc : Memory.wf (ps.foldl (fun s p => s.copyCross x c (c.moved p.1) (p.2.map (·.2)) none) s1).mem = true := by simpa using h1
    split
    · exact h1
    · split
      · exact h1
      · split
        · trivial
        · split
          · exact State.spadWrite_wf hc
          · split
            · exact State.engStore_wf hc
            · exact hc

@[simp] theorem State.spillRecord_wf {s : State} {x ch : Nat} {c : Copy} {va : BitVec 64} (h : Memory.wf s.mem = true) :
    Memory.wf (s.spillRecord x ch c va).mem = true :=
  State.notePark_wf h (by simp [h])

/-- A write that goes to the spill buffer keeps memory canonical. -/
theorem State.wf_of_spillWrite {s t : State} {x ch : Nat} {c d : Copy} {va : BitVec 64} {w : List Host.Cell} (h : Memory.wf s.mem = true)
    (e : s.spillWrite x ch c va w = some (t, d)) : Memory.wf t.mem = true := by
  simp only [State.spillWrite] at e
  split at e <;> cases e
  exact State.spillRecord_wf h

/-- Every state that the writing of an element's pieces leaves has canonical memory. -/
def PiecesWf : Except (State × Bad × BitVec 64) (Option (State × Copy)) → Prop
  | .error (s, _, _) => Memory.wf s.mem = true
  | .ok (some (s, _)) => Memory.wf s.mem = true
  | .ok none => True

theorem State.putPieces_wf {s : State} {x ch : Nat} {c : Copy} {ws : List (List Host.Cell)} (h : Memory.wf s.mem = true) :
    PiecesWf (s.putPieces x ch c ws) := by
  induction ws generalizing s c with
  | nil => exact h
  | cons w ws ih =>
    simp only [State.putPieces]
    have hspill : ∀ (s1 : State) (a : BitVec 64), Memory.wf s1.mem = true → PiecesWf
        (match s1.spillWrite x ch c a w with
          | none => .ok none
          | some (s2, c2) => s2.putPieces x ch c2 ws) := fun s1 a h1 => by
      split
      · trivial
      · next e => exact ih (State.wf_of_spillWrite h1 e)
    cases w.find? fun b => c.spill.any fun e => e.page == b.1 / 0x10000 with
    | some b => exact hspill s _ h
    | none =>
      have hw := State.engWrite_wf (x := x) (ch := ch) (c := c) (w := w) h
      dsimp only
      generalize s.engWrite x ch c w = put at hw ⊢
      cases put with
      | ok s1 c1 => exact ih hw
      | bad s1 b a => exact hw
      | pause => trivial
      | park s1 a => exact hspill s1 a hw

theorem State.deliver_wf {s : State} {x ch : Nat} {c : Copy} {va : BitVec 64} {bs : List Byte} (h : Memory.wf s.mem = true) :
    PiecesWf (s.deliver x ch c va bs) := by
  simp only [State.deliver]
  split <;> exact State.putPieces_wf h

theorem execCopyElement_wf {x ch : Nat} {s : State} (h : Memory.wf s.mem = true) : NextWf (execCopyElement x ch s) := by
  simp only [execCopyElement]
  split
  · exact h
  · next c _ =>
    split
    · simpa using h
    · split
      · exact h
      · have hg := State.element_wf (x := x) (c := c) (n := c.pos) h
        generalize s.element x c c.pos = g at hg ⊢
        cases g with
        | pause => exact h
        | away s1 p a n => simpa [Got.Wf] using hg
        | bad s1 b a =>
          have hp := State.putPieces_wf (x := x) (ch := ch) (c := { c with hand := [] }) (ws := if c.hand.isEmpty then [] else [c.hand]) hg
          dsimp only
          split
          · next e => exact State.failCopy_wf (by rwa [e] at hp)
          · exact h
          · next e => exact State.failCopy_wf (by rw [e] at hp; simpa [PiecesWf] using hp)
        | ok s1 bs =>
          dsimp only
          split
          · simpa [Got.Wf] using hg
          · have hd := State.deliver_wf (x := x) (ch := ch) (c := { c with pos := c.pos + 1, got := [] }) (va := c.target c.pos) (bs := bs) hg
            split
            · next e => exact State.failCopy_wf (by rwa [e] at hd)
            · exact h
            · next e => rw [e] at hd; simpa [PiecesWf] using hd

theorem execDfabPush_wf {x ch : Nat} {s : State} (h : Memory.wf s.mem = true) : NextWf (execDfabPush x ch s) := by
  simp only [execDfabPush]
  (repeat' split) <;> simp [h]

theorem execCopyCompletion_wf {x ch : Nat} {s : State} (h : Memory.wf s.mem = true) : NextWf (execCopyCompletion x ch s) := by
  simp only [execCopyCompletion]
  split
  · exact h
  · split
    · exact h
    · split
      · simpa using h
      · split
        · next e => simp [State.wf_of_translate h e]
        · next e =>
          have ht := State.wf_of_translate h e
          (repeat' split) <;> simp [Mem.setFull_wf, ht, h]

@[simp] theorem State.putBack_wf {s : State} {k : Nat} {running : Bool} {old c : Copy} {fault : Option (Bad × BitVec 64)} (h : Memory.wf s.mem = true) :
    Memory.wf (State.putBack s k running old c fault).mem = true := by
  unfold State.putBack
  (repeat' split) <;> simp [h]

@[simp] theorem State.replayLoop_wf {part : BitVec 4} {page f : Nat} {s : State} (h : Memory.wf s.mem = true) :
    Memory.wf (State.replayLoop part page f s).mem = true := by
  induction f generalizing s with
  | zero => exact h
  | succ f ih =>
    simp only [State.replayLoop]
    split
    · simpa using h
    · next k c e _ =>
      split
      · exact h
      · have hw := State.engWrite_wf (x := k / 64) (ch := k % 64) (c := c) (w := e.cells) h
        generalize s.engWrite (k / 64) (k % 64) c e.cells = put at hw ⊢
        cases put with
        | ok s1 c1 => exact ih (State.putBack_wf hw)
        | bad s1 b a => exact ih (State.putBack_wf hw)
        | pause => exact h
        | park s1 a =>
          have hp := State.spillRecord_wf (x := k / 64) (ch := k % 64) (c := c) (va := a) hw
          dsimp only
          split
          · simp [hp]
          · exact ih (State.putBack_wf hp)

@[simp] theorem State.replayPage_wf {s : State} {part : BitVec 4} {page : Nat} (h : Memory.wf s.mem = true) :
    Memory.wf (s.replayPage part page).mem = true := State.replayLoop_wf h

@[simp] theorem State.replayDue_wf {s : State} (h : Memory.wf s.mem = true) : Memory.wf s.replayDue.mem = true :=
  foldl_wf (fun _ _ => State.replayLoop_wf) _ h

@[simp] theorem State.dropPage_wf {s : State} {part : BitVec 4} {page : Nat} (h : Memory.wf s.mem = true) :
    Memory.wf (s.dropPage part page).mem = true :=
  foldl_wf (fun _ _ => State.putBack_wf) _ (by simpa using h)

@[simp] theorem State.copyAnswer_wf {s : State} {p : Remote} {status : Byte} {data : List Byte} (h : Memory.wf s.mem = true) :
    Memory.wf (State.copyAnswer s p status data).mem = true := by
  simp only [State.copyAnswer]
  split <;> simp [h]

@[simp] theorem State.copyLoses_wf {s : State} {p : Remote} {b : Bad} (h : Memory.wf s.mem = true) :
    Memory.wf (State.copyLoses s p b).mem = true := by
  simp only [State.copyLoses]
  split <;> simp [h]

/-! Praline -/

@[simp] theorem State.pralineFault_wf {s : State} {r : Nat} {det : Byte} {sl : Nat} {a : BitVec 64} (h : Memory.wf s.mem = true) :
    Memory.wf (State.pralineFault s r det sl a).mem = true := by
  simp [State.pralineFault, h]

@[simp] theorem State.readLine_wf {s : State} {r : Nat} {a : BitVec 64} (h : Memory.wf s.mem = true) :
    Memory.wf (s.readLine r a).2.mem = true := by
  simp only [State.readLine]
  split
  · next e => exact State.wf_of_translate h e
  · next e =>
    have ht := State.wf_of_translate h e
    repeat' split
    all_goals exact ht

@[simp] theorem State.linesCross_mem (s t : State) (r : Nat) (bs : List Byte) (n : Nat) (a : BitVec 64) :
    (s.linesCross t r bs n a).mem = s.mem := by
  induction n generalizing s t bs a with
  | zero => rfl
  | succ n ih =>
    simp only [State.linesCross]
    split <;> simp [ih]

@[simp] theorem State.readLines_wf {s : State} {r n : Nat} {a : BitVec 64} (h : Memory.wf s.mem = true) :
    Memory.wf (s.readLines r n a).2.mem = true := by
  induction n generalizing s a with
  | zero => exact h
  | succ n ih => exact ih (State.readLine_wf h)

@[simp] theorem State.seqGo_wf {s : State} {r : Nat} {a : BitVec 64} {next : Nat} (h : Memory.wf s.mem = true) :
    Memory.wf (State.seqGo s r a next).mem = true := by
  simp [State.seqGo, h]

@[simp] theorem State.seqNext_wf {s : State} {r : Nat} {b : BlockHdr} {next : Nat} (h : Memory.wf s.mem = true) :
    Memory.wf (State.seqNext s r b next).mem = true := by
  simp [State.seqNext, h]

@[simp] theorem State.parkSeq_wf {s : State} {r : Nat} {a : BitVec 64} (h : Memory.wf s.mem = true) :
    Memory.wf (State.parkSeq s r a).mem = true := by
  simp [State.parkSeq, h]

@[simp] theorem State.fetchBlock_wf {s0 : State} {r : Nat} (h : Memory.wf s0.mem = true) : Memory.wf (s0.fetchBlock r).mem = true := by
  have hs : Memory.wf (if s0.continues r then s0.onSeq r fun q => { q with cont := true } else s0).mem = true := by simp [h]
  unfold State.fetchBlock
  generalize (if s0.continues r then s0.onSeq r fun q => { q with cont := true } else s0) = s at hs
  dsimp only
  generalize ht : s.readLines r _ _ = t
  have h1 : Memory.wf t.2.mem = true := ht ▸ State.readLines_wf hs
  split
  · exact hs
  · split
    · (repeat' split) <;> simp [h1]
    · split
      · simp [h1]
      · (repeat' split) <;> simp [h1]

@[simp] theorem State.seqWrites_wf {s : State} {r : Nat} {b : BlockHdr} {done all : Nat} (h : Memory.wf s.mem = true) :
    Memory.wf (State.seqWrites s r b done all).mem = true := by
  simp [State.seqWrites, h]

@[simp] theorem State.loadPiece_wf {s : State} {r : Nat} {b : BlockHdr} {k : Nat} (h : Memory.wf s.mem = true) :
    Memory.wf (State.loadPiece s r b k).mem = true := by
  simp [State.loadPiece, h]

@[simp] theorem State.scalePiece_wf {s : State} {r : Nat} {b : BlockHdr} {k : Nat} (h : Memory.wf s.mem = true) :
    Memory.wf (State.scalePiece s r b k).mem = true := by
  simp [State.scalePiece, h]

theorem execLoads_wf {b : BlockHdr} {s : State} (h : Memory.wf s.mem = true) : NextWf (execLoads b s) :=
  runBlock_wf h fun _ _ => State.loadPiece_wf h

theorem execSetscale_wf {b : BlockHdr} {s : State} (h : Memory.wf s.mem = true) : NextWf (execSetscale b s) :=
  runBlock_wf h fun _ _ => State.scalePiece_wf h

theorem execPralineFetch_wf {r : Nat} {s : State} (h : Memory.wf s.mem = true) : NextWf (execPralineFetch r s) := by
  simp only [execPralineFetch]
  (repeat' split) <;> simp [h]

theorem execStream_wf {b : BlockHdr} {s : State} (h : Memory.wf s.mem = true) : NextWf (execStream b s) :=
  runBlock_wf h fun _ _ => h

theorem execStreamBlockPush_wf {r : Nat} {s : State} (h : Memory.wf s.mem = true) : NextWf (execStreamBlockPush r s) := by
  simp only [execStreamBlockPush]
  split <;> simp [h]

theorem execContract_wf {b : BlockHdr} {s : State} (h : Memory.wf s.mem = true) : NextWf (execContract b s) :=
  runBlock_wf h fun g r => by
    dsimp only
    split <;> simp [h]

theorem execZero_wf {b : BlockHdr} {s : State} (h : Memory.wf s.mem = true) : NextWf (execZero b s) :=
  runBlock_wf h fun _ _ => State.seqNext_wf h

theorem execDrain_wf {b : BlockHdr} {s : State} (h : Memory.wf s.mem = true) : NextWf (execDrain b s) :=
  runBlock_wf h fun _ _ => h

theorem execSync_wf {b : BlockHdr} {s : State} (h : Memory.wf s.mem = true) : NextWf (execSync b s) :=
  runBlock_wf h fun g r => by (repeat' split) <;> simp [h]

theorem execJump_wf {b : BlockHdr} {s : State} (h : Memory.wf s.mem = true) : NextWf (execJump b s) :=
  runBlock_wf h fun _ _ => State.seqNext_wf h

@[simp] theorem State.branch_wf {s : State} {r : Nat} {b : BlockHdr} {w : Nat} (h : Memory.wf s.mem = true) :
    Memory.wf (State.branch s r b w).mem = true := by
  simp [State.branch, h]

theorem execJumpif_wf {b : BlockHdr} {s : State} (h : Memory.wf s.mem = true) : NextWf (execJumpif b s) :=
  runBlock_wf h fun g r => by
    dsimp only
    split
    · next e => simp [State.wf_of_translate h e]
    · next p s1 e =>
      have ht := State.wf_of_translate h e
      have hc : Memory.wf (s1.fetchCross r p false (leBytes 8 p.addr)).mem = true := by simpa using ht
      generalize s1.fetchCross r p false (leBytes 8 p.addr) = s2 at hc
      have hl := State.performLoad_wf (r := r) (e := 0) (id := 0) (ph := s2.phaseOf r) (opc := 0xC0) (f := fieldsOf 0) (p := p) (n := 4) hc
      split
      · simp [ht]
      · split
        · exact ht
        · split <;> simp_all [Perf.Wf]

@[simp] theorem State.seqAnswer_wf {s : State} {r : Nat} {status : Byte} {data : List Byte} (h : Memory.wf s.mem = true) :
    Memory.wf (State.seqAnswer s r status data).mem = true := by
  simp only [State.seqAnswer]
  split <;> simp [h]

theorem execCallt_wf {b : BlockHdr} {s : State} (h : Memory.wf s.mem = true) : NextWf (execCallt b s) :=
  runBlock_wf h fun g r => by simp [h]

theorem execRett_wf {b : BlockHdr} {s : State} (h : Memory.wf s.mem = true) : NextWf (execRett b s) :=
  runBlock_wf h fun g r => by split <;> simp [h]

theorem execEndBlk_wf {b : BlockHdr} {s : State} (h : Memory.wf s.mem = true) : NextWf (execEndBlk b s) :=
  runBlock_wf h fun g r => by
    dsimp only
    split <;> simp [h]

end Sys2Proof.Machine
end


section
/-!
SUPPORT. Memory stays canonical through scheduling, the service of requests, the hub, the links and power.
-/
namespace Sys2Proof.Machine

/-! Scheduling -/

@[simp] theorem State.requestStop_wf {s : State} {ld : Nat} (h : Memory.wf s.mem = true) : Memory.wf (s.requestStop ld).mem = true := by
  simp only [State.requestStop]
  split
  · exact h
  · split
    · exact h
    · split <;> simp [h]

@[simp] theorem State.claimStop_wf {s : State} {ld : Nat} (h : Memory.wf s.mem = true) : Memory.wf (State.claimStop s ld).mem = true := by
  unfold State.claimStop
  split <;> simp [h]

@[simp] theorem State.claimRunning_wf {s : State} {ld n : Nat} {ls : List (Nat × Load)} (h : Memory.wf s.mem = true) :
    Memory.wf (s.claimRunning ld n ls).mem = true := by
  induction ls generalizing s n with
  | nil => exact h
  | cons p ls ih =>
    simp only [State.claimRunning]
    split
    · exact h
    · exact ih (by simp [h])

@[simp] theorem State.claim_wf {s : State} {ld : Nat} {l : Load} (h : Memory.wf s.mem = true) : Memory.wf (s.claim ld l).mem = true := by
  simp [State.claim, h]

/-- Taking regions back keeps memory canonical. -/
theorem State.wf_of_takeBack {s t : State} {ld : Nat} {l : Load} (h : Memory.wf s.mem = true) (e : s.takeBack ld l = some t) :
    Memory.wf t.mem = true := by
  simp only [State.takeBack] at e
  repeat' split at e
  all_goals cases e
  · simpa using h
  · rw [State.setLoad_mem]
    exact foldl_wf (fun _ _ => State.take_wf) _ (by simp [h])

@[simp] theorem State.seat_wf {s : State} {q : Nat} (h : Memory.wf s.mem = true) : Memory.wf (s.seat q).mem = true := by
  simp only [State.seat]
  split
  · exact h
  · split
    · next e =>
      split at e
      · simp [State.wf_of_placeLoad h e]
      · simp [State.wf_of_takeBack h e]
    · simp [h]

theorem execLoadPlacement_wf {ld : Nat} {s : State} (h : Memory.wf s.mem = true) : NextWf (execLoadPlacement ld s) := by
  unfold execLoadPlacement
  split <;> simp [h]

theorem execLotteryDraw_wf {s : State} (h : Memory.wf s.mem = true) : NextWf (execLotteryDraw s) := by
  simp only [execLotteryDraw]
  (repeat' split) <;> simp [h]

theorem execSchedSeedWrite_wf {v : BitVec 64} {s : State} (h : Memory.wf s.mem = true) : NextWf (execSchedSeedWrite v s) := by
  unfold execSchedSeedWrite
  exact fromHost_wf h fun _ ht => ht

@[simp] theorem State.stoppedNow_wf {s : State} {r : Nat} (h : Memory.wf s.mem = true) : Memory.wf (State.stoppedNow s r).mem = true := by
  unfold State.stoppedNow
  (repeat' split) <;> simp [h]

@[simp] theorem State.stopRegion_wf {s : State} {r : Nat} {live : BitVec 16} (h : Memory.wf s.mem = true) :
    Memory.wf (State.stopRegion s r live).mem = true := by
  simp [State.stopRegion, h]

theorem execPreemptRequest_wf {ld : Nat} {s : State} (h : Memory.wf s.mem = true) : NextWf (execPreemptRequest ld s) := by
  unfold execPreemptRequest
  split <;> simp [h]

theorem execRegionStop_wf {r : Nat} {s : State} (h : Memory.wf s.mem = true) : NextWf (execRegionStop r s) := by
  simp [execRegionStop, h]

theorem execPreptFallback_wf {r : Nat} {s : State} (h : Memory.wf s.mem = true) : NextWf (execPreptFallback r s) := by
  simp [execPreptFallback, h]

@[simp] theorem State.endCycle_wf {s : State} (h : Memory.wf s.mem = true) : Memory.wf s.endCycle.mem = true :=
  foldl_wf (fun t g ht => by split <;> simp [ht]) _ (State.replayDue_wf h)

@[simp] theorem State.holdCopies_wf {s : State} {r : Nat} (h : Memory.wf s.mem = true) : Memory.wf (State.holdCopies s r).mem = true := h

@[simp] theorem State.writeImage_wf {s : State} {v : SaveSlot} {r : Nat} (h : Memory.wf s.mem = true) :
    Memory.wf (State.writeImage s v r).mem = true := by
  simp [State.writeImage, h]

theorem execScanOut_wf {r : Nat} {s : State} (h : Memory.wf s.mem = true) : NextWf (execScanOut r s) := by
  simp only [execScanOut]
  (repeat' split) <;> simp [h]

@[simp] theorem State.scanIn_wf {s : State} {saved : SaveSlot} {r : Nat} (h : Memory.wf s.mem = true) :
    Memory.wf (s.scanIn saved r).mem = true := by
  simp only [State.scanIn, State.releaseCopies_mem, State.renameRegion_mem, Memory.wf_mk, Memory.cellsWf_bytes]
  refine Mem.foldl_wf (fun m c => m.write_wf _ _) _ ?_
  exact cellsWf_filter _ (Mem.clearSpad_wf r h)

theorem execLoadResume_wf {ld : Nat} {s : State} (h : Memory.wf s.mem = true) : NextWf (execLoadResume ld s) := by
  simp only [execLoadResume]
  split
  · exact h
  · split
    · split
      · simp [h]
      · split
        all_goals
          simp only [nextWf_next, State.setLoad_mem, foldl_onRegion_mem, State.settleNames_mem]
          exact foldl_wf (fun t v ht => by split <;> simp [ht]) _ h
    · exact h

theorem execBudgetExhaust_wf {q : Nat} {s : State} (h : Memory.wf s.mem = true) : NextWf (execBudgetExhaust q s) := by
  simp only [execBudgetExhaust]
  split
  · exact h
  · split
    · exact foldl_wf (fun t p ht => by simp [ht]) _ (by simp [h])
    · exact h

theorem execBudgetPeriodStart_wf {s : State} (h : Memory.wf s.mem = true) : NextWf (execBudgetPeriodStart s) := by
  simp [execBudgetPeriodStart, h]

theorem execNpIntervalEnd_wf {ld : Nat} {s : State} (h : Memory.wf s.mem = true) : NextWf (execNpIntervalEnd ld s) := by
  unfold execNpIntervalEnd
  split <;> simp [h]

theorem execQtailWrite_wf {q : Nat} {v : Word} {s : State} (h : Memory.wf s.mem = true) : NextWf (execQtailWrite q v s) :=
  fromHost_wf h fun _ ht => by simp [ht]

theorem execQcmdStop_wf {q : Nat} {s : State} (h : Memory.wf s.mem = true) : NextWf (execQcmdStop q s) :=
  fromHost_wf h fun _ ht => foldl_wf (fun _ _ => State.requestStop_wf) _ (by simp [ht])

theorem execQcmdResume_wf {q : Nat} {s : State} (h : Memory.wf s.mem = true) : NextWf (execQcmdResume q s) :=
  fromHost_wf h fun _ ht => by simp [ht]

/-! The service of another device's requests -/

theorem execMmuInvGo_wf {v : BitVec 64} {s : State} (h : Memory.wf s.mem = true) : NextWf (execMmuInvGo v s) :=
  fromHost_wf h fun _ ht => by simp [ht]

theorem execMmuInvComplete_wf {s : State} (h : Memory.wf s.mem = true) : NextWf (execMmuInvComplete s) := by
  simp [execMmuInvComplete, h]

@[simp] theorem State.replayStore_wf {s : State} {q : Replay} (h : Memory.wf s.mem = true) : Memory.wf (s.replayStore q).mem = true := by
  simp only [State.replayStore]
  split
  · exact h
  · split
    · exact h
    · split <;> next e => simp [State.wf_of_translate h e]

@[simp] theorem State.replayList_wf {s : State} {qs : List Replay} {held : List (BitVec 4 × Nat)} (h : Memory.wf s.mem = true) :
    Memory.wf (s.replayList qs held).mem = true := by
  induction qs generalizing s held with
  | nil => exact h
  | cons q qs ih =>
    simp only [State.replayList]
    split
    · exact ih h
    · split
      · exact ih h
      · exact ih (State.withImage_wf h fun _ => State.replayStore_wf)

@[simp] theorem State.replayOn_wf {s : State} (h : Memory.wf s.mem = true) : Memory.wf s.replayOn.mem = true := State.replayList_wf h

@[simp] theorem State.svcMapped_wf {v : BitVec 64} {s : State} (h : Memory.wf s.mem = true) : Memory.wf (s.svcMapped v).mem = true := by
  unfold State.svcMapped
  dsimp only
  rw [foldl_mem fun _ _ => State.onSeq_mem ..]
  exact State.replayPage_wf (State.replayOn_wf (by simpa using h))

theorem execMmuSvcMapped_wf {v : BitVec 64} {s : State} (h : Memory.wf s.mem = true) : NextWf (execMmuSvcMapped v s) :=
  fromHost_wf h fun _ => State.svcMapped_wf

@[simp] theorem State.dropStore_wf {s : State} {q : Replay} {first : Bool} (h : Memory.wf s.mem = true) :
    Memory.wf (State.dropStore s q first).mem = true := by
  unfold State.dropStore
  (repeat' split) <;> simp [h]

@[simp] theorem State.dropStores_wf {s : State} {qs : List Replay} {seen : List Nat} (h : Memory.wf s.mem = true) :
    Memory.wf (s.dropStores qs seen).mem = true := by
  induction qs generalizing s seen with
  | nil => exact h
  | cons q qs ih => exact ih (State.withImage_wf h fun _ => State.dropStore_wf)

@[simp] theorem State.svcUnmappable_wf {v : BitVec 64} {s : State} (h : Memory.wf s.mem = true) :
    Memory.wf (s.svcUnmappable v).mem = true := by
  refine foldl_wf (fun t w ht => State.withImage_wf ht fun u hu => by simp [hu]) _ ?_
  exact foldl_wf (fun t r ht => by simp [ht]) _ (by simp [h])

theorem execMmuSvcUnmappable_wf {v : BitVec 64} {s : State} (h : Memory.wf s.mem = true) : NextWf (execMmuSvcUnmappable v s) :=
  fromHost_wf h fun _ => State.svcUnmappable_wf

/-! The hub -/

theorem execHcwRd_wf {s : State} (h : Memory.wf s.mem = true) : NextWf (execHcwRd s) := by
  simp [execHcwRd, h]

theorem execHcwCmd_wf {v : Word} {s : State} (h : Memory.wf s.mem = true) : NextWf (execHcwCmd v s) := by
  simp [execHcwCmd, h]

theorem execHcwGo_wf {s : State} (h : Memory.wf s.mem = true) : NextWf (execHcwGo s) := by
  simp only [execHcwGo]
  (repeat' split) <;> simp [Mem.clearSpad_wf, h]

theorem execTplDataWrite_wf {v : BitVec 64} {s : State} (h : Memory.wf s.mem = true) : NextWf (execTplDataWrite v s) := h

theorem execTplDataRead_wf {s : State} (h : Memory.wf s.mem = true) : NextWf (execTplDataRead s) := h

theorem execDeviceReset_wf (s : State) : NextWf (execDeviceReset s) := s.resetDevice_wf

theorem execFwInstall_wf {len : Word} {s : State} (h : Memory.wf s.mem = true) : NextWf (execFwInstall len s) := by
  simp [execFwInstall, h]

theorem execFwAttest_wf {s : State} (h : Memory.wf s.mem = true) : NextWf (execFwAttest s) := h

theorem execRbSelWrite_wf {v : BitVec 64} {s : State} (h : Memory.wf s.mem = true) : NextWf (execRbSelWrite v s) := h

theorem execRbDataRead_wf {s : State} (h : Memory.wf s.mem = true) : NextWf (execRbDataRead s) := h

@[simp] theorem State.queueCmd_wf {s : State} {q : Nat} {fr : Bool} {v : BitVec 64} (h : Memory.wf s.mem = true) :
    Memory.wf (s.queueCmd q fr v).mem = true := by
  unfold State.queueCmd
  split
  · exact s.took_wf h (execQfcmdRestart_wf h)
  · exact s.took_wf h (execQfcmdAbandon_wf h)
  · exact s.took_wf h (execQfcmdResume_wf h)
  · exact s.took_wf h (execQcmdStop_wf h)
  · exact s.took_wf h (execQcmdResume_wf h)
  · exact h

@[simp] theorem State.writeQueue_wf {s : State} {q o : Nat} {v : BitVec 64} {host : Bool} (h : Memory.wf s.mem = true) :
    Memory.wf (s.writeQueue q o v host).mem = true := by
  simp only [State.writeQueue]
  split <;> simp [State.took_wf, execQtailWrite_wf, h]

@[simp] theorem State.writeSched_wf {s : State} {off : Nat} {v : BitVec 64} (h : Memory.wf s.mem = true) :
    Memory.wf (s.writeSched off v).mem = true := by
  simp [State.writeSched, State.took_wf, execSchedSeedWrite_wf, h]

@[simp] theorem State.selectWindow_wf {s : State} {v : BitVec 10} (h : Memory.wf s.mem = true) :
    Memory.wf (State.selectWindow s v).mem = true := by
  simp [State.selectWindow, h]

@[simp] theorem State.writeHub_wf {s : State} {o : Nat} {v : BitVec 64} (h : Memory.wf s.mem = true) :
    Memory.wf (s.writeHub o v).mem = true := by
  simp only [State.writeHub]
  split <;> simp [State.took_wf, execHcwCmd_wf, execHcwGo_wf, execRbSelWrite_wf, h]

@[simp] theorem State.barWrite_wf {s : State} {off : Nat} {v : BitVec 64} {host : Bool} (h : Memory.wf s.mem = true) :
    Memory.wf (s.barWrite off v host).mem = true := by
  simp [State.barWrite, State.took_wf, execMmuInvGo_wf, execMmuSvcMapped_wf, execMmuSvcUnmappable_wf, h]

theorem execRegisterWrite_wf {off : Nat} {bytes : List Byte} {s : State} (h : Memory.wf s.mem = true) :
    NextWf (execRegisterWrite off bytes s) := by
  simp [execRegisterWrite, h]

theorem execStaleClear_wf {p k : Nat} {s : State} (h : Memory.wf s.mem = true) : NextWf (execStaleClear p k s) :=
  fromHost_wf h fun _ ht => by simp [ht]

theorem execBrgStatClear_wf {e : Nat} {s : State} (h : Memory.wf s.mem = true) : NextWf (execBrgStatClear e s) :=
  fromHost_wf h fun _ ht => by simp [ht]

theorem execGlStatWrite_wf {k : Nat} {v : BitVec 64} {s : State} (h : Memory.wf s.mem = true) : NextWf (execGlStatWrite k v s) :=
  fromHost_wf h fun _ ht => by simp [ht]

theorem execMsixUnmask_wf {n : Nat} {s : State} (h : Memory.wf s.mem = true) : NextWf (execMsixUnmask n s) :=
  fromHost_wf h fun _ ht => by simp [ht]

theorem execHostBar2Read_wf {x : Nat} {s : State} (h : Memory.wf s.mem = true) : NextWf (execHostBar2Read x s) := by
  simp [execHostBar2Read, h]

@[simp] theorem State.bar2Put_wf {s : State} {cells : List Host.Cell} (h : Memory.wf s.mem = true) :
    Memory.wf (State.bar2Put s cells).mem = true := by
  unfold State.bar2Put
  split <;> simp [h]

@[simp] theorem State.bar2Puts_wf {s : State} {n a : Nat} {bs : List Byte} (h : Memory.wf s.mem = true) :
    Memory.wf (s.bar2Puts n a bs).mem = true := by
  induction n generalizing s a bs with
  | zero => exact h
  | succ n ih =>
    simp only [State.bar2Puts]
    split
    · exact h
    · exact ih (State.bar2Put_wf h)

theorem execHostBar2Write_wf {x : Nat} {bytes : List Byte} {s : State} (h : Memory.wf s.mem = true) :
    NextWf (execHostBar2Write x bytes s) :=
  fromHost_wf h fun _ => State.bar2Puts_wf

/-! Links and bridges -/

theorem execBridgeRetry_wf {e : Nat} {seq : BitVec 12} {s : State} (h : Memory.wf s.mem = true) : NextWf (execBridgeRetry e seq s) := by
  simp only [execBridgeRetry]
  split <;> simp [h]

theorem execBridgeFlitReceive_wf {e : Nat} {fl : BridgeFlit} {s : State} (h : Memory.wf s.mem = true) :
    NextWf (execBridgeFlitReceive e fl s) := by
  simp only [execBridgeFlitReceive]
  split <;> simp [execBridgeRetry_wf, h]

@[simp] theorem State.edgeFails_wf {s : State} {e : Nat} (h : Memory.wf s.mem = true) : Memory.wf (s.edgeFails e).mem = true :=
  foldl_wf (fun _ _ => State.stopFault_wf) _ (by simp [h])

theorem execBridgeRetrain_wf {e : Nat} {ok : Bool} {s : State} (h : Memory.wf s.mem = true) : NextWf (execBridgeRetrain e ok s) := by
  simp [execBridgeRetrain, h]

theorem execAllowancePeriod_wf {s : State} (h : Memory.wf s.mem = true) : NextWf (execAllowancePeriod s) := by
  simp [execAllowancePeriod, h]

@[simp] theorem State.failRemote_wf {s : State} {p : Remote} {b : Bad} (h : Memory.wf s.mem = true) :
    Memory.wf (s.failRemote p b).mem = true := by
  simp only [State.failRemote]
  split
  · refine State.withImage_wf h fun t ht => ?_
    split
    · exact State.raise_wf ht
    · split <;> simp [ht]
  · split
    · exact State.withImage_wf h fun t ht => State.raiseAs_wf ht
    · exact State.copyLoses_wf h

theorem execRemoteResponse_wf {tag : Nat} {status : Byte} {data : List Byte} {s : State} (h : Memory.wf s.mem = true) :
    NextWf (execRemoteResponse tag status data s) := by
  simp only [execRemoteResponse]
  split
  · exact h
  · next p _ =>
    have hb : Memory.wf (s.answeredRemote p status).mem = true := by simp [h]
    split
    · simp [h]
    · split
      · exact h
      · split
        · refine State.replayOn_wf (State.withImage_wf hb fun t ht => ?_)
          split <;> simp [ht]
        · split
          · exact State.withImage_wf hb fun t ht => State.seqAnswer_wf ht
          · exact State.copyAnswer_wf hb

theorem execRemoteTimeout_wf {tag : Nat} {s : State} (h : Memory.wf s.mem = true) : NextWf (execRemoteTimeout tag s) := by
  unfold execRemoteTimeout
  split <;> simp [h]

theorem State.serveLoad_wf {s : State} {opc : Byte} {a n : Nat} (h : Memory.wf s.mem = true) : (s.serveLoad opc a n).Wf := by
  simp only [State.serveLoad]
  (repeat' split) <;> simp [Served.Wf, h]

theorem State.serveStore_wf {s : State} {opc mod vm : Byte} {a : Nat} {bs : List Byte} (h : Memory.wf s.mem = true) :
    (s.serveStore opc mod vm a bs).Wf := by
  simp only [State.serveStore]
  (repeat' split) <;> simp [Served.Wf, Mem.foldl_setFull_wf, h]

theorem State.serveAtom_wf {s : State} {mod : Byte} {mods : List Byte} {a : Nat} {data : List Byte} (h : Memory.wf s.mem = true) :
    (s.serveAtom mod mods a data).Wf := by
  simp only [State.serveAtom]
  (repeat' split) <;> simp [Served.Wf, h]

theorem State.serveRow_wf {s : State} {opc : Byte} {mods : List Byte} {a : Nat} {data : List Byte} (h : Memory.wf s.mem = true) :
    (s.serveRow opc mods a data).Wf := by
  simp only [State.serveRow]
  (repeat' split) <;> simp [Served.Wf, Mem.commitRow_wf, h]

theorem State.serve_wf {s : State} {b : Inbound} (h : Memory.wf s.mem = true) : (s.serve b).Wf := by
  simp only [State.serve]
  split
  · exact State.serveLoad_wf h
  · split
    · exact State.serveStore_wf h
    · split
      · exact State.serveAtom_wf h
      · split
        · exact State.serveRow_wf h
        · trivial

theorem execRemoteRequestPerform_wf {dev stream tag : Nat} {s : State} (h : Memory.wf s.mem = true) :
    NextWf (execRemoteRequestPerform dev stream tag s) := by
  simp only [execRemoteRequestPerform]
  split
  · exact h
  · next b _ =>
    split
    · exact h
    · have hs := State.serve_wf (s := { s with links := { s.links with ready := s.links.ready.erase b } }) (b := b) h
      split
      · exact h
      · simpa using h
      · next e =>
        rw [e] at hs
        simpa [Served.Wf] using hs

theorem execGlFlitReceive_wf {k : Nat} {bytes : List Byte} {s : State} (h : Memory.wf s.mem = true) :
    NextWf (execGlFlitReceive k bytes s) := by
  simp [execGlFlitReceive, h]

@[simp] theorem State.linkFails_wf {s : State} {k : Nat} {x : GLink} (h : Memory.wf s.mem = true) :
    Memory.wf (s.linkFails k x).mem = true := by
  refine State.replayOn_wf ?_
  rw [State.flush_mem]
  exact foldl_wf (fun t p ht => State.failRemote_wf (by simpa using ht)) _ (by simp [h])

theorem execGlRetrain_wf {k : Nat} {ok : Bool} {s : State} (h : Memory.wf s.mem = true) : NextWf (execGlRetrain k ok s) := by
  simp [execGlRetrain, h]

theorem execCreditFlit_wf {k : Nat} {s : State} (h : Memory.wf s.mem = true) : NextWf (execCreditFlit k s) := by
  simp [execCreditFlit, h]

theorem execLinkTrained_wf {k : Nat} {s : State} (h : Memory.wf s.mem = true) : NextWf (execLinkTrained k s) := by
  simp [execLinkTrained, h]

theorem execEccInScrubbing_wf {pa : Nat} {s : State} (h : Memory.wf s.mem = true) : NextWf (execEccInScrubbing pa s) := by
  simp only [execEccInScrubbing]
  (repeat' split) <;> simp [h]

/-! Power -/

theorem execSupplySag_wf {s : State} (h : Memory.wf s.mem = true) : NextWf (execSupplySag s) := h

theorem execSagRecovery_wf {s : State} (h : Memory.wf s.mem = true) : NextWf (execSagRecovery s) := by
  unfold execSagRecovery
  split <;> simp [h]

theorem execPowerCapWindow_wf {watts : Nat} {s : State} (h : Memory.wf s.mem = true) : NextWf (execPowerCapWindow watts s) := by
  simp [execPowerCapWindow, h]

theorem execThermalLevelChange_wf {st temp : Nat} {s : State} (h : Memory.wf s.mem = true) : NextWf (execThermalLevelChange st temp s) := by
  simp [execThermalLevelChange, h]

theorem execThermalTrip_wf {st : Nat} {s : State} (h : Memory.wf s.mem = true) : NextWf (execThermalTrip st s) := by
  simp [execThermalTrip, h]

end Sys2Proof.Machine
end


section
/-!
SUPPORT. Memory stays canonical through the instructions of a slot.
-/
namespace Sys2Proof.Machine

/-! Device registers and configuration -/

theorem fireSys_wf {opc : Byte} {f : Fields} {align : Nat} {addr : Elem → BitVec 64}
    {act : Elem → State → Except Bad (List Token) × State} {s : State} (h : Memory.wf s.mem = true)
    (ha : ∀ x t, Memory.wf t.mem = true → Memory.wf (act x t).2.mem = true) : NextWf (fireSys opc f align addr act s) := by
  unfold fireSys
  refine firePort_wf h fun x m => ?_
  dsimp only
  split
  · trivial
  · split
    · trivial
    · intro t ht
      have hx := ha x t ht
      dsimp only
      split <;> next e => simp_all

theorem execSysrd_wf {f : Fields} {s : State} (h : Memory.wf s.mem = true) : NextWf (execSysrd f s) :=
  fireSys_wf h fun x t ht => by
    dsimp only
    split <;> simp [ht]

theorem execSyswr_wf {f : Fields} {s : State} (h : Memory.wf s.mem = true) : NextWf (execSyswr f s) :=
  fireSys_wf h fun x t ht => by
    dsimp only
    split <;> simp [ht]

@[simp] theorem State.loadTemplates_wf {s : State} {stack : Nat} {part : BitVec 4} {n i : Nat} {a : BitVec 64}
    (h : Memory.wf s.mem = true) : Memory.wf (s.loadTemplates stack part n i a).2.mem = true := by
  induction n generalizing s i a with
  | zero => exact h
  | succ n ih =>
    simp only [State.loadTemplates]
    split
    · next e => exact State.wf_of_agentRead h e
    · next s1 e => exact ih (by simpa using State.wf_of_agentRead h e)

theorem execCfgld_wf {f : Fields} {s : State} (h : Memory.wf s.mem = true) : NextWf (execCfgld f s) :=
  fireSys_wf h fun x t ht => by
    dsimp only
    split <;> simp [ht]

/-! The turn of a cycle -/

@[simp] theorem State.nextCycle_wf {s : State} (h : Memory.wf s.mem = true) : Memory.wf s.nextCycle.mem = true := by
  unfold State.nextCycle
  dsimp only
  split
  · exact h
  · exact s.took_wf h (execThermalTrip_wf h)
  · exact h

@[simp] theorem State.turn_wf {s0 : State} (h : Memory.wf s0.mem = true) : Memory.wf (State.turn s0).mem = true := by
  simp only [State.turn]
  split <;> simp [h]

/-! Slot instructions -/

theorem fireInt_wf {opc : Byte} {f : Fields} {op : Nat → Nat → Nat → Nat → Nat × Byte} {s : State} (h : Memory.wf s.mem = true) :
    NextWf (fireInt opc f op s) := fireLane_wf h

theorem firePred_wf {opc : Byte} {f : Fields} {op : Bool → Bool → Bool} {s : State} (h : Memory.wf s.mem = true) :
    NextWf (firePred opc f op s) := fireLane_wf h

theorem fireMove_wf {opc : Byte} {f : Fields} {g : Oct Word → Oct Word → Nat → Word} {s : State} (h : Memory.wf s.mem = true) :
    NextWf (fireMove opc f g s) := fireLane_wf h

theorem fireRed_wf {opc : Byte} {f : Fields} {pick : Nat → Nat → Bool} {s : State} (h : Memory.wf s.mem = true) :
    NextWf (fireRed opc f pick s) := fireLane_wf h

theorem fireFloat_wf {opc : Byte} {f : Fields} {fmt : BitVec 3} {op : RMode → Bool → Word → Word → Word → Word → Rounded} {s : State}
    (h : Memory.wf s.mem = true) : NextWf (fireFloat opc f fmt op s) := fireLane_wf h

theorem fireArith_wf {opc : Byte} {f : Fields} {xs : Word → Word → Word → Word → List Word}
    {exact : RMode → FVal → FVal → FVal → FVal → Option FVal} {s : State} (h : Memory.wf s.mem = true) :
    NextWf (fireArith opc f xs exact s) := by
  unfold fireArith
  exact fireFloat_wf h

theorem fireTest_wf {opc : Byte} {f : Fields} {t : Word → Word → Bool × Byte} {s : State} (h : Memory.wf s.mem = true) :
    NextWf (fireTest opc f t s) := fireLane_wf h

theorem fireFun_wf {opc : Byte} {f : Fields} {g : RMode → Bool → Bool → Nat → Nat → Rounded} {k : Bool → Rounded} {s : State}
    (h : Memory.wf s.mem = true) : NextWf (fireFun opc f g k s) := by
  unfold fireFun
  exact fireFloat_wf h

theorem fireDot_wf {opc : Byte} {f : Fields} {n : Nat} {three : Bool} {s : State} (h : Memory.wf s.mem = true) :
    NextWf (fireDot opc f n three s) := fireLane_wf h

theorem fireMerge_wf {opc : Byte} {g : Merge} {f : Fields} {s : State} (h : Memory.wf s.mem = true) :
    NextWf (fireMerge opc g f s) := by
  unfold fireMerge
  exact fireWalk_wf h

/-! Slot instructions with an effect of their own -/

theorem execNop_wf {f : Fields} {s : State} (h : Memory.wf s.mem = true) : NextWf (execNop f s) :=
  fireOwn_wf h fun _ _ => Fired.keepsWf_id _

theorem execPass_wf {f : Fields} {s : State} (h : Memory.wf s.mem = true) : NextWf (execPass f s) :=
  fireOwn_wf h fun x m => by
    split
    · exact pushOne_keepsWf (usedRes_keeps f)
    · trivial

theorem execTagset_wf {f : Fields} {s : State} (h : Memory.wf s.mem = true) : NextWf (execTagset f s) :=
  fireOwn_wf h fun x m => by
    split
    · exact pushOne_keepsWf (usedRes_keeps f)
    · trivial

theorem execSeqset_wf {f : Fields} {s : State} (h : Memory.wf s.mem = true) : NextWf (execSeqset f s) :=
  fireOwn_wf h fun _ _ => usedRes_keeps f

theorem execDemand_wf {f : Fields} {s : State} (h : Memory.wf s.mem = true) : NextWf (execDemand f s) :=
  fireOwn_wf h fun x m => by
    split
    · exact pushOne_keepsWf (usedRes_keeps f)
    · trivial

theorem execFwdsel_wf {f : Fields} {s : State} (h : Memory.wf s.mem = true) : NextWf (execFwdsel f s) :=
  fireOwn_wf h fun x m => by
    split
    · exact pushOne_keepsWf (usedRes_keeps f)
    · trivial

theorem execPregSet_wf {f : Fields} {s : State} (h : Memory.wf s.mem = true) : NextWf (execPregSet f s) :=
  fireOwn_wf h fun _ _ => Fired.keepsWf_id _

theorem execQscale_wf {f : Fields} {s : State} (h : Memory.wf s.mem = true) : NextWf (execQscale f s) :=
  fireOwn_wf h fun _ _ => usedRes_keeps f

theorem execCvtov_wf {f : Fields} {s : State} (h : Memory.wf s.mem = true) : NextWf (execCvtov f s) := by
  unfold execCvtov
  refine fireOwn_wf h fun x m => ?_
  split
  · exact usedRes_keeps f
  · dsimp only
    generalize hr : commitRes x f f.var _ = r
    have hk : r.KeepsWf := hr ▸ commitRes_keepsWf ..
    split <;> exact hk

theorem execSelk_wf {f : Fields} {s : State} (h : Memory.wf s.mem = true) : NextWf (execSelk f s) :=
  fireOwn_wf h fun _ _ => Fired.keepsWf_id _

theorem execSelo_wf {f : Fields} {s : State} (h : Memory.wf s.mem = true) : NextWf (execSelo f s) := by
  unfold execSelo
  refine fireOwn_wf h fun x m => ?_
  dsimp only
  split
  · exact Fired.keepsWf_id _
  · trivial

theorem execSeloClr_wf {f : Fields} {s : State} (h : Memory.wf s.mem = true) : NextWf (execSeloClr f s) :=
  fireOwn_wf h fun _ _ => usedRes_keeps f

theorem execRowstat_wf {f : Fields} {s : State} (h : Memory.wf s.mem = true) : NextWf (execRowstat f s) := by
  unfold execRowstat
  dsimp only
  split
  · refine fireOwn_wf h fun x m => ?_
    generalize hr : commitRes x f 0 _ = r
    have hk : r.KeepsWf := hr ▸ commitRes_keepsWf ..
    split
    · exact fun t ht => ht
    · exact hk
  · exact h

theorem execDrop_wf {f : Fields} {s : State} (h : Memory.wf s.mem = true) : NextWf (execDrop f s) :=
  fire_wf h fun x => by
    cases (chanOf f.sa).bind x.head with
    | none => trivial
    | some t => exact Fired.keepsWf_unless (commitRes_keepsWf ..)

theorem execGchkArm_wf {f : Fields} {s : State} (h : Memory.wf s.mem = true) : NextWf (execGchkArm f s) := by
  unfold execGchkArm
  refine fire_wf h fun x => ?_
  split
  · trivial
  · exact Fired.keepsWf_id _

theorem execMmodeOn_wf {f : Fields} {s : State} (h : Memory.wf s.mem = true) : NextWf (execMmodeOn f s) := by
  unfold execMmodeOn
  dsimp only
  split
  · exact fire_wf h fun x => poisonFirst_keepsWf fun t ht => ht
  · split
    · exact fire_wf h fun x => poisonFirst_keepsWf (Fired.keepsWf_id _)
    · exact h

theorem execMmodeOff_wf {f : Fields} {s : State} (h : Memory.wf s.mem = true) : NextWf (execMmodeOff f s) := by
  unfold execMmodeOff
  dsimp only
  split
  · exact fire_wf h fun x => poisonFirst_keepsWf (Fired.keepsWf_id _)
  · split
    · exact fire_wf h fun x => poisonFirst_keepsWf fun t ht => ht
    · exact h

theorem execWload_wf {f : Fields} {s : State} (h : Memory.wf s.mem = true) : NextWf (execWload f s) :=
  fireMatrix_wf h fun _ _ _ ht => ht

theorem execWrow_wf {f : Fields} {s : State} (h : Memory.wf s.mem = true) : NextWf (execWrow f s) := by
  unfold execWrow
  refine fireMatrix_wf h fun g x => ?_
  split
  · trivial
  · exact fun t ht => ht

theorem execAccz_wf {f : Fields} {s : State} (h : Memory.wf s.mem = true) : NextWf (execAccz f s) :=
  fireMatrix_wf h fun _ _ _ ht => ht

theorem execAccrd_wf {f : Fields} {s : State} (h : Memory.wf s.mem = true) : NextWf (execAccrd f s) :=
  fireMatrix_wf h fun _ _ _ ht => ht

theorem execIdxset_wf {f : Fields} {s : State} (h : Memory.wf s.mem = true) : NextWf (execIdxset f s) :=
  fire_wf h fun _ => poisonFirst_keepsWf (Fired.keepsWf_id _)

theorem execAgsrc_wf {f : Fields} {s : State} (h : Memory.wf s.mem = true) : NextWf (execAgsrc f s) :=
  firePort_wf h fun _ _ => startStream_keepsWf _ _ _ _ _

theorem execAgsnk_wf {f : Fields} {s : State} (h : Memory.wf s.mem = true) : NextWf (execAgsnk f s) := by
  unfold execAgsnk
  exact firePort_wf h fun _ _ => startStream_keepsWf _ _ _ _ _

theorem execGath_wf {f : Fields} {s : State} (h : Memory.wf s.mem = true) : NextWf (execGath f s) := by
  unfold execGath
  exact firePort_wf h fun _ _ => startStream_keepsWf _ _ _ _ _

theorem execScat_wf {f : Fields} {s : State} (h : Memory.wf s.mem = true) : NextWf (execScat f s) := by
  unfold execScat
  exact firePort_wf h fun _ _ => startStream_keepsWf _ _ _ _ _

theorem execWaita_wf {f : Fields} {s : State} (h : Memory.wf s.mem = true) : NextWf (execWaita f s) := by
  unfold execWaita
  refine firePort_wf h fun x m => ?_
  split
  · trivial
  · exact issueFired_keepsWf ..

theorem execLdrow_wf {f : Fields} {s : State} (h : Memory.wf s.mem = true) : NextWf (execLdrow f s) := by
  unfold execLdrow
  refine firePort_wf h fun x m => ?_
  dsimp only
  split
  · trivial
  · split
    · exact issueFired_keepsWf ..
    · exact Fired.keepsWf_id _

theorem execFence_wf {f : Fields} {s : State} (h : Memory.wf s.mem = true) : NextWf (execFence f s) :=
  firePort_wf h fun _ _ => issueFired_keepsWf ..

theorem execBxstart_wf {f : Fields} {s : State} (h : Memory.wf s.mem = true) : NextWf (execBxstart f s) := by
  unfold execBxstart
  refine firePort_wf h fun x m => ?_
  dsimp only
  split
  · trivial
  · exact issueFired_keepsWf ..

theorem execWsrd_wf {f : Fields} {s : State} (h : Memory.wf s.mem = true) : NextWf (execWsrd f s) := by
  unfold execWsrd
  refine firePort_wf h fun x m => ?_
  dsimp only
  split
  · trivial
  · split
    · trivial
    · exact startStream_keepsWf _ _ _ _ _

theorem execRowwr_wf {f : Fields} {s : State} (h : Memory.wf s.mem = true) : NextWf (execRowwr f s) := by
  unfold execRowwr
  split
  · exact h
  · exact fireRow_wf h

theorem execTrap_wf {f : Fields} {s : State} (h : Memory.wf s.mem = true) : NextWf (execTrap f s) :=
  fire_wf h fun x => by split <;> trivial

theorem execBrk_wf {f : Fields} {s : State} (h : Memory.wf s.mem = true) : NextWf (execBrk f s) :=
  fire_wf h fun x => by
    split
    · trivial
    · exact fun t ht => by simpa using ht

theorem execPrept_wf {f : Fields} {s : State} (h : Memory.wf s.mem = true) : NextWf (execPrept f s) := by
  unfold execPrept
  dsimp only
  split
  · exact fire_wf h fun x => poisonFirst_keepsWf fun t ht => by simp [ht]
  · exact h

theorem execHalt_wf {f : Fields} {s : State} (h : Memory.wf s.mem = true) : NextWf (execHalt f s) :=
  fire_wf h fun _ => poisonFirst_keepsWf (Fired.keepsWf_id _)

theorem execCntrd_wf {f : Fields} {s : State} (h : Memory.wf s.mem = true) : NextWf (execCntrd f s) := by
  unfold execCntrd
  refine fire_wf h fun x => Fired.keepsWf_unless ?_
  generalize hr : commitRes _ f 0 _ = r
  have hk : r.KeepsWf := hr ▸ commitRes_keepsWf ..
  split
  · exact fun t ht => by simp [ht]
  · exact hk

theorem execWdenter_wf {f : Fields} {s : State} (h : Memory.wf s.mem = true) : NextWf (execWdenter f s) := by
  unfold execWdenter
  dsimp only
  split
  · refine fire_wf h fun x => Fired.keepsWf_unless ?_
    split
    · split
      · exact fun t ht => ht
      · trivial
    · exact fun t ht => ht
  · exact h

/-! Slot instructions that only make a result, walk streams or issue an access -/

section
variable {f : Fields} {s : State} (h : Memory.wf s.mem = true)
include h

theorem execEmit_wf : NextWf (execEmit f s) := fireLane_wf h
theorem execSeqget_wf : NextWf (execSeqget f s) := fireLane_wf h
theorem execAdd_wf : NextWf (execAdd f s) := fireInt_wf h
theorem execSub_wf : NextWf (execSub f s) := fireInt_wf h
theorem execMul_wf : NextWf (execMul f s) := fireInt_wf h
theorem execMulh_wf : NextWf (execMulh f s) := fireInt_wf h
theorem execMulhu_wf : NextWf (execMulhu f s) := fireInt_wf h
theorem execMad_wf : NextWf (execMad f s) := fireInt_wf h
theorem execAbs_wf : NextWf (execAbs f s) := fireInt_wf h
theorem execNeg_wf : NextWf (execNeg f s) := fireInt_wf h
theorem execMin_wf : NextWf (execMin f s) := fireInt_wf h
theorem execMax_wf : NextWf (execMax f s) := fireInt_wf h
theorem execMinu_wf : NextWf (execMinu f s) := fireInt_wf h
theorem execMaxu_wf : NextWf (execMaxu f s) := fireInt_wf h
theorem execAnd_wf : NextWf (execAnd f s) := fireInt_wf h
theorem execOr_wf : NextWf (execOr f s) := fireInt_wf h
theorem execXor_wf : NextWf (execXor f s) := fireInt_wf h
theorem execAndn_wf : NextWf (execAndn f s) := fireInt_wf h
theorem execShl_wf : NextWf (execShl f s) := fireInt_wf h
theorem execShr_wf : NextWf (execShr f s) := fireInt_wf h
theorem execSar_wf : NextWf (execSar f s) := fireInt_wf h
theorem execRot_wf : NextWf (execRot f s) := fireInt_wf h
theorem execClz_wf : NextWf (execClz f s) := fireInt_wf h
theorem execPopc_wf : NextWf (execPopc f s) := fireInt_wf h
theorem execBrev_wf : NextWf (execBrev f s) := fireInt_wf h
theorem execBfx_wf : NextWf (execBfx f s) := fireInt_wf h
theorem execBfi_wf : NextWf (execBfi f s) := fireInt_wf h
theorem execSel_wf : NextWf (execSel f s) := fireInt_wf h
theorem execCmp_wf : NextWf (execCmp f s) := fireLane_wf h
theorem execTest_wf : NextWf (execTest f s) := fireLane_wf h
theorem execMov_wf : NextWf (execMov f s) := fireLane_wf h
theorem execMovi_wf : NextWf (execMovi f s) := fireLane_wf h
theorem execMovh_wf : NextWf (execMovh f s) := fireInt_wf h
theorem execAddr_wf : NextWf (execAddr f s) := fireInt_wf h
theorem execIdx2_wf : NextWf (execIdx2 f s) := fireLane_wf h
theorem execPand_wf : NextWf (execPand f s) := firePred_wf h
theorem execPor_wf : NextWf (execPor f s) := firePred_wf h
theorem execPxor_wf : NextWf (execPxor f s) := firePred_wf h
theorem execPnot_wf : NextWf (execPnot f s) := firePred_wf h
theorem execPmov_wf : NextWf (execPmov f s) := firePred_wf h
theorem execPreg_wf : NextWf (execPreg f s) := fireLane_wf h
theorem execBcast_wf : NextWf (execBcast f s) := fireMove_wf h
theorem execPerm_wf : NextWf (execPerm f s) := fireMove_wf h
theorem execShuf_wf : NextWf (execShuf f s) := fireMove_wf h
theorem execLred_wf : NextWf (execLred f s) := fireRed_wf h
theorem execLscan_wf : NextWf (execLscan f s) := fireRed_wf h
theorem execPcount_wf : NextWf (execPcount f s) := fireLane_wf h
theorem execFirst_wf : NextWf (execFirst f s) := fireLane_wf h
theorem execFadd_wf : NextWf (execFadd f s) := fireArith_wf h
theorem execFsub_wf : NextWf (execFsub f s) := fireArith_wf h
theorem execFmul_wf : NextWf (execFmul f s) := fireArith_wf h
theorem execFma_wf : NextWf (execFma f s) := fireArith_wf h
theorem execFnma_wf : NextWf (execFnma f s) := fireArith_wf h
theorem execFma3_wf : NextWf (execFma3 f s) := fireArith_wf h
theorem execFmin_wf : NextWf (execFmin f s) := fireFloat_wf h
theorem execFmax_wf : NextWf (execFmax f s) := fireFloat_wf h
theorem execFabs_wf : NextWf (execFabs f s) := fireFloat_wf h
theorem execFneg_wf : NextWf (execFneg f s) := fireFloat_wf h
theorem execFcmp_wf : NextWf (execFcmp f s) := by
  unfold execFcmp
  exact fireTest_wf h

theorem execFclass_wf : NextWf (execFclass f s) := fireTest_wf h
theorem execFrint_wf : NextWf (execFrint f s) := fireFloat_wf h
theorem execFtoi_wf : NextWf (execFtoi f s) := fireLane_wf h
theorem execItof_wf : NextWf (execItof f s) := fireLane_wf h
theorem execFrcp_wf : NextWf (execFrcp f s) := fireFun_wf h
theorem execFrsq_wf : NextWf (execFrsq f s) := fireFun_wf h
theorem execFexpf_wf : NextWf (execFexpf f s) := fireFun_wf h
theorem execFlogf_wf : NextWf (execFlogf f s) := fireFun_wf h
theorem execFexpins_wf : NextWf (execFexpins f s) := fireFloat_wf h
theorem execFexpext_wf : NextWf (execFexpext f s) := fireFloat_wf h
theorem execFmant_wf : NextWf (execFmant f s) := fireFun_wf h
theorem execFdot2_wf : NextWf (execFdot2 f s) := fireDot_wf h
theorem execFdot4_wf : NextWf (execFdot4 f s) := fireDot_wf h
theorem execFtri_wf : NextWf (execFtri f s) := fireDot_wf h
theorem execCvt_wf : NextWf (execCvt f s) := by
  unfold execCvt
  exact fireLane_wf h

theorem execPack_wf : NextWf (execPack f s) := by
  unfold execPack
  exact fireLane_wf h

theorem execUnpk_wf : NextWf (execUnpk f s) := by
  unfold execUnpk
  exact fireLane_wf h

theorem execGscale_wf : NextWf (execGscale f s) := fireLane_wf h
theorem execScan_wf : NextWf (execScan f s) := by
  unfold execScan
  exact fireWalk_wf h

theorem execIntsc_wf : NextWf (execIntsc f s) := fireMerge_wf h
theorem execUnion_wf : NextWf (execUnion f s) := fireMerge_wf h
theorem execJoin_wf : NextWf (execJoin f s) := fireMerge_wf h
theorem execRept_wf : NextWf (execRept f s) := by
  unfold execRept
  exact fireWalk_wf h

theorem execReds_wf : NextWf (execReds f s) := by
  unfold execReds
  exact fireWalk_wf h

theorem execCrddrop_wf : NextWf (execCrddrop f s) := by
  unfold execCrddrop
  exact fireWalk_wf h

theorem execStoplvLower_wf : NextWf (execStoplvLower f s) := by
  unfold execStoplvLower
  exact fireWalk_wf h

theorem execStoplvWrap_wf : NextWf (execStoplvWrap f s) := by
  unfold execStoplvWrap
  exact fireWalk_wf h

theorem execZip_wf : NextWf (execZip f s) := by
  unfold execZip
  exact fireWalk_wf h

theorem execGchk_wf : NextWf (execGchk f s) := by
  unfold execGchk
  exact fireWalk_wf h

theorem execSort8_wf : NextWf (execSort8 f s) := fireLane_wf h
theorem execDecomp_wf : NextWf (execDecomp f s) := by
  unfold execDecomp
  exact fireWalk_wf h

theorem execComp_wf : NextWf (execComp f s) := by
  unfold execComp
  exact fireWalk_wf h

theorem execTransp_wf : NextWf (execTransp f s) := by
  unfold execTransp
  exact fireWalk_wf h

theorem execMrg_wf : NextWf (execMrg f s) := by
  unfold execMrg
  exact fireWalk_wf h

theorem execSteer_wf : NextWf (execSteer f s) := by
  unfold execSteer
  exact fireWalk_wf h

theorem execFanout_wf : NextWf (execFanout f s) := by
  unfold execFanout
  exact fireWalk_wf h

theorem execGsel_wf : NextWf (execGsel f s) := fireLane_wf h
theorem execTconK64n32_wf : NextWf (execTconK64n32 f s) := fireTcon_wf h
theorem execTconK32n64_wf : NextWf (execTconK32n64 f s) := fireTcon_wf h
theorem execTconK128n16_wf : NextWf (execTconK128n16 f s) := fireTcon_wf h
theorem execTconK16n128_wf : NextWf (execTconK16n128 f s) := fireTcon_wf h
theorem execTconK256n8_wf : NextWf (execTconK256n8 f s) := fireTcon_wf h
theorem execTconK8n256_wf : NextWf (execTconK8n256 f s) := fireTcon_wf h
theorem execTconK64n16x_wf : NextWf (execTconK64n16x f s) := fireTcon_wf h
theorem execTconK32n32x_wf : NextWf (execTconK32n32x f s) := fireTcon_wf h
theorem execLd_wf : NextWf (execLd f s) := fireAccess_wf h
theorem execSt_wf : NextWf (execSt f s) := fireAccess_wf h
theorem execLds_wf : NextWf (execLds f s) := fireAccess_wf h
theorem execStf_wf : NextWf (execStf f s) := fireAccess_wf h
theorem execSete_wf : NextWf (execSete f s) := fireAccess_wf h
theorem execAtom_wf : NextWf (execAtom f s) := fireAccess_wf h
theorem execVradd_wf : NextWf (execVradd f s) := fireRowUpdate_wf h
theorem execVrmax_wf : NextWf (execVrmax f s) := fireRowUpdate_wf h
theorem execWsph_wf : NextWf (execWsph f s) := fireLane_wf h
theorem execRowact_wf : NextWf (execRowact f s) := fireRow_wf h
theorem execRowconSt_wf : NextWf (execRowconSt f s) := fireRow_wf h
theorem execRowconStr_wf : NextWf (execRowconStr f s) := fireRow_wf h
theorem execRowconWs_wf : NextWf (execRowconWs f s) := fireRow_wf h
theorem execRowpre_wf : NextWf (execRowpre f s) := fireRow_wf h
theorem execPhase_wf : NextWf (execPhase f s) := fireBoundary_wf h
theorem execTend_wf : NextWf (execTend f s) := fireBoundary_wf h
theorem execTrig_wf : NextWf (execTrig f s) := fireBoundary_wf h
theorem execLaunch_wf : NextWf (execLaunch f s) := fireBoundary_wf h

end

end Sys2Proof.Machine
end


section
/-!
SUPPORT. Memory stays canonical through every instruction, every act and every step (O59).
-/
namespace Sys2Proof.Machine

/-! Every instruction -/

theorem exec_wf {i : Instr} {s : State} (h : Memory.wf s.mem = true) : NextWf (exec i s) := by
  cases i with
  | nop f => exact execNop_wf h
  | pass f => exact execPass_wf h
  | emit f => exact execEmit_wf h
  | tagset f => exact execTagset_wf h
  | seqset f => exact execSeqset_wf h
  | seqget f => exact execSeqget_wf h
  | demand f => exact execDemand_wf h
  | drop f => exact execDrop_wf h
  | fwdsel f => exact execFwdsel_wf h
  | add f => exact execAdd_wf h
  | sub f => exact execSub_wf h
  | mul f => exact execMul_wf h
  | mulh f => exact execMulh_wf h
  | mulhu f => exact execMulhu_wf h
  | mad f => exact execMad_wf h
  | abs f => exact execAbs_wf h
  | neg f => exact execNeg_wf h
  | min f => exact execMin_wf h
  | max f => exact execMax_wf h
  | minu f => exact execMinu_wf h
  | maxu f => exact execMaxu_wf h
  | and f => exact execAnd_wf h
  | or f => exact execOr_wf h
  | xor f => exact execXor_wf h
  | andn f => exact execAndn_wf h
  | shl f => exact execShl_wf h
  | shr f => exact execShr_wf h
  | sar f => exact execSar_wf h
  | rot f => exact execRot_wf h
  | clz f => exact execClz_wf h
  | popc f => exact execPopc_wf h
  | brev f => exact execBrev_wf h
  | bfx f => exact execBfx_wf h
  | bfi f => exact execBfi_wf h
  | sel f => exact execSel_wf h
  | cmp f => exact execCmp_wf h
  | test f => exact execTest_wf h
  | mov f => exact execMov_wf h
  | movi f => exact execMovi_wf h
  | movh f => exact execMovh_wf h
  | addr f => exact execAddr_wf h
  | idx2 f => exact execIdx2_wf h
  | pand f => exact execPand_wf h
  | por f => exact execPor_wf h
  | pxor f => exact execPxor_wf h
  | pnot f => exact execPnot_wf h
  | pmov f => exact execPmov_wf h
  | preg f => exact execPreg_wf h
  | pregSet f => exact execPregSet_wf h
  | bcast f => exact execBcast_wf h
  | perm f => exact execPerm_wf h
  | shuf f => exact execShuf_wf h
  | lred f => exact execLred_wf h
  | lscan f => exact execLscan_wf h
  | pcount f => exact execPcount_wf h
  | first f => exact execFirst_wf h
  | fadd f => exact execFadd_wf h
  | fsub f => exact execFsub_wf h
  | fmul f => exact execFmul_wf h
  | fma f => exact execFma_wf h
  | fnma f => exact execFnma_wf h
  | fma3 f => exact execFma3_wf h
  | fmin f => exact execFmin_wf h
  | fmax f => exact execFmax_wf h
  | fabs f => exact execFabs_wf h
  | fneg f => exact execFneg_wf h
  | fcmp f => exact execFcmp_wf h
  | fclass f => exact execFclass_wf h
  | frint f => exact execFrint_wf h
  | ftoi f => exact execFtoi_wf h
  | itof f => exact execItof_wf h
  | frcp f => exact execFrcp_wf h
  | frsq f => exact execFrsq_wf h
  | fexpf f => exact execFexpf_wf h
  | flogf f => exact execFlogf_wf h
  | fexpins f => exact execFexpins_wf h
  | fexpext f => exact execFexpext_wf h
  | fmant f => exact execFmant_wf h
  | fdot2 f => exact execFdot2_wf h
  | fdot4 f => exact execFdot4_wf h
  | ftri f => exact execFtri_wf h
  | cvt f => exact execCvt_wf h
  | pack f => exact execPack_wf h
  | unpk f => exact execUnpk_wf h
  | gscale f => exact execGscale_wf h
  | qscale f => exact execQscale_wf h
  | cvtov f => exact execCvtov_wf h
  | scan f => exact execScan_wf h
  | intsc f => exact execIntsc_wf h
  | union f => exact execUnion_wf h
  | join f => exact execJoin_wf h
  | rept f => exact execRept_wf h
  | reds f => exact execReds_wf h
  | crddrop f => exact execCrddrop_wf h
  | stoplvLower f => exact execStoplvLower_wf h
  | stoplvWrap f => exact execStoplvWrap_wf h
  | zip f => exact execZip_wf h
  | gchk f => exact execGchk_wf h
  | gchkArm f => exact execGchkArm_wf h
  | selk f => exact execSelk_wf h
  | selo f => exact execSelo_wf h
  | seloClr f => exact execSeloClr_wf h
  | sort8 f => exact execSort8_wf h
  | decomp f => exact execDecomp_wf h
  | comp f => exact execComp_wf h
  | transp f => exact execTransp_wf h
  | mrg f => exact execMrg_wf h
  | steer f => exact execSteer_wf h
  | fanout f => exact execFanout_wf h
  | gsel f => exact execGsel_wf h
  | mmodeOn f => exact execMmodeOn_wf h
  | mmodeOff f => exact execMmodeOff_wf h
  | wload f => exact execWload_wf h
  | wrow f => exact execWrow_wf h
  | accz f => exact execAccz_wf h
  | accrd f => exact execAccrd_wf h
  | idxset f => exact execIdxset_wf h
  | tconK64n32 f => exact execTconK64n32_wf h
  | tconK32n64 f => exact execTconK32n64_wf h
  | tconK128n16 f => exact execTconK128n16_wf h
  | tconK16n128 f => exact execTconK16n128_wf h
  | tconK256n8 f => exact execTconK256n8_wf h
  | tconK8n256 f => exact execTconK8n256_wf h
  | tconK64n16x f => exact execTconK64n16x_wf h
  | tconK32n32x f => exact execTconK32n32x_wf h
  | ld f => exact execLd_wf h
  | st f => exact execSt_wf h
  | lds f => exact execLds_wf h
  | stf f => exact execStf_wf h
  | sete f => exact execSete_wf h
  | agsrc f => exact execAgsrc_wf h
  | agsnk f => exact execAgsnk_wf h
  | gath f => exact execGath_wf h
  | scat f => exact execScat_wf h
  | waita f => exact execWaita_wf h
  | atom f => exact execAtom_wf h
  | vradd f => exact execVradd_wf h
  | vrmax f => exact execVrmax_wf h
  | ldrow f => exact execLdrow_wf h
  | fence f => exact execFence_wf h
  | bxstart f => exact execBxstart_wf h
  | wsrd f => exact execWsrd_wf h
  | wsph f => exact execWsph_wf h
  | rowact f => exact execRowact_wf h
  | rowconSt f => exact execRowconSt_wf h
  | rowconStr f => exact execRowconStr_wf h
  | rowconWs f => exact execRowconWs_wf h
  | rowwr f => exact execRowwr_wf h
  | rowpre f => exact execRowpre_wf h
  | rowstat f => exact execRowstat_wf h
  | phase f => exact execPhase_wf h
  | tend f => exact execTend_wf h
  | trig f => exact execTrig_wf h
  | launch f => exact execLaunch_wf h
  | trap f => exact execTrap_wf h
  | brk f => exact execBrk_wf h
  | prept f => exact execPrept_wf h
  | sysrd f => exact execSysrd_wf h
  | syswr f => exact execSyswr_wf h
  | wdenter f => exact execWdenter_wf h
  | halt f => exact execHalt_wf h
  | cntrd f => exact execCntrd_wf h
  | cfgld f => exact execCfgld_wf h
  | pgbegin v => exact execPgbegin_wf h
  | patbegin v => exact execPatbegin_wf h
  | patend v => exact execPatend_wf h
  | crc v => exact execCrc_wf h
  | succlo v => exact execSucclo_wf h
  | succhi v => exact execSucchi_wf h
  | pgend v => exact execPgend_wf h
  | rect k v => exact execRect_wf h
  | elementFieldWrite e fld v => exact execElementFieldWrite_wf h
  | wsel e v => exact execWsel_wf h
  | wlo e v => exact execWlo_wf h
  | whi e v => exact execWhi_wf h
  | wctlNone e v => exact execWctlNone_wf h
  | wctlWrite e v => exact execWctlWrite_wf h
  | wctlRead e v => exact execWctlRead_wf h
  | tokenDepart r e c => exact execTokenDepart_wf h
  | tokenArrival r e k => exact execTokenArrival_wf h
  | sidePortCtrl r e => exact execSidePortCtrl_wf h
  | reqAbsorb r e k => exact execReqAbsorb_wf h
  | loadPlacement ld => exact execLoadPlacement_wf h
  | loadActivation ld => exact execLoadActivation_wf h
  | preloadCopy ld n => exact execPreloadCopy_wf h
  | tileStart ld => exact execTileStart_wf h
  | loadComplete ld => exact execLoadComplete_wf h
  | packetStart q k => exact execPacketStart_wf h
  | packetFinish q k => exact execPacketFinish_wf h
  | trigRelease q k => exact execTrigRelease_wf h
  | launchAppend n => exact execLaunchAppend_wf h
  | commitPublish ld => exact execCommitPublish_wf h
  | accessComplete r e id => exact execAccessComplete_wf h
  | parkedWake r e id => exact execParkedWake_wf h
  | translationWalk r e id => exact execTranslationWalk_wf h
  | homeAtomic r e id => exact execHomeAtomic_wf h
  | agsrcPush r e => exact execAgsrcPush_wf h
  | agsnkTake r e => exact execAgsnkTake_wf h
  | streamCmpl r e => exact execStreamCmpl_wf h
  | gathStep r e => exact execGathStep_wf h
  | scatStep r e => exact execScatStep_wf h
  | rowBodyTake r e => exact execRowBodyTake_wf h
  | rowUpdateApply n => exact execRowUpdateApply_wf h
  | ldrowPerform r e id => exact execLdrowPerform_wf h
  | wsrdPush r e => exact execWsrdPush_wf h
  | rowOpIssue r => exact execRowOpIssue_wf h
  | rowBankAct r => exact execRowBankAct_wf h
  | rowOpenExpiry r b => exact execRowOpenExpiry_wf h
  | rowconStrPush r b => exact execRowconStrPush_wf h
  | rowwrBodyTake r => exact execRowwrBodyTake_wf h
  | tconStepTake r => exact execTconStepTake_wf h
  | tconStepWrite r => exact execTconStepWrite_wf h
  | wloadGroupTake r => exact execWloadGroupTake_wf h
  | accrdPush r => exact execAccrdPush_wf h
  | copyAccept x ch => exact execCopyAccept_wf h
  | copyElement x ch => exact execCopyElement_wf h
  | dfabPush x ch => exact execDfabPush_wf h
  | copyCompletion x ch => exact execCopyCompletion_wf h
  | pralineFetch r => exact execPralineFetch_wf h
  | loads b => exact execLoads_wf h
  | setscale b => exact execSetscale_wf h
  | stream b => exact execStream_wf (b := b) h
  | streamBlockPush r => exact execStreamBlockPush_wf h
  | contract b => exact execContract_wf (b := b) h
  | zero b => exact execZero_wf h
  | drain b => exact execDrain_wf h
  | sync b => exact execSync_wf h
  | jump b => exact execJump_wf h
  | jumpif b => exact execJumpif_wf h
  | callt b => exact execCallt_wf h
  | rett b => exact execRett_wf (b := b) h
  | endBlk b => exact execEndBlk_wf h
  | taskStop ld => exact execTaskStop_wf h
  | preemptRequest ld => exact execPreemptRequest_wf h
  | regionStop r => exact execRegionStop_wf h
  | preptFallback r => exact execPreptFallback_wf h
  | scanOut r => exact execScanOut_wf h
  | loadResume ld => exact execLoadResume_wf h
  | budgetExhaust q => exact execBudgetExhaust_wf h
  | npIntervalEnd ld => exact execNpIntervalEnd_wf h
  | bridgeFlitReceive e fl => exact execBridgeFlitReceive_wf h
  | creditFlit k => exact execCreditFlit_wf h
  | remoteRequestPerform dev stream tag => exact execRemoteRequestPerform_wf h
  | remoteResponse tag status data => exact execRemoteResponse_wf h
  | remoteTimeout tag => exact execRemoteTimeout_wf h
  | lotteryDraw => exact execLotteryDraw_wf h
  | weightStoreRefresh => exact execWeightStoreRefresh_wf h
  | rowRefreshSlot g => exact execRowRefreshSlot_wf (g := g) h
  | actBudgetPeriod => exact execActBudgetPeriod_wf h
  | budgetPeriodStart => exact execBudgetPeriodStart_wf h
  | qtailWrite q v => exact execQtailWrite_wf h
  | qcmdStop q => exact execQcmdStop_wf h
  | qcmdResume q => exact execQcmdResume_wf h
  | qfcmdRestart q => exact execQfcmdRestart_wf h
  | qfcmdAbandon q => exact execQfcmdAbandon_wf h
  | qfcmdResume q => exact execQfcmdResume_wf h
  | schedSeedWrite v => exact execSchedSeedWrite_wf h
  | mmuInvGo v => exact execMmuInvGo_wf h
  | mmuInvComplete => exact execMmuInvComplete_wf h
  | mmuSvcMapped v => exact execMmuSvcMapped_wf h
  | mmuSvcUnmappable v => exact execMmuSvcUnmappable_wf h
  | hcwCmd v => exact execHcwCmd_wf h
  | hcwRd => exact execHcwRd_wf h
  | hcwGo => exact execHcwGo_wf h
  | tplDataWrite v => exact execTplDataWrite_wf h
  | tplDataRead => exact execTplDataRead_wf h
  | fwInstall len => exact execFwInstall_wf h
  | fwAttest => exact execFwAttest_wf h
  | rbSelWrite v => exact execRbSelWrite_wf h
  | rbDataRead => exact execRbDataRead_wf h
  | staleClear p k => exact execStaleClear_wf h
  | brgStatClear e => exact execBrgStatClear_wf h
  | glStatWrite k v => exact execGlStatWrite_wf h
  | msixUnmask n => exact execMsixUnmask_wf h
  | registerWrite off bytes => exact execRegisterWrite_wf h
  | hostBar2Read x => exact execHostBar2Read_wf h
  | hostBar2Write x bytes => exact execHostBar2Write_wf h
  | deviceReset => exact execDeviceReset_wf s
  | supplySag => exact execSupplySag_wf h
  | sagRecovery => exact execSagRecovery_wf h
  | powerCapWindow watts => exact execPowerCapWindow_wf h
  | thermalLevelChange st temp => exact execThermalLevelChange_wf h
  | thermalTrip st => exact execThermalTrip_wf h
  | bridgeRetry e seq => exact execBridgeRetry_wf h
  | bridgeRetrain e ok => exact execBridgeRetrain_wf h
  | allowancePeriod => exact execAllowancePeriod_wf h
  | glFlitReceive k bytes => exact execGlFlitReceive_wf h
  | glRetrain k ok => exact execGlRetrain_wf h
  | linkTrained k => exact execLinkTrained_wf h
  | eccInScrubbing pa => exact execEccInScrubbing_wf h

/-! The step -/

theorem runCommand_wf {w : Word} {s : State} (h : Memory.wf s.mem = true) : NextWf (runCommand w s) := by
  unfold runCommand
  split
  · exact exec_wf h
  · exact State.badCommand_wf h

theorem runAct_wf {a : Act} {s : State} (h : Memory.wf s.mem = true) : NextWf (runAct a s) := by
  cases a with
  | fire r e n =>
    simp only [runAct]
    split
    · exact exec_wf h
    · trivial
  | cmd r host w => exact andThen_wf (runCommand_wf h) fun t ht => by simp [ht]
  | loader ld p =>
    have hf := State.loaderFetch_wf (ld := ld) (p := p) h
    simp only [runAct]
    split
    · next e => rwa [e] at hf
    · next e =>
      rw [e] at hf
      exact andThen_wf (runCommand_wf hf) fun t ht => State.loaderAfter_wf ht
  | block r =>
    simp only [runAct]
    split
    · exact exec_wf h
    · exact h
  | timeout tag => exact execRemoteTimeout_wf h
  | install len => exact execFwInstall_wf h
  | event i => exact exec_wf h

theorem step_wf {s : State} (h : Memory.wf s.mem = true) : NextWf (step s) := by
  unfold step
  split
  · exact State.turn_wf h
  · exact andThen_wf (runAct_wf h) fun t ht => by simp [ht]

/-- Settles O59: every act of a step changes the bytes of memory only by writes, commits and the emptying of address ranges, each of which
keeps the canonical form. -/
theorem everyStepKeepsMemoryCanonical : Obligations.EveryStepKeepsMemoryCanonical := by
  intro s t h e
  have ht := step_wf h
  rwa [e] at ht

end Sys2Proof.Machine
end


section
/-!
SUPPORT. Decoding and encoding agree (O57). Packing fields into a word and cutting a word into fields undo each other, for slots (R15, R54),
commands (R60) and block headers (R358); on top of that each decoder undoes the parts of an instruction, and the parts of what it answers are
those of the word.
-/
namespace Sys2Proof

/-! Packed words and their fields -/

theorem slotOpc_packSlot (opc : Byte) (f : Fields) : slotOpc (packSlot opc f) = opc := by
  simp (disch := omega) only [slotOpc, packSlot, BitVec.extractLsb'_append_eq_of_add_le, BitVec.extractLsb'_append_eq_of_le,
    Nat.reduceSub, BitVec.extractLsb'_eq_self]

theorem fieldsOf_packSlot (opc : Byte) (f : Fields) : fieldsOf (packSlot opc f) = f := by
  simp (disch := omega) only [fieldsOf, packSlot, BitVec.extractLsb'_append_eq_of_add_le, BitVec.extractLsb'_append_eq_of_le,
    Nat.reduceSub, BitVec.extractLsb'_eq_self]

theorem packSlot_fieldsOf (w : BitVec 128) : packSlot (slotOpc w) (fieldsOf w) = w := by
  simp (disch := decide) only [slotOpc, fieldsOf, packSlot, BitVec.extractLsb'_append_extractLsb'_eq_extractLsb']
  exact BitVec.extractLsb'_eq_self

theorem op_packBlock (op : Byte) (h : BlockHdr) : (packBlock op h).extractLsb' 0 8 = op :=
  BitVec.extractLsb'_append_eq_right

theorem blockOf_packBlock (op : Byte) (h : BlockHdr) : blockOf (packBlock op h) = h := by
  simp (disch := omega) only [blockOf, packBlock, BitVec.extractLsb'_append_eq_of_add_le, BitVec.extractLsb'_append_eq_of_le,
    Nat.reduceSub, BitVec.extractLsb'_eq_self]

theorem packBlock_blockOf (w : BitVec 128) : packBlock (w.extractLsb' 0 8) (blockOf w) = w := by
  simp (disch := decide) only [blockOf, packBlock, BitVec.extractLsb'_append_extractLsb'_eq_extractLsb']
  exact BitVec.extractLsb'_eq_self

theorem elem_cmdWord (e fld : Byte) (v : Half) : (cmdWord e fld v).extractLsb' 24 8 = e := by
  simp (disch := omega) only [cmdWord, BitVec.extractLsb'_append_eq_of_le, Nat.reduceSub, BitVec.extractLsb'_eq_self]

theorem field_cmdWord (e fld : Byte) (v : Half) : (cmdWord e fld v).extractLsb' 16 8 = fld := by
  simp (disch := omega) only [cmdWord, BitVec.extractLsb'_append_eq_of_add_le, BitVec.extractLsb'_append_eq_of_le, Nat.reduceSub,
    BitVec.extractLsb'_eq_self]

theorem value_cmdWord (e fld : Byte) (v : Half) : (cmdWord e fld v).extractLsb' 0 16 = v :=
  BitVec.extractLsb'_append_eq_right

theorem cmdWord_parts (w : Word) : cmdWord (w.extractLsb' 24 8) (w.extractLsb' 16 8) (w.extractLsb' 0 16) = w := by
  simp (disch := decide) only [cmdWord, BitVec.extractLsb'_append_extractLsb'_eq_extractLsb']
  exact BitVec.extractLsb'_eq_self

/-! What the words of an instruction decode to -/

theorem var_of_variantWf {f : Fields} {v : BitVec 3} (h : variantWf f v = true) : f.var = v := by
  simp only [variantWf, Bool.and_eq_true, beq_iff_eq] at h
  exact h.2

/-- Every slot decodes to the row of its opcode; VAR tells the rows of a shared opcode apart (R59). -/
theorem decodeSlot_packSlot {i : Instr} {opc : Byte} {f : Fields} (hp : slotParts i = some (opc, f)) (hw : i.wf = true) :
    decodeSlot (packSlot opc f) = .ok i := by
  unfold decodeSlot
  rw [slotOpc_packSlot, fieldsOf_packSlot]
  cases i with
  | preg f | stoplvLower f | gchk f | selo f | mmodeOff f | rowconSt f =>
    cases hp
    exact if_pos (var_of_variantWf hw)
  | pregSet f | stoplvWrap f | gchkArm f | seloClr f | mmodeOn f | rowconStr f =>
    cases hp
    have hv := var_of_variantWf hw
    exact (if_neg (hv ▸ by decide)).trans (if_pos hv)
  | rowconWs f =>
    cases hp
    have hv := var_of_variantWf hw
    exact (if_neg (hv ▸ by decide)).trans ((if_neg (hv ▸ by decide)).trans (if_pos hv))
  | _ => cases hp <;> rfl

theorem decodeBlock_packBlock {i : Instr} {op : Byte} {h : BlockHdr} (hp : blockParts i = some (op, h)) :
    decodeBlock (packBlock op h) = .ok i := by
  unfold decodeBlock
  rw [op_packBlock, blockOf_packBlock]
  cases i with
  | _ => cases hp <;> rfl

/-- The element of a well-formed command is neither the page control's nor a reserved one (R60). -/
theorem elemWf_iff {e : Byte} : elemWf e = true ↔ e ≠ 255 ∧ ¬ 148 ≤ e.toNat := by
  refine ⟨fun h => ⟨?_, by simpa [elemWf] using h⟩, fun ⟨_, h⟩ => by simpa [elemWf] using h⟩
  rintro rfl
  exact absurd h (by decide)

theorem rectField_toNat (k : BitVec 4) : ((1 : BitVec 4) ++ k).toNat = k.toNat + 16 := by
  rw [BitVec.toNat_append, ← Nat.shiftLeft_add_eq_or_of_lt k.isLt]
  exact Nat.add_comm ..

/-- The field of RECT with its pattern number lies above those of the other page controls (R63). -/
theorem decodeCmd_rect (k : BitVec 4) (v : Half) : decodeCmd (cmdWord 255 ((1 : BitVec 4) ++ k) v) = .ok (.rect k v) := by
  simp only [decodeCmd, elem_cmdWord, field_cmdWord, value_cmdWord, rectField_toNat, if_true, BitVec.extractLsb'_append_eq_left,
    BitVec.extractLsb'_append_eq_right]

theorem decodeCmd_cmdParts {i : Instr} {w : Word} (hp : cmdParts i = some w) (hw : i.wf = true) : decodeCmd w = .ok i := by
  cases i with
  | rect k v =>
    cases hp
    exact decodeCmd_rect k v
  | elementFieldWrite e fld v =>
    cases hp
    simp only [Instr.wf, Bool.and_eq_true, decide_eq_true_eq, elemWf_iff] at hw
    simp only [decodeCmd, elem_cmdWord, field_cmdWord, value_cmdWord, hw, if_true, if_false]
  | wsel e v | wlo e v | whi e v =>
    cases hp
    obtain ⟨hpage, hres⟩ := elemWf_iff.mp hw
    simp only [decodeCmd, elem_cmdWord, field_cmdWord, value_cmdWord, hpage, hres, if_false]
    rfl
  | wctlNone e v | wctlWrite e v | wctlRead e v =>
    cases hp
    simp only [Instr.wf, Bool.and_eq_true, beq_iff_eq, elemWf_iff] at hw
    obtain ⟨⟨hpage, hres⟩, hop⟩ := hw
    simp only [decodeCmd, elem_cmdWord, field_cmdWord, value_cmdWord, hpage, hres, hop, if_false]
    rfl
  | _ =>
    cases hp <;>
      simp only [decodeCmd, elem_cmdWord, field_cmdWord, value_cmdWord, if_true] <;>
      rfl

/-- Each encoded form is read back by its own decoder, with every operand. -/
theorem decode_encode {i : Instr} (hw : i.wf = true) (hc : encode i ≠ .none) : decode (encode i) = .ok i := by
  cases hs : slotParts i with
  | some p => simpa only [encode, hs, decode] using decodeSlot_packSlot hs hw
  | none =>
    cases hm : cmdParts i with
    | some w => simpa only [encode, hs, hm, decode] using decodeCmd_cmdParts hm hw
    | none =>
      cases hb : blockParts i with
      | some p => simpa only [encode, hs, hm, hb, decode] using decodeBlock_packBlock hb
      | none => exact absurd (by simp only [encode, hs, hm, hb]) hc

/-! What a word that decodes is the word of -/

theorem slotParts_of_decodeSlot {w : BitVec 128} {i : Instr} (h : decodeSlot w = .ok i) : slotParts i = some (slotOpc w, fieldsOf w) := by
  simp only [decodeSlot] at h
  (repeat' split at h) <;>
    cases h <;>
    exact congrArg (fun o => some (o, fieldsOf w)) (BitVec.eq_of_toNat_eq (Eq.symm ‹_›))

theorem blockParts_of_decodeBlock {w : BitVec 128} {i : Instr} (h : decodeBlock w = .ok i) :
    blockParts i = some (w.extractLsb' 0 8, blockOf w) := by
  simp only [decodeBlock] at h
  split at h <;>
    cases h <;>
    exact congrArg (fun o => some (o, blockOf w)) (BitVec.eq_of_toNat_eq (Eq.symm ‹_›))

theorem cmdParts_of_decodeCmd {w : Word} {i : Instr} (h : decodeCmd w = .ok i) : cmdParts i = some w := by
  rw [← cmdWord_parts w]
  simp only [decodeCmd] at h
  generalize w.extractLsb' 24 8 = e, w.extractLsb' 16 8 = fld, w.extractLsb' 0 16 = v at h ⊢
  by_cases he : e = 255
  · subst he
    rw [if_pos rfl] at h
    split at h
    case h_8 =>
      split at h
      · next hk =>
        cases h
        have hf : (1 : BitVec 4) ++ fld.extractLsb' 0 4 = fld :=
          (congrArg (· ++ fld.extractLsb' 0 4) hk.symm).trans BitVec.extractLsb'_append_extractLsb'
        exact congrArg (fun x => some (cmdWord 255 x v)) hf
      · cases h
    all_goals
      cases h
      exact congrArg (fun x => some (cmdWord 255 x v)) (BitVec.eq_of_toNat_eq (Eq.symm ‹_›))
  · rw [if_neg he] at h
    (repeat' split at h) <;> cases h
    · rfl
    all_goals exact congrArg (fun x => some (cmdWord e x v)) (BitVec.eq_of_toNat_eq (Eq.symm ‹_›))

theorem slotParts_of_cmdParts {i : Instr} {w : Word} (h : cmdParts i = some w) : slotParts i = none := by
  cases i with
  | pgbegin _ | patbegin _ | patend _ | crc _ | succlo _ | succhi _ | pgend _ | rect _ _ | elementFieldWrite _ _ _
  | wsel _ _ | wlo _ _ | whi _ _ | wctlNone _ _ | wctlWrite _ _ | wctlRead _ _ => rfl
  | _ => cases h

theorem other_parts_of_blockParts {i : Instr} {p : Byte × BlockHdr} (h : blockParts i = some p) : slotParts i = none ∧ cmdParts i = none := by
  cases i with
  | loads _ | setscale _ | stream _ | contract _ | zero _ | drain _ | sync _ | jump _ | jumpif _ | callt _ | rett _ | endBlk _ => exact ⟨rfl, rfl⟩
  | _ => cases h

theorem encode_of_decodeSlot {w : BitVec 128} {i : Instr} (h : decodeSlot w = .ok i) : encode i = .slot w := by
  simp only [encode, slotParts_of_decodeSlot h, packSlot_fieldsOf]

theorem encode_of_decodeCmd {w : Word} {i : Instr} (h : decodeCmd w = .ok i) : encode i = .cmd w := by
  have hm := cmdParts_of_decodeCmd h
  simp only [encode, slotParts_of_cmdParts hm, hm]

theorem encode_of_decodeBlock {w : BitVec 128} {i : Instr} (h : decodeBlock w = .ok i) : encode i = .block w := by
  have hb := blockParts_of_decodeBlock h
  obtain ⟨hs, hm⟩ := other_parts_of_blockParts hb
  simp only [encode, hs, hm, hb, packBlock_blockOf]

/-- Settles O57: packing and cutting are inverse, so each decoder answers exactly the instruction whose word it is given. -/
theorem decodingAndEncodingAgree : Obligations.DecodingAndEncodingAgree :=
  ⟨fun _ => decode_encode, fun _ _ => encode_of_decodeSlot, fun _ _ => encode_of_decodeCmd, fun _ _ => encode_of_decodeBlock⟩

end Sys2Proof
end


section
/-!
SUPPORT. The configuration stream (R60 to R66): when a command acts and on what, what a shadow reads after writes and stamps, and that the
record of a fault leaves every stream.
-/
namespace Sys2Proof.Machine

/-! Records leave the regions -/

@[simp] theorem State.raiseVector_regions (s : State) (n : Nat) : (s.raiseVector n).regions = s.regions := by
  simp only [State.raiseVector]
  (repeat' split) <;> rfl

@[simp] theorem State.deviceRecord_regions (s : State) (f : FaultRec) : (s.deviceRecord f).regions = s.regions := by
  simp only [State.deviceRecord]
  (repeat' split) <;> simp

@[simp] theorem State.loadRecord_regions (s : State) (k : Nat) (f : FaultRec) : (s.loadRecord k f).regions = s.regions := by
  simp only [State.loadRecord, State.queueRecord]
  (repeat' split) <;> simp

@[simp] theorem State.stopFault_regions (s : State) (k : Nat) (f : FaultRec) : (s.stopFault k f).regions = s.regions := by
  simp only [State.stopFault]
  (repeat' split) <;> simp

@[simp] theorem State.cfgRaise_regions (s : State) (f : FaultRec) : (s.cfgRaise f).regions = s.regions := by
  simp only [State.cfgRaise]
  split <;> simp

@[simp] theorem State.cfg_cfgRaise (s : State) (f : FaultRec) (r : Nat) : (s.cfgRaise f).cfg r = s.cfg r := by
  simp only [State.cfg, State.region, State.cfgRaise_regions]

@[simp] theorem State.cfg_setCfg (s : State) (r : Nat) (c : CfgStream) : (s.setCfg r c).cfg r = c := by
  simp only [State.cfg, State.setCfg, State.onRegion, State.region_setRegion]

/-! Which commands act -/

@[simp] theorem CfgStream.noteIf_false (c : CfgStream) (det : Byte) (unit slot : Nat) : c.noteIf false det unit slot = c := rfl

@[simp] theorem CfgStream.count_recd (c : CfgStream) (w : Word) : (c.count w).recd = c.recd := rfl

section
variable {s : State} {c : CfgStream} (hc : s.cfg s.cur.reg = c)
include hc

theorem pageCommand_dead (hd : c.dead = true) (w : Word) (act : CfgStream → CfgStream) : pageCommand w act s = .next s :=
  if_pos (hc ▸ hd)

theorem pageControl_dead (hd : c.dead = true) (fld : Byte) (v : Half) (act : CfgStream → CfgStream) :
    pageControl fld v act s = .next s := pageCommand_dead hc hd ..

theorem windowCommand_dead (hd : c.dead = true) (e fld : Byte) (v : Half) (act : State → State) :
    windowCommand e fld v act s = .next s := by
  by_cases ho : c.isOpen = true <;> simp [windowCommand, pageCommand_dead hc hd, hc, hd, ho]

theorem wctl_dead (hd : c.dead = true) (e : Byte) (v : Half) (access : Bool) (act : State → Option State) :
    wctl e v access act s = .next s := windowCommand_dead hc hd ..

/-- After a refused command of a window stream none of the fifteen acts (R66). -/
theorem exec_dead (hd : c.dead = true) (v : Half) (e fld : Byte) (k : BitVec 4) :
    ∀ i ∈ [Instr.pgbegin v, .patbegin v, .patend v, .crc v, .succlo v, .succhi v, .pgend v, .rect k v, .elementFieldWrite e fld v,
      .wsel e v, .wlo e v, .whi e v, .wctlNone e v, .wctlWrite e v, .wctlRead e v], exec i s = .next s := by
  have command := pageCommand_dead hc hd
  have control := pageControl_dead hc hd
  have window := windowCommand_dead hc hd
  have access := wctl_dead hc hd
  simp only [List.forall_mem_cons, List.not_mem_nil, false_imp_iff, implies_true, and_true, exec_pgbegin, exec_patbegin, exec_patend, exec_crc,
    exec_succlo, exec_succhi, exec_pgend, exec_rect, exec_elementFieldWrite, exec_wsel, exec_wlo, exec_whi, exec_wctlNone, exec_wctlWrite,
    exec_wctlRead]
  have hdead : (s.cfg s.cur.reg).dead = true := hc ▸ hd
  exact ⟨if_pos hdead, control .., command .., control .., control .., control .., if_pos hdead, control .., command .., window .., window ..,
    window .., access .., access .., access ..⟩

theorem pageCommand_open (hd : c.dead = false) (ho : c.isOpen = true) (w : Word) (act : CfgStream → CfgStream) :
    pageCommand w act s = .next (s.setCfg s.cur.reg (act (c.count w))) := by
  simp [pageCommand, hc, hd, ho]

theorem pageControl_open (hd : c.dead = false) (ho : c.isOpen = true) (hr : c.recd = none)
    (fld : Byte) (v : Half) (act : CfgStream → CfgStream) :
    pageControl fld v act s = .next (s.setCfg s.cur.reg (act (c.count (cmdWord 0xFF fld v)))) := by
  simp [pageControl, pageCommand_open hc hd ho, hr]

theorem windowCommand_closed (hd : c.dead = false) (ho : c.isOpen = false) (e fld : Byte) (v : Half)
    (act : State → State) : windowCommand e fld v act s = .next (act s) := by
  simp [windowCommand, hc, hd, ho]

end

/-! The shadow after writes and stamps -/

/-- Field `fld` of element `e` as the shadow of a stream has it (R63). -/
def CfgStream.shadowField (c : CfgStream) (e fld : Nat) : Half := SMap.get confDefault (SMap.get (fun _ => []) c.shadow e) fld

theorem CfgStream.shadowField_put (c : CfgStream) (e fld : Nat) (v : Half) (d : Nat) :
    (c.put e fld v).shadowField d fld = if d = e then v else c.shadowField d fld := by
  split
  · next h => subst h; simp [CfgStream.shadowField, CfgStream.put]
  · next h => simp only [CfgStream.shadowField, CfgStream.put, SMap.get_set_ne _ _ _ h]

/-- A pattern of one command that is applied to a list of elements is read there, and every other element reads as before. -/
theorem CfgStream.shadowField_stamps (g : Byte) (x : Half) (d : Nat) (es : List Nat) (c : CfgStream) :
    (es.foldl (fun c e => c.stamp e [(g, x)]) c).shadowField d g.toNat = if d ∈ es then x else c.shadowField d g.toNat := by
  induction es generalizing c with
  | nil => rfl
  | cons e es ih =>
    have hput : (c.stamp e [(g, x)]).shadowField d g.toNat = if d = e then x else c.shadowField d g.toNat := c.shadowField_put e g.toNat x d
    rw [List.foldl_cons, ih, hput]
    by_cases hd : d ∈ es <;> simp [hd]

theorem CfgStream.stamp_bad (c : CfgStream) (e : Nat) (p : List (Byte × Half)) : (c.stamp e p).bad = c.bad := by
  unfold CfgStream.stamp
  induction p generalizing c with
  | nil => rfl
  | cons w p ih => exact ih _

theorem CfgStream.stamps_bad (p : List (Byte × Half)) (es : List Nat) (c : CfgStream) :
    (es.foldl (fun c e => c.stamp e p) c).bad = c.bad := by
  induction es generalizing c with
  | nil => rfl
  | cons e es ih => exact (ih _).trans (c.stamp_bad e p)

/-- The elements of a rectangle that lies in the mesh are those of its rows and columns. -/
theorem mem_rectElems {row col rows cols i j : Nat} (hj : j < 16) (hcol : col + cols ≤ 16) :
    16 * i + j ∈ rectElems row col rows cols ↔ (row ≤ i ∧ i < row + rows) ∧ col ≤ j ∧ j < col + cols := by
  simp only [rectElems, List.mem_flatMap, List.mem_map, List.mem_range]
  constructor
  · rintro ⟨a, ha, b, hb, hab⟩
    omega
  · rintro ⟨⟨hi, hi'⟩, hj, hj'⟩
    exact ⟨i - row, by omega, j - col, by omega, by omega⟩

/-! Verification -/

theorem firstViolation_eq_none {vs : List Violation} : firstViolation vs = none ↔ vs = [] := by
  cases vs with
  | nil => simp [firstViolation]
  | cons v vs =>
    simp only [firstViolation, reduceCtorEq, iff_false]
    (repeat' split) <;> simp

end Sys2Proof.Machine
end


section
/-!
SUPPORT. The commands of a page and of a window stream (O45), one lemma for each clause of the statement.
-/
namespace Sys2Proof.Machine
open Sys2Proof.Claims

/-- The element of a window control after the step of WSEL under INC (R66). -/
def incWsel (v : Half) (x : Elem) : Elem := { x with wsel := if v.getLsbD 2 then x.wsel + 1 else x.wsel }

/-- The step of WSEL changes one element of the region in hand. -/
theorem onElem_incWsel (t : State) (e : Nat) (v : Half) :
    let u := if v.getLsbD 2 then t.onElem e fun x => { x with wsel := x.wsel + 1 } else t
    let g := u.region t.cur.reg
    let g0 := t.region t.cur.reg
    g.elem e = incWsel v (g0.elem e) ∧ g.arr = g0.arr ∧ g.row = g0.row ∧ g.seq = g0.seq ∧ u.mem = t.mem ∧ u.hub = t.hub := by
  simp only [incWsel]
  cases v.getLsbD 2 with
  | false => exact ⟨rfl, rfl, rfl, rfl, rfl, rfl⟩
  | true => simp [State.onElem, State.onRegion]

section
variable {s : State} {c : CfgStream} (hc : s.cfg s.cur.reg = c) (hd : c.dead = false)
include hc hd

/-- A page control outside a pattern does no more than count when its action leaves the stream `c'` counted. -/
theorem counts_control {i : Instr} {fld : Byte} {v : Half} {act : CfgStream → CfgStream} {c' : CfgStream}
    (ho : c.isOpen = true) (hr : c.recd = none) (hi : exec i s = pageControl fld v act s)
    (ha : act (c.count (cmdWord 0xFF fld v))
      = { c' with pos := c.pos + 1, crc := crc16Word c.crc (cmdWord 0xFF fld v) }) :
    Counts i (cmdWord 0xFF fld v) s c' := by
  rw [Counts, hi, pageControl_open hc hd ho hr, ha, hc]

theorem exec_pgbegin_opens {v : Half} (ho : c.isOpen = false) (hk : v.getLsbD 15 = false) (hv : v &&& 0x7000 = 0) :
    ∃ u, exec (.pgbegin v) s = .next u ∧ (u.cfg s.cur.reg).isOpen = true ∧ (u.cfg s.cur.reg).keep = false
      ∧ (u.cfg s.cur.reg).page = v.extractLsb' 0 12 ∧ (u.cfg s.cur.reg).shadow = [] ∧ (u.cfg s.cur.reg).bad = none
      ∧ (u.cfg s.cur.reg).pos = 1 := by
  simp only [exec_pgbegin, execPgbegin, hc, hd, ho, hk, hv, bne_self_eq_false, CfgStream.noteIf_false, Bool.false_eq_true, if_false]
  exact ⟨_, rfl, by simp [CfgStream.count, CfgStream.none]⟩

theorem exec_patbegin_records {v : Half} (ho : c.isOpen = true) (hr : c.recd = none) (hv : v &&& 0xFFF0 = 0) :
    Counts (.patbegin v) (cmdWord 0xFF 0x01 v) s { c with
      recd := some (v.extractLsb' 0 4), pats := SMap.set c.pats (v.extractLsb' 0 4).toNat [] } :=
  counts_control hc hd ho hr (exec_patbegin ..) (by simp only [hv, bne_self_eq_false, CfgStream.noteIf_false]; rfl)

theorem exec_crc_matches {v : Half} (ho : c.isOpen = true) (hr : c.recd = none) (hv : v = c.crc) :
    Counts (.crc v) (cmdWord 0xFF 0x03 v) s c :=
  counts_control hc hd ho hr (exec_crc ..) (by simp only [hc, hv, bne_self_eq_false, CfgStream.noteIf_false]; rfl)

theorem exec_succlo_notes (v : Half) (ho : c.isOpen = true) (hr : c.recd = none) (hl : c.lo = none) :
    Counts (.succlo v) (cmdWord 0xFF 0x04 v) s { c with lo := some v } :=
  counts_control hc hd ho hr (exec_succlo ..) (by simp [hl, CfgStream.count])

theorem exec_succhi_notes (v : Half) (ho : c.isOpen = true) (hr : c.recd = none) (hh : c.hi = none) :
    Counts (.succhi v) (cmdWord 0xFF 0x05 v) s { c with hi := some v } :=
  counts_control hc hd ho hr (exec_succhi ..) (by simp [hh, CfgStream.count])

theorem exec_elementFieldWrite_shadow {e fld : Byte} (v : Half) (ho : c.isOpen = true) (hr : c.recd = none)
    (hf : fieldExists e.toNat fld.toNat = true) :
    ∃ u, exec (.elementFieldWrite e fld v) s = .next u
      ∧ SMap.get confDefault (SMap.get (fun _ => []) (u.cfg s.cur.reg).shadow e.toNat) fld.toNat = v
      ∧ (u.cfg s.cur.reg).bad = c.bad
      ∧ ∀ d, d ≠ e.toNat → SMap.get (fun _ => ([] : SMap Half)) (u.cfg s.cur.reg).shadow d = SMap.get (fun _ => []) c.shadow d := by
  refine ⟨_, (exec_elementFieldWrite ..).trans (pageCommand_open hc hd ho ..), ?_⟩
  simp only [State.cfg_setCfg, CfgStream.count_recd, hr, hf, if_true]
  exact ⟨by simp [CfgStream.put], rfl, fun d hne => SMap.get_set_ne _ _ _ hne⟩

/-- RECT stamps a pattern of one command on the elements of its rectangle alone (R63). -/
theorem exec_rect_stamps {k : BitVec 4} {v : Half} {g : Byte} {x : Half} (ho : c.isOpen = true) (hr : c.recd = none)
    (hv : v &&& 3 = 0) (hp : SMap.find c.pats k.toNat = some [(g, x)])
    (hrow : (v.extractLsb' 13 3).toNat + (v.extractLsb' 6 3).toNat ≤ 7) (hcol : (v.extractLsb' 9 4).toNat + (v.extractLsb' 2 4).toNat ≤ 15) :
    ∃ u, exec (.rect k v) s = .next u ∧ (u.cfg s.cur.reg).bad = c.bad ∧ ∀ row col, row < 8 → col < 16 →
      SMap.get confDefault (SMap.get (fun _ => []) (u.cfg s.cur.reg).shadow (16 * row + col)) g.toNat =
        if (v.extractLsb' 13 3).toNat ≤ row ∧ row ≤ (v.extractLsb' 13 3).toNat + (v.extractLsb' 6 3).toNat
          ∧ (v.extractLsb' 9 4).toNat ≤ col ∧ col ≤ (v.extractLsb' 9 4).toNat + (v.extractLsb' 2 4).toNat then x
        else SMap.get confDefault (SMap.get (fun _ => []) c.shadow (16 * row + col)) g.toNat := by
  refine ⟨_, (exec_rect ..).trans (pageControl_open hc hd ho hr ..), ?_⟩
  have hfit : ¬ (8 < (v.extractLsb' 13 3).toNat + ((v.extractLsb' 6 3).toNat + 1)
      ∨ 16 < (v.extractLsb' 9 4).toNat + ((v.extractLsb' 2 4).toNat + 1)) := by omega
  have hp' : SMap.find (c.count (cmdWord 0xFF ((1 : BitVec 4) ++ k) v)).pats k.toNat = some [(g, x)] := hp
  simp only [State.cfg_setCfg, hv, bne_self_eq_false, CfgStream.noteIf_false, hp', hfit, if_false]
  refine ⟨CfgStream.stamps_bad .., fun row col _ hc => (CfgStream.shadowField_stamps ..).trans (ite_congr (propext ?_) (fun _ => rfl) fun _ => rfl)⟩
  rw [mem_rectElems hc (by omega)]
  omega

theorem exec_patend_ends {v : Half} {q : BitVec 4} (ho : c.isOpen = true) (hr : c.recd = some q) (hv : v = 0) :
    Counts (.patend v) (cmdWord 0xFF 0x02 v) s { c with recd := none } := by
  rw [Counts, exec_patend, execPatend, pageCommand_open hc hd ho]
  simp [hc, hr, hv, CfgStream.count]

theorem exec_elementFieldWrite_records {e fld : Byte} (v : Half) {q : BitVec 4} (ho : c.isOpen = true)
    (hr : c.recd = some q) (he : e = 0) (hf : fieldExists 0 fld.toNat = true)
    (hl : (SMap.get (fun _ => ([] : List (Byte × Half))) c.pats q.toNat).length < 256) :
    Counts (.elementFieldWrite e fld v) (cmdWord e fld v) s { c with
      pats := SMap.set c.pats q.toNat (SMap.get (fun _ => []) c.pats q.toNat ++ [(fld, v)]) } := by
  rw [Counts, exec_elementFieldWrite, execElementFieldWrite, pageCommand_open hc hd ho]
  simp [hc, hr, he, hf, Nat.not_le.mpr hl, CfgStream.count]

/-- PGEND commits the shadow of a page without violations and discards that of any other page (R64). -/
theorem exec_pgend_verifies {v : Half} (ho : c.isOpen = true) (hr : c.recd = none) (hv : v = 0) :
    ∃ u, exec (.pgend v) s = .next u ∧
      if (c.count (cmdWord 0xFF 0x06 v)).violations = [] then
        (u.cfg s.cur.reg).done = some c.shadow ∧ (u.cfg s.cur.reg).doneKeep = c.keep
          ∧ (u.cfg s.cur.reg).isOpen = false ∧ u.mem = s.mem
      else (u.cfg s.cur.reg).done = c.done ∧ (u.cfg s.cur.reg).isOpen = false ∧ (u.cfg s.cur.reg).shadow = [] := by
  subst hv
  simp only [exec_pgend, execPgend, hc, hd, ho, hr, bne_self_eq_false, Option.isSome_none, CfgStream.noteIf_false, Bool.not_true,
    Bool.false_eq_true, if_false]
  split
  · next b hb =>
    have hne : (c.count (cmdWord 0xFF 0x06 0)).violations ≠ [] := fun h => by
      rw [firstViolation_eq_none.mpr h] at hb
      cases hb
    refine ⟨_, rfl, ?_⟩
    rw [if_neg hne]
    simp [CfgStream.count]
  · next hb =>
    refine ⟨_, rfl, ?_⟩
    rw [if_pos (firstViolation_eq_none.mp hb)]
    simp [CfgStream.count]

/-- A window control that is not refused: what it reads or writes first, and then the step of WSEL under INC (R66). -/
theorem wctl_accepted {e : Byte} {v : Half} {access : Bool} {act : State → Option State} {t : State} (ho : c.isOpen = false)
    (hv : v &&& 0xFFF8 = 0) (hrun : access = true → (s.region s.cur.reg).running = false) (ht : act s = some t) :
    wctl e v access act s = .next (if v.getLsbD 2 then t.onElem e.toNat fun x => { x with wsel := x.wsel + 1 } else t) := by
  have hidle : (access && (s.region s.cur.reg).running) = false := by cases access <;> simp_all
  simp only [wctl, windowCommand_closed hc hd ho, hv, hidle, ht, bne_self_eq_false, Bool.or_false, Bool.false_eq_true, if_false]

theorem exec_wctlNone_steps {e : Byte} {v : Half} (ho : c.isOpen = false) (hv : v &&& 0xFFF8 = 0) :
    ∃ u, exec (.wctlNone e v) s = .next u
      ∧ (u.region s.cur.reg).elem e.toNat = incWsel v ((s.region s.cur.reg).elem e.toNat) ∧ u.mem = s.mem := by
  obtain ⟨helem, -, -, -, hmem, -⟩ := onElem_incWsel s e.toNat v
  exact ⟨_, wctl_accepted hc hd ho hv (by simp) rfl, helem, hmem⟩

theorem exec_wctlWrite_writes {e : Byte} {v : Half} {g : Region} (ho : c.isOpen = false) (hv : v &&& 0xFFF8 = 0)
    (hrun : (s.region s.cur.reg).running = false)
    (hg : let x := (s.region s.cur.reg).elem e.toNat
      winWrite (s.region s.cur.reg) e.toNat x.wsel (x.whi ++ x.wlo) = some g) :
    ∃ u, exec (.wctlWrite e v) s = .next u ∧ (u.region s.cur.reg).elem e.toNat = incWsel v (g.elem e.toNat) ∧ (u.region s.cur.reg).arr = g.arr
      ∧ (u.region s.cur.reg).row = g.row ∧ (u.region s.cur.reg).seq = g.seq ∧ u.mem = s.mem := by
  obtain ⟨helem, harr, hrow, hseq, hmem, -⟩ := onElem_incWsel (s.setRegion s.cur.reg g) e.toNat v
  simp only [State.setRegion_cur, State.region_setRegion] at helem harr hrow hseq
  refine ⟨_, (exec_wctlWrite ..).trans (wctl_accepted hc hd ho hv (fun _ => hrun) ?_), helem, harr, hrow, hseq, hmem⟩
  exact congrArg (Option.map (s.setRegion s.cur.reg)) hg

/-- A word that the host reads queues in HCW_RD (R397). -/
theorem exec_wctlRead_returns {e : Byte} {v : Half} (ho : c.isOpen = false) (hv : v &&& 0xFFF8 = 0)
    (hrun : (s.region s.cur.reg).running = false) (hh : s.cur.host = true) :
    ∃ u, exec (.wctlRead e v) s = .next u
      ∧ u.hub.hcwRd = s.hub.hcwRd ++ [winRead (s.region s.cur.reg) e.toNat ((s.region s.cur.reg).elem e.toNat).wsel]
      ∧ (u.region s.cur.reg).elem e.toNat = incWsel v ((s.region s.cur.reg).elem e.toNat) ∧ u.mem = s.mem := by
  obtain ⟨helem, -, -, -, hmem, hhub⟩ := onElem_incWsel { s with hub := { s.hub with
    hcwRd := s.hub.hcwRd ++ [winRead (s.region s.cur.reg) e.toNat ((s.region s.cur.reg).elem e.toNat).wsel] } } e.toNat v
  refine ⟨_, (exec_wctlRead ..).trans (wctl_accepted hc hd ho hv (fun _ => hrun) ?_), congrArg Hub.hcwRd hhub, helem, hmem⟩
  exact congrArg some (if_pos hh)

end

/-- Settles O45: each command unfolds to what it does to the stream or the element in hand; a stamp is a fold of writes over the elements of
the rectangle. -/
theorem configurationCommands : Obligations.ConfigurationCommands := by
  intro s v e fld k r c
  refine ⟨fun hd => exec_dead rfl hd v e fld k, fun hd => ⟨exec_pgbegin_opens rfl hd, fun ho hr => ?page, fun q ho hr => ?pattern,
    exec_pgend_verifies rfl hd, fun ho => ?window⟩⟩
  case page =>
    exact ⟨exec_patbegin_records rfl hd ho hr, exec_crc_matches rfl hd ho hr, exec_succlo_notes rfl hd v ho hr, exec_succhi_notes rfl hd v ho hr,
      exec_elementFieldWrite_shadow rfl hd v ho hr, fun g x => exec_rect_stamps rfl hd ho hr⟩
  case pattern => exact ⟨exec_patend_ends rfl hd ho hr, exec_elementFieldWrite_records rfl hd v ho hr⟩
  case window =>
    exact ⟨(exec_wsel ..).trans (windowCommand_closed rfl hd ho ..), (exec_wlo ..).trans (windowCommand_closed rfl hd ho ..),
      (exec_whi ..).trans (windowCommand_closed rfl hd ho ..), fun hv => ⟨exec_wctlNone_steps rfl hd ho hv, fun hrun =>
        ⟨fun g => exec_wctlWrite_writes rfl hd ho hv hrun, exec_wctlRead_returns rfl hd ho hv hrun⟩⟩⟩

end Sys2Proof.Machine
end


section
/-!
SUPPORT. The integer and token instructions (O3 to O11, O18, O19), first part: the lanes of masks and sources, and what a lane firing and a
firing of an instruction's own rule leave.
-/
namespace Sys2Proof.Machine
open Sys2Proof.Claims

/-! Masks and sources, lane by lane -/

/-- The bits that the first `n` lanes set in a mask. -/
theorem getLsbD_foldl_setLane (p : Nat → Bool) (n l : Nat) :
    ((List.range n).foldl (fun m l => if p l then m ||| (1#8 <<< l) else m) 0#8).getLsbD l = (decide (l < n ∧ l < 8) && p l) := by
  induction n with
  | zero => simp
  | succ n ih =>
    have hbit : (1#8 <<< n).getLsbD l = decide (l < 8 ∧ l = n) := by
      rw [BitVec.getLsbD_shiftLeft, BitVec.getLsbD_one, Bool.eq_iff_iff]
      simp only [Bool.and_eq_true, Bool.not_eq_true', decide_eq_true_eq, decide_eq_false_iff_not]
      omega
    rw [List.range_succ, List.foldl_append, List.foldl_cons, List.foldl_nil]
    by_cases hl : l = n
    · subst hl
      split <;> simp [*]
    · have hlt : l < n + 1 ↔ l < n := by omega
      split <;> simp [ih, hbit, hl, hlt]

/-- A mask has the bits of its lanes. -/
theorem getLsbD_maskOf (p : Nat → Bool) {l : Nat} (hl : l < 8) : (maskOf p).getLsbD l = p l :=
  (getLsbD_foldl_setLane p 8 l).trans (by simp [hl])

/-- A lane of all lanes of a source. -/
@[simp] theorem get_srcAll (x : Elem) (f : Fields) (sp : BitVec 6) {l : Nat} (hl : l < 8) : (srcAll x f sp).get l = srcLane x f sp l :=
  Oct.get_ofFn _ hl

/-- The listed lanes are those of the mask. -/
theorem lt_of_mem_lanesIn {m : Byte} {l : Nat} (h : l ∈ lanesIn m) : l < 8 := List.mem_range.mp (List.mem_filter.mp h).1

/-- The lanes of a mask in which a predicate is set, where the predicate comes first (R89). -/
theorem lanesOf_immPred (x : Elem) (f : Fields) (m : Byte) :
    lanesOf (immPred x f &&& m) = (lanesIn m).filter fun l => predAt x l (f.imm.extractLsb' 0 3).toNat := by
  rw [lanesOf, lanesIn, List.filter_filter]
  refine List.filter_congr fun l hl => ?_
  rw [BitVec.getLsbD_and, immPred, getLsbD_maskOf _ (List.mem_range.mp hl)]

/-- The lowest lane of a mask is the first that is listed. -/
theorem lowestLane_eq_head? (m : Byte) : lowestLane m = (lanesOf m).head? := (List.head?_filter ..).symm

theorem lt_of_lowestLane {m : Byte} {l : Nat} (h : lowestLane m = some l) : l < 8 := List.mem_range.mp (List.mem_of_find?_eq_some h)

/-! Lane firings -/

/-- The close of a firing changes the predicates by its update alone (R23). -/
theorem closeFiring_preds (z : Elem) (f : Fields) (o : Res) : (closeFiring z f o).preds = (predUpdate z f o.m o.nz o.cmp).preds := by
  simp only [closeFiring, Elem.flag, predUpdate]
  split
  · simp [Elem.writePred]
  · simp

/-- A firing without a predicate update leaves the predicates (R23). -/
theorem closeFiring_preds_of_pue (z : Elem) {f : Fields} (o : Res) (h : f.pue = 0) : (closeFiring z f o).preds = z.preds := by
  simp [closeFiring_preds, predUpdate, h]

/-- A set-from-compare update gives the lanes of the result their outcome and leaves the others (R23). -/
theorem predAt_closeFiring_compare (z : Elem) {f : Fields} (o : Res) (hu : f.pue = 1) (hp : f.pmode = 1) {l : Nat} (hl : l < 8) :
    predAt (closeFiring z f o) l f.pidx.toNat = if o.m.getLsbD l then o.cmp.getLsbD l else predAt z l f.pidx.toNat := by
  have hy : (closeFiring z f o).preds = (z.writePred f.pidx.toNat o.m o.cmp).preds := by
    rw [closeFiring_preds, predUpdate, if_pos hu, hp]
    rfl
  rw [← predAt_writePred z o.m o.cmp hl f.pidx.isLt]
  simp only [predAt, hy]

/-- A commit closes the firing of an element whose predicates are still those of the start of the cycle. -/
theorem commitRes_closes {x y : Elem} {f : Fields} {fmt : BitVec 3} {o : Res} {g : State → State} (h : commitRes x f fmt o = .done y g) :
    ∃ z, y = closeFiring z f o ∧ z.preds = x.preds := by
  cases ho : outOf f.dst with
  | some c =>
    by_cases hp : x.mayPush c f.okind = true
    · rw [commitRes_out ho hp] at h
      cases h
      exact ⟨_, rfl, rfl⟩
    · simp [commitRes, ho, hp] at h
  | none =>
    cases hr : regOf f.dst with
    | some k =>
      rw [commitRes_reg ho hr] at h
      cases h
      exact ⟨_, rfl, rfl⟩
    | none =>
      rw [commitRes_none ho hr] at h
      cases h
      exact ⟨_, rfl, rfl⟩

section
variable {opc : Byte} {f : Fields} {fmt : BitVec 3} {op : Elem → Byte → Res} {s : State} (h : LaneReady f s)
include h

/-- A lane firing that takes effect lands its result and, under a set-from-compare update, writes its outcomes (R21, R23). -/
theorem fireLane_result {o : Res} (ho : op s.here (execLanes s.here f) = o) :
    ∃ y, fireLane opc f fmt op s = .next (s.fired y) ∧ Lands f fmt o.m o.val.get s.here y
      ∧ (f.pue = 1 → f.pmode = 1 → ∀ l, l < 8 →
          predAt y l f.pidx.toNat = if o.m.getLsbD l then o.cmp.getLsbD l else predAt s.here l f.pidx.toNat) := by
  obtain ⟨hready, hcredit, hfault⟩ := h
  obtain ⟨y, hy, hs⟩ := fireLane_of_ready (opc := opc) (fmt := fmt) (op := op) hready hcredit hfault
  change commitRes s.here f fmt (op s.here (execLanes s.here f)) = _ at hy
  rw [ho] at hy
  obtain ⟨z, rfl, hz⟩ := commitRes_closes hy
  refine ⟨_, hs, (commitRes_kept hy).2, fun hu hp l hl => ?_⟩
  rw [predAt_closeFiring_compare z o hu hp hl, predAt, predAt, hz]

/-- A lane firing whose result stands in E lands the values of its lanes. -/
theorem fireLane_lands {v : Nat → Word} (hm : (op s.here (execLanes s.here f)).m = execLanes s.here f)
    (hv : ∀ l, l < 8 → (op s.here (execLanes s.here f)).val.get l = v l) :
    ∃ y, fireLane opc f fmt op s = .next (s.fired y) ∧ Lands f fmt (execLanes s.here f) v s.here y := by
  obtain ⟨y, hs, hland, -⟩ := fireLane_result (opc := opc) (fmt := fmt) h (o := op s.here (execLanes s.here f)) rfl
  rw [hm] at hland
  exact ⟨y, hs, hland.congr fun l hl _ => hv l hl⟩

/-- A lane firing whose result stands in E lands the values of its lanes and compares with their outcomes. -/
theorem fireLane_lands_compares {v : Nat → Word} {out : Nat → Bool} (hm : (op s.here (execLanes s.here f)).m = execLanes s.here f)
    (hv : ∀ l, l < 8 → (op s.here (execLanes s.here f)).val.get l = v l)
    (hout : ∀ l, l < 8 → (op s.here (execLanes s.here f)).cmp.getLsbD l = out l) :
    ∃ y, fireLane opc f fmt op s = .next (s.fired y) ∧ Lands f fmt (execLanes s.here f) v s.here y
      ∧ Compares f (execLanes s.here f) out y := by
  obtain ⟨y, hs, hland, hpred⟩ := fireLane_result (opc := opc) (fmt := fmt) h (o := op s.here (execLanes s.here f)) rfl
  rw [hm] at hland hpred
  refine ⟨y, hs, hland.congr fun l hl _ => hv l hl, fun hu hp l hl hml => ?_⟩
  rw [hpred hu hp l hl, if_pos hml, hout l hl]

end

/-- The 32-bit elements of an integer instruction are the lanes of its sources (R72). -/
theorem get_intRes_word {f : Fields} (op : Nat → Nat → Nat → Nat → Nat × Byte) (x : Elem) (m : Byte) (hw : f.w64 = 0)
    (he : intWidth f.efmt = 32) {l : Nat} (hl : l < 8) :
    (intRes f op x m).val.get l
      = BitVec.ofNat 32 (op 32 (srcLane x f f.sa l).toNat (srcLane x f f.sb l).toNat (srcLane x f f.sc l).toNat).1 := by
  have helem : ∀ v : Word, elemAt 32 v 0 = v.toNat := fun v => by
    simp [elemAt, Nat.mod_eq_of_lt v.isLt]
  simp [intRes, hw, he, Res.plain, Oct.get_ofFn _ hl, laneElems, helem]

/-- An integer instruction on 32-bit lanes writes the lanes of E (R20, R72). -/
theorem fireInt_lands_word {opc : Byte} {f : Fields} {op : Nat → Nat → Nat → Nat → Nat × Byte} {s : State} (h : LaneReady f s)
    (hw : f.w64 = 0) (he : intWidth f.efmt = 32) {v : Nat → Word}
    (hv : ∀ l, l < 8 → BitVec.ofNat 32
      (op 32 (srcLane s.here f f.sa l).toNat (srcLane s.here f f.sb l).toNat (srcLane s.here f f.sc l).toNat).1 = v l) :
    ∃ y, fireInt opc f op s = .next (s.fired y) ∧ Lands f f.efmt (execLanes s.here f) v s.here y :=
  fireLane_lands h (by simp [intRes, hw, Res.plain]) fun l hl => (get_intRes_word op _ _ hw he hl).trans (hv l hl)

/-! Firings of an instruction's own rule -/

theorem closeFiring_outQ (x : Elem) (f : Fields) (o : Res) (c : Nat) : (closeFiring x f o).outQ c = x.outQ c := by simp [Elem.outQ]

theorem closeFiring_seqOut (x : Elem) (f : Fields) (o : Res) (c : Nat) : (closeFiring x f o).seqOut c = x.seqOut c := by
  simp [Elem.seqOut]

/-- The element with sequence counter `c` written (R78). -/
def setSeq (x : Elem) (c : Nat) (n : BitVec 12) : Elem := { x with seqo := SMap.set x.seqo c n }

@[simp] theorem setSeq_outq (x : Elem) (c : Nat) (n : BitVec 12) : (setSeq x c n).outq = x.outq := rfl
@[simp] theorem setSeq_regs (x : Elem) (c : Nat) (n : BitVec 12) : (setSeq x c n).regs = x.regs := rfl
@[simp] theorem seqOut_setSeq (x : Elem) (c : Nat) (n : BitVec 12) : (setSeq x c n).seqOut c = n := SMap.get_set_same ..

theorem seqOut_setSeq_ne (x : Elem) {c d : Nat} (n : BitVec 12) (h : d ≠ c) : (setSeq x c n).seqOut d = x.seqOut d :=
  SMap.get_set_ne _ _ _ h

/-- A firing of its own rule that takes effect is one step (R21). -/
theorem fireOwn_done {opc : Byte} {f : Fields} {act : Elem → Byte → Fired} {s : State} {y : Elem} {g : State → State} (h : OwnReady f s)
    (ha : act s.here (execLanes s.here f) = .done y g) : fireOwn opc f (Look.lane f) act s = .next (g (s.fired y)) := by
  obtain ⟨hready, hfault⟩ := h
  refine fire_of_done hready ?_
  change (act s.here (execLanes s.here f)).unless (laneFault s s.here f) = _
  rw [ha, hfault]
  rfl

/-- The close of a firing removes the heads of DEQ from the channels of the start of the cycle (R21). -/
theorem closeFiring_dequeues {x z : Elem} (f : Fields) (o : Res) (h : z.inq = x.inq) : Dequeues f x (closeFiring z f o) := fun k => by
  rw [closeFiring_inQ]
  simp only [Elem.inQ, h]

/-- A push and the close of its firing put one token on one output (R11, R21). -/
theorem closeFiring_push_pushesOne (x : Elem) (f : Fields) (o : Res) (c : Nat) (t : Token) :
    PushesOne c t x (closeFiring (x.push c t) f o) := by
  refine ⟨?_, ?_, fun d hd => ⟨?_, ?_⟩⟩
  · rw [closeFiring_outQ, Elem.outQ_push]
  · rw [closeFiring_seqOut, Elem.seqOut_push]
  · rw [closeFiring_outQ, Elem.outQ_push_ne _ _ hd]
  · rw [closeFiring_seqOut, Elem.seqOut_push_ne _ _ hd]

/-- A firing of its own rule that pushes one token, with room for it and credit (R11, R21, R145). -/
theorem fireOwn_pushes {opc : Byte} {f : Fields} {act : Elem → Byte → Fired} {s : State} {c : Nat} {t : Token} {o : Res}
    {g : State → State} (h : OwnReady f s) (ha : act s.here (execLanes s.here f) = pushOne s.here f c t o g)
    (hp : s.here.mayPush c t.kind = true) :
    ∃ y, fireOwn opc f (Look.lane f) act s = .next (g (s.fired y)) ∧ PushesOne c t s.here y ∧ Dequeues f s.here y
      ∧ y.regs = s.here.regs := by
  rw [pushOne, if_pos hp] at ha
  exact ⟨_, fireOwn_done h ha, closeFiring_push_pushesOne .., closeFiring_dequeues f o rfl, by simp [Elem.push]⟩

end Sys2Proof.Machine
end


section
/-!
SUPPORT. The integer and token instructions, second part: bit fields, immediates, lane movements and reductions as R85, R86, R92 and R93
write them.
-/
namespace Sys2Proof.Machine
open Sys2Proof.Claims

/-! Integers of a width -/

/-- A number modulo 2^w is that number in `w` bits. -/
theorem ofNat_toNat_emod (w : Nat) (v : Int) : BitVec.ofNat w (v % 2 ^ w).toNat = BitVec.ofInt w v := by
  apply BitVec.eq_of_toNat_eq
  have hpow : ((2 ^ w : Nat) : Int) = 2 ^ w := Int.natCast_pow 2 w
  have hpos : (0 : Int) < 2 ^ w := Int.pow_pos (by decide)
  have hbound : v % 2 ^ w < 2 ^ w := Int.emod_lt_of_pos v hpos
  have hlt : (v % 2 ^ w).toNat < 2 ^ w := by omega
  rw [BitVec.toNat_ofNat, BitVec.toNat_ofInt, hpow, Nat.mod_eq_of_lt hlt]

/-- Fit to 32 bits clamps under SAT and wraps otherwise (R73). -/
theorem ofNat_fit_word (v : Int) (sat : Bool) :
    BitVec.ofNat 32 (fit v 32 sat false).1 = BitVec.ofInt 32 (if sat then max (-2 ^ 31) (min v (2 ^ 31 - 1)) else v) := by
  have hlo : intLo 32 false = -2 ^ 31 := by decide
  have hhi : intHi 32 false = 2 ^ 31 - 1 := by decide
  cases sat with
  | false => exact ofNat_toNat_emod 32 v
  | true =>
    simp only [fit, if_true, hlo, hhi]
    split
    · next h => rw [ofNat_toNat_emod]; congr 1; omega
    · split
      · next h => rw [ofNat_toNat_emod]; congr 1; omega
      · rw [ofNat_toNat_emod]; congr 1; omega

/-! Bit fields and immediates -/

/-- The number that BFX cuts out is the bit field (R85). -/
theorem ofNat_field (a : Word) (p n : Nat) : BitVec.ofNat n (a.toNat / 2 ^ p % 2 ^ n) = a.extractLsb' p n := by
  apply BitVec.eq_of_toNat_eq
  simp [BitVec.extractLsb'_toNat, Nat.shiftRight_eq_div_pow]

/-- The bits of a field under zero extension (R85). -/
theorem getLsbD_zeroField (a : Word) (p n j : Nat) (hj : j < 32) :
    (BitVec.ofNat 32 (a.toNat / 2 ^ p % 2 ^ n)).getLsbD j = (decide (j < n) && a.getLsbD (p + j)) := by
  rw [BitVec.getLsbD_ofNat, Nat.testBit_mod_two_pow, Nat.testBit_div_two_pow, BitVec.testBit_toNat]
  simp [hj, Nat.add_comm j p]

/-- The bits of a field of at least one bit under sign extension (R85). -/
theorem getLsbD_signField (a : Word) (p n j : Nat) (hn : 0 < n) (hj : j < 32) :
    (BitVec.ofNat 32 (wrapped 32 (sgn n (a.toNat / 2 ^ p % 2 ^ n))).1).getLsbD j
      = if j < n then a.getLsbD (p + j) else a.getLsbD (p + n - 1) := by
  have hsign : BitVec.ofNat 32 (wrapped 32 (sgn n (a.toNat / 2 ^ p % 2 ^ n))).1 = (a.extractLsb' p n).signExtend 32 := by
    rw [wrapped, ofNat_toNat_emod, sgn, ofNat_field, BitVec.signExtend]
  have hlast : n - 1 < n := by omega
  have htop : p + (n - 1) = p + n - 1 := by omega
  rw [hsign, BitVec.getLsbD_signExtend, BitVec.msb_eq_getLsbD_last, BitVec.getLsbD_extractLsb', BitVec.getLsbD_extractLsb']
  simp only [hj, hlast, htop, decide_true, Bool.true_and]
  split
  · next h => simp only [h, decide_true, Bool.true_and]
  · rfl

/-- The bits of a word with a field replaced by low bits of another (R85). -/
theorem getLsbD_insertField (a b : Word) (p n j : Nat) (hj : j < 32) :
    (BitVec.ofNat 32 (b.toNat % 2 ^ p + a.toNat % 2 ^ n * 2 ^ p + b.toNat / (2 ^ p * 2 ^ n) * (2 ^ p * 2 ^ n))).getLsbD j
      = if p ≤ j ∧ j < p + n then a.getLsbD (j - p) else b.getLsbD j := by
  have hsum : b.toNat % 2 ^ p + a.toNat % 2 ^ n * 2 ^ p + b.toNat / (2 ^ p * 2 ^ n) * (2 ^ p * 2 ^ n)
      = 2 ^ p * (2 ^ n * (b.toNat / 2 ^ (p + n)) + a.toNat % 2 ^ n) + b.toNat % 2 ^ p := by
    rw [Nat.pow_add, Nat.mul_add, ← Nat.mul_assoc (2 ^ p) (2 ^ n),
      Nat.mul_comm (b.toNat / (2 ^ p * 2 ^ n)), Nat.mul_comm (a.toNat % 2 ^ n)]
    omega
  have hlow : b.toNat % 2 ^ p < 2 ^ p := Nat.mod_lt _ (Nat.two_pow_pos _)
  have hmid : a.toNat % 2 ^ n < 2 ^ n := Nat.mod_lt _ (Nat.two_pow_pos _)
  rw [BitVec.getLsbD_ofNat, hsum, Nat.testBit_two_pow_mul_add _ hlow, Nat.testBit_two_pow_mul_add _ hmid]
  simp only [hj, decide_true, Bool.true_and, Nat.testBit_mod_two_pow, Nat.testBit_div_two_pow, BitVec.testBit_toNat]
  by_cases hp : j < p
  · have : ¬ p ≤ j := by omega
    simp [hp, this]
  · by_cases hn : j - p < n
    · have : p ≤ j ∧ j < p + n := by omega
      simp [hp, hn, this]
    · have : ¬ (p ≤ j ∧ j < p + n) := by omega
      have hback : j - p - n + (p + n) = j := by omega
      simp [hp, hn, this, hback]

/-- IMM16 over the low half of a word (R86). -/
theorem ofNat_immOverLow (i : Half) (a : Word) : BitVec.ofNat 32 (i.toNat * 65536 + a.toNat % 65536) = i ++ a.extractLsb' 0 16 := by
  apply BitVec.eq_of_toNat_eq
  have hi := i.isLt
  have hlow : a.toNat % 2 ^ 16 < 2 ^ 16 := Nat.mod_lt _ (by decide)
  rw [BitVec.toNat_append, BitVec.extractLsb'_toNat, Nat.shiftRight_zero, ← Nat.shiftLeft_add_eq_or_of_lt hlow, Nat.shiftLeft_eq,
    BitVec.toNat_ofNat]
  omega

/-! Lane movements and reductions -/

/-- SHUF takes the lane that its form names (R92). -/
theorem shufLane_srcAll (x : Elem) (f : Fields) (sa sb : BitVec 6) (form : Nat) {n l : Nat} (hn : n < 8) (hl : l < 8) :
    shufLane form n (srcAll x f sa) (srcAll x f sb) l = shuffled form n (srcLane x f sa) (srcLane x f sb) l := by
  have hrot : (l + n) % 8 < 8 := Nat.mod_lt _ (by decide)
  have hxor : l ^^^ n < 8 := Nat.xor_lt_two_pow (n := 3) hl hn
  have hodd : ¬ l % 2 = 0 → (l - 1) / 2 = l / 2 := by omega
  match form with
  | 0 => simp [shufLane, shuffled, hrot]
  | 3 => simp [shufLane, shuffled, hxor]
  | 1 | 2 | 4 | 5 | 6 | k + 7 =>
    simp only [shufLane, shuffled]
    split <;> simp (disch := omega) [*]

/-- A reduction other than a sum folds its step over the values (R93). -/
theorem combine_fold {op : Nat} (h0 : op ≠ 0) (sat : Bool) (a : Oct Word) (ls : List Nat) {g : Word → Word → Word}
    (hg : ∀ x y, redStep op x y = g x y) : (combine op sat a ls).1 = (ls.map a.get).foldl g (redId op) := by
  simp only [combine, if_neg h0, List.foldl_map, hg]

theorem redStep_min (x y : Word) : redStep 1 x y = if y.slt x then y else x := by
  simp only [redStep, BitVec.slt_iff_toInt_lt, ← Int.not_le, ite_not]

theorem redStep_max (x y : Word) : redStep 2 x y = if x.slt y then y else x := by
  simp only [redStep, BitVec.slt_iff_toInt_lt]
  split
  · split
    · rfl
    · exact (BitVec.eq_of_toInt_eq (by omega)).symm
  · rw [if_neg (by omega)]

theorem redStep_minu (x y : Word) : redStep 3 x y = if y.ult x then y else x := by
  simp only [redStep, BitVec.ult, decide_eq_true_eq, ← Nat.not_le, ite_not]

theorem redStep_maxu (x y : Word) : redStep 4 x y = if x.ult y then y else x := by
  simp only [redStep, BitVec.ult, decide_eq_true_eq]
  split
  · split
    · rfl
    · exact (BitVec.eq_of_toNat_eq (by omega)).symm
  · rw [if_neg (by omega)]

/-- The combination over lanes is that of their values under each operator of R93. -/
theorem combine_eq_combined (op : Nat) (sat : Bool) (a : Oct Word) (ls : List Nat) :
    (combine op sat a ls).1 = combined op sat (ls.map a.get) := by
  match op with
  | 0 =>
    have hsum : ls.foldl (fun t l => t + (a.get l).toInt) 0 = ((ls.map a.get).map BitVec.toInt).sum := by
      rw [List.sum_eq_foldl, List.foldl_map, List.foldl_map]
    simp only [combine, combined, if_true, hsum, ofNat_fit_word]
  | 1 => exact combine_fold (by decide) sat a ls redStep_min
  | 2 => exact combine_fold (by decide) sat a ls redStep_max
  | 3 => exact combine_fold (by decide) sat a ls redStep_minu
  | 4 => exact combine_fold (by decide) sat a ls redStep_maxu
  | 5 => exact combine_fold (by decide) sat a ls fun _ _ => rfl
  | 6 => exact combine_fold (by decide) sat a ls fun _ _ => rfl
  | k + 7 => exact combine_fold (by omega) sat a ls fun _ _ => rfl

/-- A reduction over lanes of a source is the combination of what the source reads there (R93). -/
theorem combine_srcAll (op : Nat) (sat : Bool) (x : Elem) (f : Fields) (sp : BitVec 6) {ls : List Nat} (h : ∀ l ∈ ls, l < 8) :
    (combine op sat (srcAll x f sp) ls).1 = combined op sat (ls.map (srcLane x f sp)) := by
  rw [combine_eq_combined, List.map_congr_left fun l hl => get_srcAll x f sp (h l hl)]

end Sys2Proof.Machine
end


section
/-!
SUPPORT. The integer and token instructions, third part: the statements O3 to O11, O18 and O19.
-/
namespace Sys2Proof.Machine
open Sys2Proof.Claims

/-- Settles O3: a 32-bit lane is one element, and the numbers of the model have the bits of the field, extended or inserted. -/
theorem bitFieldsExtractAndInsert : Obligations.BitFieldsExtractAndInsert := by
  intro f s h hf hw _
  have he : intWidth f.efmt = 32 := by rw [hf]; rfl
  have hpos : fieldPos f = bfPos f := rfl
  have hlen : fieldLen f = bfLen f := rfl
  rw [exec_bfx, exec_bfi, execBfx, execBfi, ← hf, hpos, hlen]
  refine ⟨?bfx, ?bfi⟩
  case bfx =>
    obtain ⟨y, hs, hland⟩ := fireInt_lands_word h hw he fun _ _ => rfl
    refine ⟨y, _, hs, hland, fun l j _ hj => ?_⟩
    by_cases hu : f.uns = 1
    · simpa [hu] using getLsbD_zeroField _ (bfPos f) (bfLen f) j hj
    · have hu0 : f.uns = 0 := by bv_omega
      simpa [hu0] using getLsbD_signField _ (bfPos f) (bfLen f) j (Nat.succ_pos _) hj
  case bfi =>
    obtain ⟨y, hs, hland⟩ := fireInt_lands_word h hw he fun _ _ => rfl
    exact ⟨y, _, hs, hland, fun l j _ hj => getLsbD_insertField _ _ (bfPos f) (bfLen f) j hj⟩

/-- Settles O4: MOVI gives every lane the extended immediate, and MOVH the number whose halves are IMM16 and the low half of a. -/
theorem immediateMovesGiveIMM16 : Obligations.ImmediateMovesGiveIMM16 := by
  intro f s h hf hw
  have he : intWidth f.efmt = 32 := by rcases hf with hf | hf <;> rw [hf] <;> rfl
  rw [exec_movi, exec_movh, execMovi, execMovh]
  exact ⟨fireLane_lands h rfl fun l _ => Oct.get_all _ l, fireInt_lands_word h hw he fun l _ => ofNat_immOverLow ..⟩

/-- Settles O5: the lanes hold the index or all ones, and the outcome of a lane is that its column passed the check. -/
theorem idx2IndexesAndChecks : Obligations.Idx2IndexesAndChecks := by
  intro f s h
  rw [exec_idx2, execIdx2]
  obtain ⟨y, hs, hland, hpred⟩ := fireLane_result h rfl
  refine ⟨y, hs, hland.congr fun l hl _ => ?value, fun hchk hu hp l hl hm => ?outcome⟩
  case value => exact (Oct.get_ofFn _ hl).trans (by simp)
  case outcome =>
    refine ((hpred hu hp l hl).trans (if_pos hm)).trans ((getLsbD_maskOf _ hl).trans ?_)
    simp only [hchk, Bool.true_and, ge_iff_le, ← Nat.not_lt, decide_not, Bool.not_not]

/-- A predicate instruction writes its bit of the two operands in the lanes of E (R90). -/
theorem firePred_writes {opc : Byte} {f : Fields} {s : State} (op : Bool → Bool → Bool) (h : LaneReady f s) (hu : f.pue = 1)
    (hp : f.pmode = 1) :
    ∃ y, firePred opc f op s = .next (s.fired y) ∧ ∀ l, l < 8 → predAt y l f.pidx.toNat =
      if (execLanes s.here f).getLsbD l then op (predX s.here f l) (predY s.here f l) else predAt s.here l f.pidx.toNat := by
  rw [firePred]
  obtain ⟨y, hs, -, hpred⟩ := fireLane_result (opc := opc) (fmt := 0) h rfl
  refine ⟨y, hs, fun l hl => ?_⟩
  rw [hpred hu hp l hl, getLsbD_maskOf _ hl]

/-- Each of the five is a predicate instruction with the function of the table (R90). -/
theorem exec_predTable : ∀ p ∈ predTable, ∃ opc, ∀ f s, exec (p.1 f) s = firePred opc f p.2 s := by
  simp only [predTable, List.forall_mem_cons, List.not_mem_nil, false_imp_iff, implies_true, and_true]
  exact ⟨⟨_, exec_pand⟩, ⟨_, exec_por⟩, ⟨_, exec_pxor⟩, ⟨_, exec_pnot⟩, ⟨_, exec_pmov⟩⟩

/-- Settles O6: each of the five fires as a predicate instruction, whose operands are the predicates inverted or not. -/
theorem predicateInstructionsWriteOneBit : Obligations.PredicateInstructionsWriteOneBit := by
  intro p hmem f s h hu hp
  obtain ⟨opc, hexec⟩ := exec_predTable p hmem
  rw [hexec]
  exact firePred_writes p.2 h hu hp

/-- Settles O7: PREG lands the predicates, and `.set` leaves the new ones, which no update of PUE touches. -/
theorem pregReadsAndWritesPredicates : Obligations.PregReadsAndWritesPredicates := by
  intro f s h
  rw [exec_preg, exec_pregSet, execPreg, execPregSet]
  refine ⟨fireLane_lands h rfl fun l hl => Oct.get_ofFn _ hl, fun hpue => ?set⟩
  obtain ⟨hready, -, hfault⟩ := h
  refine ⟨_, fireOwn_done (g := id) ⟨hready, hfault⟩ rfl, fun l hl => ?_, by simp, by simp, by simp, ?_⟩
  · rw [closeFiring_preds_of_pue _ _ hpue]
    exact Oct.get_ofFn _ hl
  · simp [closeFiring_sflags, noResult]

/-- A lane movement lands the lanes that its rule takes (R92). -/
theorem fireMove_lands {opc : Byte} {f : Fields} {g : Oct Word → Oct Word → Nat → Word} {s : State} {v : Nat → Word} (h : LaneReady f s)
    (hv : ∀ l, l < 8 → g (srcAll s.here f f.sa) (srcAll s.here f f.sb) l = v l) :
    ∃ y, fireMove opc f g s = .next (s.fired y) ∧ Lands f f.efmt (execLanes s.here f) v s.here y :=
  fireLane_lands h rfl fun l hl => (Oct.get_ofFn _ hl).trans (hv l hl)

/-- Settles O8: each is a lane movement, whose lanes all lie among the eight. -/
theorem laneMovesPermuteLanes : Obligations.LaneMovesPermuteLanes := by
  intro f s h a b n e
  have hn : n < 8 := (f.imm.extractLsb' 0 3).isLt
  rw [exec_bcast, exec_perm, exec_shuf, execBcast, execPerm, execShuf]
  refine ⟨fireMove_lands h fun _ _ => get_srcAll _ _ _ hn, fireMove_lands h fun _ hl => ?perm, fireMove_lands h fun l hl => ?shuf⟩
  case perm => rw [get_srcAll _ _ _ hl, get_srcAll _ _ _ (Nat.mod_lt _ (by decide))]
  case shuf => exact shufLane_srcAll _ _ _ _ _ hn hl

/-- A reduction lands in each lane the combination of the lanes of E that it picks there (R93). -/
theorem fireRed_lands {opc : Byte} {f : Fields} {s : State} (pick : Nat → Nat → Bool) (h : LaneReady f s) :
    ∃ y, fireRed opc f pick s = .next (s.fired y)
      ∧ Lands f f.efmt (execLanes s.here f) (fun l => combined f.var.toNat (f.sat == 1)
          (((lanesIn (execLanes s.here f)).filter (pick l)).map (srcLane s.here f f.sa))) s.here y :=
  fireLane_lands h rfl fun _ hl => (Oct.get_ofFn _ hl).trans
    (combine_srcAll _ _ _ _ _ fun _ hj => lt_of_mem_lanesIn (List.mem_filter.mp hj).1)

/-- Settles O9: LRED picks every lane of E, and LSCAN those up to a lane or below it. -/
theorem reductionsCombineLanesOfE : Obligations.ReductionsCombineLanesOfE := by
  intro f s h a e
  rw [exec_lred, exec_lscan, execLred, execLscan]
  have hall : (lanesIn e).filter (fun _ => true) = lanesIn e := List.filter_eq_self.mpr fun _ _ => rfl
  have hred := fireRed_lands (opc := 0x49) (fun _ _ => true) h
  rw [hall] at hred
  exact ⟨hred, fireRed_lands _ h⟩

/-- Settles O10: both count and search the lanes of E in which the predicate is set, in their order. -/
theorem countsOfPredicateLanes : Obligations.CountsOfPredicateLanes := by
  intro f s h e hits
  have hlanes : lanesOf (immPred s.here f &&& e) = hits := lanesOf_immPred ..
  have hfirst : lowestLane (immPred s.here f &&& e) = hits.head? := by rw [lowestLane_eq_head?, hlanes]
  rw [exec_pcount, exec_first, execPcount, execFirst]
  refine ⟨fireLane_lands h rfl fun l hl => ?count, fireLane_lands_compares h rfl (fun _ _ => ?lowest) fun l hl => ?outcome⟩
  case count =>
    refine (Oct.get_ofFn _ hl).trans ?_
    dsimp only
    rw [hlanes, List.countP_eq_length_filter]
    cases f.var.getLsbD 0 with
    | false =>
      have hall : hits.filter (fun j => !false || decide (j < l)) = hits := List.filter_eq_self.mpr fun _ _ => rfl
      rw [hall]
      rfl
    | true => rfl
  case lowest =>
    refine (Oct.get_all ..).trans ?_
    rw [hfirst, List.headD_eq_head?_getD]
  case outcome =>
    refine (getLsbD_maskOf _ hl).trans ?_
    rw [hfirst]
    cases hits.head? with
    | none => simpa using Nat.ne_of_lt hl
    | some j => simp [Bool.beq_comm]

/-- Settles O11: EMIT lands its source, and the counters stand in every lane. -/
theorem emitAndCounterReads : Obligations.EmitAndCounterReads := by
  intro f s h e
  rw [exec_emit, exec_seqget, exec_wsph, execEmit, execSeqget, execWsph]
  exact ⟨fireLane_lands h rfl fun l hl => get_srcAll _ _ _ hl, fireLane_lands h rfl fun l _ => Oct.get_all _ l,
    fireLane_lands h rfl fun l _ => Oct.get_all _ l⟩

/-- Settles O18: with a head and an output both push one token, which is the head as the rule changes it. -/
theorem tokenForwarding : Obligations.TokenForwarding := by
  intro f s k h c hready hk hh hc sq e
  have hhead : (chanOf f.sa).bind s.here.head = some h := by rw [hk]; exact hh
  rw [exec_pass, exec_tagset, execPass, execTagset]
  refine ⟨fireOwn_pushes hready (o := s.openRes e) ?_, fun hp => fireOwn_pushes hready (o := s.openRes e) ?_ hp⟩
  all_goals
    simp only [hhead, hc]
    rfl

/-- Settles O19: the three are firings of their own rule: NOP closes, DEMAND pushes one token, SEQSET writes its counter. -/
theorem nopDemandAndSeqset : Obligations.NopDemandAndSeqset := by
  refine ⟨fun f s h => ?nop, fun f s c h hc hk => ?demand, fun f s h => ?seqset⟩
  case nop =>
    rw [exec_nop, execNop]
    refine ⟨_, fireOwn_done (g := id) h rfl, closeFiring_dequeues f _ rfl, by simp, by simp, by simp, ?_, by simp,
      closeFiring_preds_of_pue _ _⟩
    simp [closeFiring_sflags, noResult]
  case demand =>
    rw [exec_demand, execDemand]
    refine fireOwn_pushes h (o := s.openRes (execLanes s.here f)) ?_ rfl
    simp only [hc, hk]
    rfl
  case seqset =>
    intro c
    rw [exec_seqset, execSeqset]
    cases hl : lowestLane (execLanes s.here f) with
    | none =>
      refine ⟨closeFiring s.here f (s.openRes (execLanes s.here f)), fireOwn_done h (by simp only [hl]), ?_⟩
      exact ⟨fun _ hk => (nomatch hk), fun _ => closeFiring_seqOut .., fun _ _ => closeFiring_seqOut .., by simp, by simp,
        closeFiring_dequeues f _ rfl⟩
    | some l =>
      refine ⟨closeFiring (setSeq s.here c ((srcLane s.here f f.sa l).extractLsb' 0 12)) f (s.openRes (execLanes s.here f)),
        fireOwn_done h ?_, fun k hk => ?_, fun hk => (nomatch hk), fun d hd => ?_, by simp, by simp, closeFiring_dequeues f _ rfl⟩
      · simp only [hl, get_srcAll _ _ _ (lt_of_lowestLane hl)]
        rfl
      · cases hk
        rw [closeFiring_seqOut, seqOut_setSeq]
      · rw [closeFiring_seqOut, seqOut_setSeq_ne _ _ hd]

end Sys2Proof.Machine
end
